-- ==== Sys2Proof/Word.lean ====
section
/-! DEFINITION. The word types of the Colhan 4 (00 R1, R4): 32-bit words, 64-bit addresses, 32-lane vectors
and the sparse maps the state is made of. Nothing here is a rule of the machine beyond widths. -/

namespace Sys2Proof

/-- A 32-bit word (R4): one lane of a vector register, a uniform register, an instruction word. -/
abbrev Word := BitVec 32

/-- A 64-bit value: an address, a PC, a pair of registers. -/
abbrev DWord := BitVec 64

/-- One byte of memory. -/
abbrev Byte := BitVec 8

/-- A set of lanes, lane i at bit i (EXECMASK, TRAPMASK, RETIRED and one predicate of 32 lanes). -/
abbrev Mask := BitVec 32

/-- The 32 lanes of one vector register (R4: V[n][i]). -/
abbrev LaneVec := Vector Word 32

/-- Sparse data by key: keys strictly rising, no entry equal to the default the reader supplies. -/
abbrev NMap (α : Type) := List (Nat × α)

/-- The vector whose lane i is `f i`. -/
def lanes (f : Nat → Word) : LaneVec := Vector.ofFn fun i => f i.val

/-- Lane i of a vector (0 beyond lane 31, which no rule reads). -/
def LaneVec.lane (v : LaneVec) (i : Nat) : Word := if h : i < 32 then v[i] else 0

/-- The vector with every lane 0. -/
def zeroVec : LaneVec := lanes fun _ => 0

end Sys2Proof
end

