-- ==== Sys2Proof/Syntax.lean ====
section
/-! DEFINITION. The instructions and events of the Colhan 4: one constructor per row of spec/opcode_table.json.
The first 179 are instruction words (07 R80-R88), their fields as the table names them; `u` is the U bit of the slot,
which the frame header holds (R79), on every word that R79 allows with either value. The last 88 are the steps of the
device, the host and the peers that are no instruction words (95_what_each_step_holds.md): their arguments are what the
outside decides, such as which group's store leaves its queue or which register the host writes. -/

namespace Sys2Proof

/-- Where the device takes a launch from (R307): a hardware work queue, or the LAUNCH at the head of a group's post queue. -/
inductive TakeSource where
  | queue (q : Nat)
  | group (gid : Nat)
  deriving DecidableEq, Repr

/-- Where a record that arrives at a home core comes from (R266, R268): the head of a group's post queue, the records
that dependence blocks have enqueued, or a peer's post. -/
inductive RecordSource where
  | group (gid : Nat)
  | dependence
  | peer
  deriving DecidableEq, Repr

/-- What a POST.R lane is answered with (R274). -/
inductive Answer where
  | reply (words : List Word)
  | broken (detail : Nat)
  /-- the request ended as a fault at a peer's home (R323) -/
  | fault
  | timeout
  deriving DecidableEq, Repr

/-- Where a reply comes from: the replies a CDONE or an error has left in this device, or a peer home, with the unlogged mark
it may carry (R335). -/
inductive ReplySource where
  | local (index : Nat)
  | peer (gid lane : Nat) (answer : Answer) (mark : Bool)
  deriving DecidableEq, Repr

/-- What a die's hottest sensor reads (R22): above the trip point, below it, or at it. -/
inductive SensorReading where
  | aboveTrip
  | belowTrip
  | other
  deriving DecidableEq, Repr, Inhabited

/-- The AtomicOp requests the memory window serves (R345). -/
inductive WindowAtomic where
  | fetchAdd
  | swap
  | cas
  deriving DecidableEq, Repr

/-- What a POST to a peer carries beside its records: does its lane wait for a reply (R274), LOGMARK (R335), is it a DET launch's, and
does it end its POST (R332)? -/
structure PostMarks where
  reply : Bool
  logMark : Bool
  det : Bool := false
  postEnd : Bool := false
  deriving DecidableEq, Repr

/-- What a peer asks for (R346): a load, a store, an atomic of R203 (its op code and operands), a SIGNAL on a dependence
block, or a POST to an object here. -/
inductive PeerKind where
  | load (size : Nat)
  | store (bytes : List Byte)
  | atomic (size op : Nat) (operand new : DWord)
  | signal
  /-- each lane's number, its count of posts and its words; the posting launch, team and group (R333); and how the poster marks it -/
  | post (lanes : List (Nat × Nat × List Word)) (launch team group : Nat) (marks : PostMarks)
  deriving DecidableEq, Repr

/-- A request from a peer: its source's device number and peer group, the local physical address and what it asks. -/
structure PeerReq where
  domid : Nat
  peerGroup : Nat
  addr : Nat
  kind : PeerKind
  deriving DecidableEq, Repr

/-- Where an uncorrectable error stands (R349): a line of vault or bulk DRAM at a physical address, or a register or
scratchpad of a team. -/
inductive ErrorSite where
  | memory (addr : Nat)
  | team (team : Nat)
  deriving DecidableEq, Repr

/-- Where a team is placed (R29): its TEAMID (of a saved team its name), its core, and the partition and slot of each of its
groups in the order of GROUPID. -/
structure TeamSpot where
  team : Nat
  core : Nat
  places : List (Nat × Nat)
  deriving DecidableEq, Repr

/-- The partition and slot of each group of a team, in the order of GROUPID, and the spots of the teams that are placed in the same
step (R29, R41). -/
structure TeamPlaces where
  here : List (Nat × Nat)
  others : List TeamSpot := []
  deriving DecidableEq, Repr

/-- A group's access at the host or a peer, the lanes in which it is answered by a failure (R323), and the GENTAG that an answer to a
load carries (R326). -/
structure RemoteLanes where
  gid : Nat
  lanes : BitVec 32
  tag : Nat := 0
  deriving DecidableEq, Repr

/-- The two signatures that a firmware image carries (R347). -/
structure FirmwareSigs where
  ed25519 : List Byte := []
  mlDsa65 : List Byte := []
  deriving DecidableEq, Repr

/-- A corrected error (R349, R350): the core it happened in, if it did in one, and whether a spare has replaced the vault row or
channel at fault. -/
structure CorrectedError where
  core : Option Nat
  spared : Bool
  deriving DecidableEq, Repr

/-- The notice of an unlogged batch (R335): the launch it is for, and whether it comes from a peer. -/
structure MarkNotice where
  launch : Nat
  peer : Bool
  deriving DecidableEq, Repr

/-- The instructions and events: one constructor per row of the opcode table. -/
inductive Instr where
  /-- NOP (R127): Does nothing; bits [23:0] must be zero, so the all-zero word is NOP. -/
  | nop (u : Bool)
  /-- MOV (R127): Copies a to d in each lane with act(i). -/
  | mov (u : Bool) (g : BitVec 3) (d : BitVec 7) (a : BitVec 7)
  /-- IADD (R127): Writes d = (a + b) mod 2^32. -/
  | iadd (u : Bool) (g : BitVec 3) (d : BitVec 7) (a : BitVec 7) (b : BitVec 7)
  /-- ISUB (R127): Writes d = (a - b) mod 2^32. -/
  | isub (u : Bool) (g : BitVec 3) (d : BitVec 7) (a : BitVec 7) (b : BitVec 7)
  /-- IMULLO (R127): Writes the low 32 bits of a times b. -/
  | imullo (u : Bool) (g : BitVec 3) (d : BitVec 7) (a : BitVec 7) (b : BitVec 7)
  /-- IMULHI (R127): Writes the high 32 bits of the signed product of a and b. -/
  | imulhi (u : Bool) (g : BitVec 3) (d : BitVec 7) (a : BitVec 7) (b : BitVec 7)
  /-- IMULHIU (R127): Writes the high 32 bits of the unsigned product of a and b. -/
  | imulhiu (u : Bool) (g : BitVec 3) (d : BitVec 7) (a : BitVec 7) (b : BitVec 7)
  /-- IMIN (R127): Writes the signed lesser of a and b. -/
  | imin (u : Bool) (g : BitVec 3) (d : BitVec 7) (a : BitVec 7) (b : BitVec 7)
  /-- IMAX (R127): Writes the signed greater of a and b. -/
  | imax (u : Bool) (g : BitVec 3) (d : BitVec 7) (a : BitVec 7) (b : BitVec 7)
  /-- UMIN (R127): Writes the unsigned lesser of a and b. -/
  | umin (u : Bool) (g : BitVec 3) (d : BitVec 7) (a : BitVec 7) (b : BitVec 7)
  /-- UMAX (R127): Writes the unsigned greater of a and b. -/
  | umax (u : Bool) (g : BitVec 3) (d : BitVec 7) (a : BitVec 7) (b : BitVec 7)
  /-- AND (R127): Writes the bitwise AND of a and b. -/
  | and (u : Bool) (g : BitVec 3) (d : BitVec 7) (a : BitVec 7) (b : BitVec 7)
  /-- OR (R127): Writes the bitwise OR of a and b. -/
  | or (u : Bool) (g : BitVec 3) (d : BitVec 7) (a : BitVec 7) (b : BitVec 7)
  /-- XOR (R127): Writes the bitwise XOR of a and b. -/
  | xor (u : Bool) (g : BitVec 3) (d : BitVec 7) (a : BitVec 7) (b : BitVec 7)
  /-- ANDN (R127): Writes a AND NOT b. -/
  | andn (u : Bool) (g : BitVec 3) (d : BitVec 7) (a : BitVec 7) (b : BitVec 7)
  /-- SHL (R128): Shifts a left by the N32 count in b. -/
  | shl (u : Bool) (g : BitVec 3) (d : BitVec 7) (a : BitVec 7) (b : BitVec 7)
  /-- SHR (R128): Shifts a right logically by the count in b. -/
  | shr (u : Bool) (g : BitVec 3) (d : BitVec 7) (a : BitVec 7) (b : BitVec 7)
  /-- SAR (R128): Shifts a right arithmetically by the count in b. -/
  | sar (u : Bool) (g : BitVec 3) (d : BitVec 7) (a : BitVec 7) (b : BitVec 7)
  /-- BFEU (R128): Extracts an unsigned bit field of a at position and width taken from b. -/
  | bfeu (u : Bool) (g : BitVec 3) (d : BitVec 7) (a : BitVec 7) (b : BitVec 7)
  /-- BFES (R128): Extracts a sign-extended bit field of a. -/
  | bfes (u : Bool) (g : BitVec 3) (d : BitVec 7) (a : BitVec 7) (b : BitVec 7)
  /-- POPC (R127): Writes the number of 1 bits of a. -/
  | popc (u : Bool) (g : BitVec 3) (d : BitVec 7) (a : BitVec 7)
  /-- CLZ (R127): Writes the number of leading zero bits of a. -/
  | clz (u : Bool) (g : BitVec 3) (d : BitVec 7) (a : BitVec 7)
  /-- BREV (R127): Writes a with its bits reversed. -/
  | brev (u : Bool) (g : BitVec 3) (d : BitVec 7) (a : BitVec 7)
  /-- SEL (R140): Writes every lane of the mask with a or b chosen by the guard used as a selector. -/
  | sel (u : Bool) (g : BitVec 3) (d : BitVec 7) (a : BitVec 7) (b : BitVec 7)
  /-- FADD (R133): FP32 addition rounded to nearest even. -/
  | fadd (u : Bool) (g : BitVec 3) (d : BitVec 7) (a : BitVec 7) (b : BitVec 7)
  /-- FSUB (R133): FP32 subtraction rounded to nearest even. -/
  | fsub (u : Bool) (g : BitVec 3) (d : BitVec 7) (a : BitVec 7) (b : BitVec 7)
  /-- FMUL (R133): FP32 multiplication rounded to nearest even. -/
  | fmul (u : Bool) (g : BitVec 3) (d : BitVec 7) (a : BitVec 7) (b : BitVec 7)
  /-- FMIN (R133): FP32 minimum with -0 below +0 and NaN ranked below numbers. -/
  | fmin (u : Bool) (g : BitVec 3) (d : BitVec 7) (a : BitVec 7) (b : BitVec 7)
  /-- FMAX (R133): FP32 maximum with -0 below +0 and NaN ranked below numbers. -/
  | fmax (u : Bool) (g : BitVec 3) (d : BitVec 7) (a : BitVec 7) (b : BitVec 7)
  /-- HADD2 (R134): Adds two packed FP16 elements per lane. -/
  | hadd2 (u : Bool) (g : BitVec 3) (d : BitVec 7) (a : BitVec 7) (b : BitVec 7)
  /-- HMUL2 (R134): Multiplies two packed FP16 elements per lane. -/
  | hmul2 (u : Bool) (g : BitVec 3) (d : BitVec 7) (a : BitVec 7) (b : BitVec 7)
  /-- BADD2 (R134): Adds two packed BF16 elements per lane. -/
  | badd2 (u : Bool) (g : BitVec 3) (d : BitVec 7) (a : BitVec 7) (b : BitVec 7)
  /-- BMUL2 (R134): Multiplies two packed BF16 elements per lane. -/
  | bmul2 (u : Bool) (g : BitVec 3) (d : BitVec 7) (a : BitVec 7) (b : BitVec 7)
  /-- ICMPEQ (R137): Sets predicate d where a equals b. -/
  | icmpeq (u : Bool) (g : BitVec 3) (d : BitVec 7) (a : BitVec 7) (b : BitVec 7)
  /-- ICMPNE (R137): Sets predicate d where a differs from b. -/
  | icmpne (u : Bool) (g : BitVec 3) (d : BitVec 7) (a : BitVec 7) (b : BitVec 7)
  /-- ICMPLT (R137): Sets predicate d where signed a < b. -/
  | icmplt (u : Bool) (g : BitVec 3) (d : BitVec 7) (a : BitVec 7) (b : BitVec 7)
  /-- ICMPLE (R137): Sets predicate d where signed a <= b. -/
  | icmple (u : Bool) (g : BitVec 3) (d : BitVec 7) (a : BitVec 7) (b : BitVec 7)
  /-- UCMPLT (R137): Sets predicate d where unsigned a < b. -/
  | ucmplt (u : Bool) (g : BitVec 3) (d : BitVec 7) (a : BitVec 7) (b : BitVec 7)
  /-- UCMPLE (R137): Sets predicate d where unsigned a <= b. -/
  | ucmple (u : Bool) (g : BitVec 3) (d : BitVec 7) (a : BitVec 7) (b : BitVec 7)
  /-- FCMPEQ (R137): Sets predicate d where neither operand is NaN and fp(a) = fp(b). -/
  | fcmpeq (u : Bool) (g : BitVec 3) (d : BitVec 7) (a : BitVec 7) (b : BitVec 7)
  /-- FCMPNE (R137): Sets predicate d where either operand is NaN or fp(a) differs from fp(b). -/
  | fcmpne (u : Bool) (g : BitVec 3) (d : BitVec 7) (a : BitVec 7) (b : BitVec 7)
  /-- FCMPLT (R137): Sets predicate d where neither is NaN and fp(a) < fp(b). -/
  | fcmplt (u : Bool) (g : BitVec 3) (d : BitVec 7) (a : BitVec 7) (b : BitVec 7)
  /-- FCMPLE (R137): Sets predicate d where neither is NaN and fp(a) <= fp(b). -/
  | fcmple (u : Bool) (g : BitVec 3) (d : BitVec 7) (a : BitVec 7) (b : BitVec 7)
  /-- FCMPUN (R137): Sets predicate d where either operand is NaN. -/
  | fcmpun (u : Bool) (g : BitVec 3) (d : BitVec 7) (a : BitVec 7) (b : BitVec 7)
  /-- PAND (R138): Writes predicate d = a AND b. -/
  | pand (u : Bool) (g : BitVec 3) (d : BitVec 7) (a : BitVec 7) (b : BitVec 7)
  /-- POR (R138): Writes predicate d = a OR b. -/
  | por (u : Bool) (g : BitVec 3) (d : BitVec 7) (a : BitVec 7) (b : BitVec 7)
  /-- PXOR (R138): Writes predicate d = a XOR b. -/
  | pxor (u : Bool) (g : BitVec 3) (d : BitVec 7) (a : BitVec 7) (b : BitVec 7)
  /-- PANDN (R138): Writes predicate d = a AND NOT b. -/
  | pandn (u : Bool) (g : BitVec 3) (d : BitVec 7) (a : BitVec 7) (b : BitVec 7)
  /-- SHFLIDX (R144): Writes each active lane with register a of the lane indexed by b[4:0]. -/
  | shflidx (g : BitVec 3) (d : BitVec 7) (a : BitVec 7) (b : BitVec 7)
  /-- SHFLXOR (R144): Writes each active lane with register a of lane i XOR n, n from a broadcast b. -/
  | shflxor (g : BitVec 3) (d : BitVec 7) (a : BitVec 7) (b : BitVec 7)
  /-- LSHUP (R145): Moves register a up by the broadcast count of lanes. -/
  | lshup (g : BitVec 3) (d : BitVec 7) (a : BitVec 7) (b : BitVec 7)
  /-- LSHDN (R145): Moves register a down by the broadcast count of lanes. -/
  | lshdn (g : BitVec 3) (d : BitVec 7) (a : BitVec 7) (b : BitVec 7)
  /-- VOTEBAL (R146): Writes the ballot of predicate a over active lanes to every active lane. -/
  | votebal (g : BitVec 3) (d : BitVec 7) (a : BitVec 7)
  /-- VOTEANY (R146): Sets predicate d where any active lane has predicate a. -/
  | voteany (g : BitVec 3) (d : BitVec 7) (a : BitVec 7)
  /-- VOTEALL (R146): Sets predicate d where every active lane has predicate a. -/
  | voteall (g : BitVec 3) (d : BitVec 7) (a : BitVec 7)
  /-- RDFIRST (R147): Writes register a of the lowest active lane to every active lane. -/
  | rdfirst (g : BitVec 3) (d : BitVec 7) (a : BitVec 7)
  /-- FRCP (R136): Writes the correctly rounded reciprocal, on the special-function port. -/
  | frcp (u : Bool) (g : BitVec 3) (d : BitVec 7) (a : BitVec 7)
  /-- FRSQ (R136): Writes the correctly rounded reciprocal square root. -/
  | frsq (u : Bool) (g : BitVec 3) (d : BitVec 7) (a : BitVec 7)
  /-- FEX2 (R136): Writes the correctly rounded 2 to the power a. -/
  | fex2 (u : Bool) (g : BitVec 3) (d : BitVec 7) (a : BitVec 7)
  /-- FLG2 (R136): Writes the correctly rounded base-2 logarithm. -/
  | flg2 (u : Bool) (g : BitVec 3) (d : BitVec 7) (a : BitVec 7)
  /-- FSIN (R136): Writes the correctly rounded sine. -/
  | fsin (u : Bool) (g : BitVec 3) (d : BitVec 7) (a : BitVec 7)
  /-- FCOS (R136): Writes the correctly rounded cosine. -/
  | fcos (u : Bool) (g : BitVec 3) (d : BitVec 7) (a : BitVec 7)
  /-- PSAVE (R139): Packs a bank of 32 predicates into a register. -/
  | psave (u : Bool) (g : BitVec 3) (d : BitVec 7) (a : BitVec 7)
  /-- PLOAD (R139): Loads a bank of 32 predicates from a register. -/
  | pload (u : Bool) (g : BitVec 3) (d : BitVec 7) (a : BitVec 7)
  /-- IADDI (R129): Adds a sign-extended imm8 to a. -/
  | iaddi (u : Bool) (g : BitVec 3) (d : BitVec 7) (a : BitVec 7) (i : BitVec 8)
  /-- ANDI (R129): Bitwise AND with a zero-extended imm8. -/
  | andi (u : Bool) (g : BitVec 3) (d : BitVec 7) (a : BitVec 7) (i : BitVec 8)
  /-- ORI (R129): Bitwise OR with a zero-extended imm8. -/
  | ori (u : Bool) (g : BitVec 3) (d : BitVec 7) (a : BitVec 7) (i : BitVec 8)
  /-- XORI (R129): Bitwise XOR with a zero-extended imm8. -/
  | xori (u : Bool) (g : BitVec 3) (d : BitVec 7) (a : BitVec 7) (i : BitVec 8)
  /-- SHLI (R129): Shifts left by imm8. -/
  | shli (u : Bool) (g : BitVec 3) (d : BitVec 7) (a : BitVec 7) (i : BitVec 8)
  /-- SHRI (R129): Shifts right logically by imm8. -/
  | shri (u : Bool) (g : BitVec 3) (d : BitVec 7) (a : BitVec 7) (i : BitVec 8)
  /-- SARI (R129): Shifts right arithmetically by imm8. -/
  | sari (u : Bool) (g : BitVec 3) (d : BitVec 7) (a : BitVec 7) (i : BitVec 8)
  /-- ICMPEQI (R137): Sets predicate d where signed a equals the sign-extended imm8. -/
  | icmpeqi (u : Bool) (g : BitVec 3) (d : BitVec 7) (a : BitVec 7) (i : BitVec 8)
  /-- ICMPLTI (R137): Sets predicate d where signed a is less than the imm8. -/
  | icmplti (u : Bool) (g : BitVec 3) (d : BitVec 7) (a : BitVec 7) (i : BitVec 8)
  /-- ICMPGTI (R137): Sets predicate d where signed a is greater than the imm8. -/
  | icmpgti (u : Bool) (g : BitVec 3) (d : BitVec 7) (a : BitVec 7) (i : BitVec 8)
  /-- MOVI (R129): Writes the sign-extended imm8 to d. -/
  | movi (u : Bool) (g : BitVec 3) (d : BitVec 7) (i : BitVec 8)
  /-- SRD (R148): Reads the special register named by imm8. -/
  | srd (u : Bool) (g : BitVec 3) (d : BitVec 7) (i : BitVec 8)
  /-- SWR (R149): Writes the special register named by imm8 from the lowest active lane or S[a]. -/
  | swr (u : Bool) (g : BitVec 3) (a : BitVec 7) (i : BitVec 8)
  /-- GSET (R150): Sets guard slot gk to name a predicate, optionally negated, in p or q space. -/
  | gset (d : BitVec 7) (a : BitVec 7) (i : BitVec 2)
  /-- WIN (R151): Sets WINBASE, or raises the window trap if the base lies beyond the allocation. -/
  | win (i : BitVec 4)
  /-- LDSPILL (R152): Loads each active lane's word of spill slot k. -/
  | ldspill (g : BitVec 3) (d : BitVec 7) (i : BitVec 8)
  /-- STSPILL (R152): Stores each active lane's word to spill slot k. -/
  | stspill (g : BitVec 3) (d : BitVec 7) (i : BitVec 8)
  /-- CVT (R141): Converts a by the conversion and rounding codes in imm8. -/
  | cvt (u : Bool) (g : BitVec 3) (d : BitVec 7) (a : BitVec 7) (i : BitVec 8)
  /-- LSHUPI (R145): Moves register a up by imm8 lanes. -/
  | lshupi (g : BitVec 3) (d : BitVec 7) (a : BitVec 7) (i : BitVec 8)
  /-- LSHDNI (R145): Moves register a down by imm8 lanes. -/
  | lshdni (g : BitVec 3) (d : BitVec 7) (a : BitVec 7) (i : BitVec 8)
  /-- SHFLXORI (R144): Writes register a of lane i XOR imm[4:0]. -/
  | shflxori (g : BitVec 3) (d : BitVec 7) (a : BitVec 7) (i : BitVec 5)
  /-- IMULI (R129): Multiplies a by the sign-extended imm8 modulo 2^32. -/
  | imuli (u : Bool) (g : BitVec 3) (d : BitVec 7) (a : BitVec 7) (i : BitVec 8)
  /-- FFMA (R135): Fused a*b + d rounded once in the mode given by mod. -/
  | ffma (u : Bool) (m : BitVec 2) (g : BitVec 2) (d : BitVec 7) (a : BitVec 7) (b : BitVec 7)
  /-- FFMN (R135): Fused a*b - d rounded once in the mode given by mod. -/
  | ffmn (u : Bool) (m : BitVec 2) (g : BitVec 2) (d : BitVec 7) (a : BitVec 7) (b : BitVec 7)
  /-- IMAD (R130): Writes d = (a*b + d) mod 2^32. -/
  | imad (u : Bool) (g : BitVec 2) (d : BitVec 7) (a : BitVec 7) (b : BitVec 7)
  /-- IADDMIN_SS (R131): Signed saturating a + b, then the minimum with d. -/
  | iaddminSs (u : Bool) (g : BitVec 2) (d : BitVec 7) (a : BitVec 7) (b : BitVec 7)
  /-- IADDMIN_NN (R131): Unsigned saturating a + b, then the minimum with d. -/
  | iaddminNn (u : Bool) (g : BitVec 2) (d : BitVec 7) (a : BitVec 7) (b : BitVec 7)
  /-- HFMA2 (R135): Fused multiply-add on two packed FP16 elements. -/
  | hfma2 (u : Bool) (m : BitVec 2) (g : BitVec 2) (d : BitVec 7) (a : BitVec 7) (b : BitVec 7)
  /-- BFMA2 (R135): Fused multiply-add on two packed BF16 elements. -/
  | bfma2 (u : Bool) (m : BitVec 2) (g : BitVec 2) (d : BitVec 7) (a : BitVec 7) (b : BitVec 7)
  /-- DP4 (R132): Adds the exact dot product of four 8-bit elements to d, wrapping. -/
  | dp4 (u : Bool) (m : BitVec 2) (g : BitVec 2) (d : BitVec 7) (a : BitVec 7) (b : BitVec 7)
  /-- DP8 (R132): Adds the exact dot product of eight 4-bit elements to d, wrapping. -/
  | dp8 (u : Bool) (m : BitVec 2) (g : BitVec 2) (d : BitVec 7) (a : BitVec 7) (b : BitVec 7)
  /-- BFI (R130): Inserts a bit field of a into d at position and width from b. -/
  | bfi (u : Bool) (g : BitVec 2) (d : BitVec 7) (a : BitVec 7) (b : BitVec 7)
  /-- IADD3 (R130): Writes d = (a + b + d) mod 2^32. -/
  | iadd3 (u : Bool) (g : BitVec 2) (d : BitVec 7) (a : BitVec 7) (b : BitVec 7)
  /-- ISAD (R130): Adds the absolute signed difference of a and b to d. -/
  | isad (u : Bool) (g : BitVec 2) (d : BitVec 7) (a : BitVec 7) (b : BitVec 7)
  /-- IADD64 (R130): Adds sign-extended b to the 64-bit pair at a into the pair at d. -/
  | iadd64 (u : Bool) (g : BitVec 2) (d : BitVec 7) (a : BitVec 7) (b : BitVec 7)
  /-- LD (R200): Loads 1 to 16 bytes per lane from global memory, zero-extended. -/
  | ld (u : Bool) (x : BitVec 3) (d : BitVec 7) (a : BitVec 7) (s : BitVec 3) (c : BitVec 5)
  /-- LDS (R200): Loads 1 or 2 bytes per lane from global memory, sign-extended. -/
  | lds (u : Bool) (x : BitVec 3) (d : BitVec 7) (a : BitVec 7) (s : BitVec 1) (c : BitVec 5)
  /-- ST (R200): Stores 1 to 16 bytes per lane to global memory through the store queue. -/
  | st (u : Bool) (x : BitVec 3) (d : BitVec 7) (a : BitVec 7) (s : BitVec 3) (c : BitVec 5)
  /-- SLD (R200): Loads from scratchpad, subject to line states. -/
  | sld (u : Bool) (d : BitVec 7) (a : BitVec 7) (s : BitVec 3) (c : BitVec 5)
  /-- SLDS (R200): Loads 1 or 2 bytes from scratchpad, sign-extended. -/
  | slds (u : Bool) (d : BitVec 7) (a : BitVec 7) (s : BitVec 1) (c : BitVec 5)
  /-- SST (R200): Stores to scratchpad, subject to line states. -/
  | sst (u : Bool) (d : BitVec 7) (a : BitVec 7) (s : BitVec 3) (c : BitVec 5)
  /-- LDTS (R208): Counts a pending copy completion at a barrier object and queues per-lane global-to-scratchpad copies. -/
  | ldts (x : BitVec 3) (d : BitVec 7) (a : BitVec 7) (s : BitVec 3) (q : BitVec 2)
  /-- CPY (R207): Queues per-lane copies of 4, 8 or 16 bytes in the given direction on a copy queue. -/
  | cpy (x : BitVec 3) (d : BitVec 7) (a : BitVec 7) (s : BitVec 3) (r : BitVec 2) (q : BitVec 2)
  /-- ATOM (R203): Per-lane atomic read-modify-write at DEV or SYS scope returning the old value. -/
  | atom (x : BitVec 3) (d : BitVec 7) (a : BitVec 7) (s : BitVec 1) (o : BitVec 4) (e : BitVec 1)
  /-- RED (R203): Per-lane atomic read-modify-write returning nothing. -/
  | red (x : BitVec 3) (d : BitVec 7) (a : BitVec 7) (s : BitVec 1) (o : BitVec 4) (e : BitVec 1)
  /-- SATOM (R203): Per-lane scratchpad atomic at TEAM scope returning the old value. -/
  | satom (d : BitVec 7) (a : BitVec 7) (s : BitVec 1) (o : BitVec 4)
  /-- PREF (R202): Loads each lane's translation into the partition's lookaside buffer, never trapping. -/
  | pref (x : BitVec 3) (a : BitVec 7) (s : BitVec 3) (c : BitVec 5)
  /-- LDA (R201): Drains the store queue, loads, and acts as an acquire at the given scope. -/
  | lda (u : Bool) (x : BitVec 3) (d : BitVec 7) (a : BitVec 7) (s : BitVec 3) (e : BitVec 2)
  /-- STREL (R201): Drains the store queue and stores as a release at the given scope. -/
  | strel (u : Bool) (x : BitVec 3) (d : BitVec 7) (a : BitVec 7) (s : BitVec 3) (e : BitVec 2)
  /-- BAR (R217): Arrives at a barrier object with a combined payload and parks until the phase ends. -/
  | bar (d : BitVec 7) (a : BitVec 7) (o : BitVec 2) (n : BitVec 6)
  /-- BARARR (R217): Arrives at a barrier object and returns the phase token without waiting. -/
  | bararr (d : BitVec 7) (a : BitVec 7) (o : BitVec 2) (n : BitVec 6)
  /-- BARWAIT (R218): Waits until the barrier object's phase differs from the token. -/
  | barwait (a : BitVec 7) (n : BitVec 6)
  /-- FENCE (R220): Drains the store queue and orders the ordinary path at a scope. -/
  | fence (s : BitVec 2)
  /-- QFENCE (R221): Orders the paths named in the mask and raises any recorded engine fault. -/
  | qfence (s : BitVec 2) (m : BitVec 8)
  /-- PAUSE (R222): Makes the group youngest in its pair's age matrix for n clk. -/
  | pause (n : BitVec 16)
  /-- YIELD (R223): Continues at the target when a queue, barrier or line condition holds, waiting in the pending set otherwise. -/
  | yield (o : BitVec 11) (k : BitVec 2) (r : BitVec 10)
  /-- XLAT (R205): Walks a uniform pointer and fills a translation register. -/
  | xlat (d : BitVec 7) (a : BitVec 7) (w : BitVec 1)
  /-- GATH (R211): Queues a gather of indexed table rows into scratchpad. -/
  | gath (d : BitVec 7) (a : BitVec 7) (w : BitVec 1)
  /-- SCAT (R212): Queues an ordered or combining scatter of scratchpad rows to table rows. -/
  | scat (d : BitVec 7) (a : BitVec 7) (k : BitVec 2) (m : BitVec 1) (w : BitVec 1)
  /-- MCAST (R213): Queues a multicast of scratchpad bytes to teams of the grid and returns delivery status. -/
  | mcast (d : BitVec 7) (a : BitVec 7)
  /-- MGANG (R230): Checks and loads the group's gang register. -/
  | mgang (a : BitVec 7)
  /-- MMA (R232): Arrives at the gang's rendezvous latch and, once complete and checked, queues one gang contribution. -/
  | mma (d : BitVec 7) (a : BitVec 7) (c : BitVec 1) (t : BitVec 3)
  /-- MDRAIN (R238): Queues a copy of eight tile rows into sixteen registers. -/
  | mdrain (d : BitVec 7) (s : BitVec 3) (t : BitVec 3)
  /-- MSTORE (R239): Queues a store or add-on-store of a whole tile to memory. -/
  | mstore (a : BitVec 7) (k : BitVec 1) (s : BitVec 1) (c : BitVec 2) (n : BitVec 1) (t : BitVec 3)
  /-- MZERO (R240): Queues zeroing of one tile or all tiles. -/
  | mzero (l : BitVec 1) (t : BitVec 3)
  /-- MFENCE (R241): Closes the matrix queue's operations into a numbered batch. -/
  | mfence (d : BitVec 7)
  /-- MWAIT (R242): Waits for batch n and earlier batches, then raises any matrix fault record. -/
  | mwait (n : BitVec 4)
  /-- NTAKE (R236): Waits until the gang's ring position holds the needle. -/
  | ntake
  /-- NPASS (R237): Waits for the group's MMAs to enter, then passes the needle on. -/
  | npass
  /-- PASS (R249): Waits for the next anytime pass to open or a finish-now decision and returns slot pointers. -/
  | pass (a : BitVec 7) (j : BitVec 7)
  /-- SEAL (R251): Releases and adds the team's seal arrival and quality to the open pass. -/
  | seal (a : BitVec 7)
  /-- VREAD (R256): Reads a version header, optionally pinning the sealed slot. -/
  | vread (a : BitVec 7) (p : BitVec 1) (j : BitVec 7)
  /-- VWAIT (R256): Waits for a readable version of demanded quality or the end of the producer, then reads as VREAD. -/
  | vwait (a : BitVec 7) (p : BitVec 1) (j : BitVec 7)
  /-- VDONE (R258): Releases and decrements a slot's pin. -/
  | vdone (a : BitVec 7) (m : BitVec 7)
  /-- POST (R274): Posts one request per active lane to a combinable object, optionally waiting for replies. -/
  | post (d : BitVec 7) (a : BitVec 7) (r : BitVec 1) (j : BitVec 7)
  /-- REPLY (R275): Records a combiner reply for each named token. -/
  | reply (d : BitVec 7) (a : BitVec 7)
  /-- CDONE (R276): Commits the combiner batch, delivers replies and retires the group. -/
  | cdone
  /-- ENQ (R278): Sends records to a task node, or publishes dependence blocks under .DEP. -/
  | enq (d : BitVec 7) (a : BitVec 7) (e : BitVec 1) (j : BitVec 7)
  /-- SIGNAL (R279): Decrements a dependence block per lane and enqueues the successor when it reaches zero. -/
  | signal (a : BitVec 7) (s : BitVec 1)
  /-- LAUNCH (R280): Starts a grid from a launch descriptor and returns its status. -/
  | launch (d : BitVec 7) (j : BitVec 7)
  /-- LWAIT (R290): Pins a resident layer, or parks until it arrives, and returns its window. -/
  | lwait (a : BitVec 7) (j : BitVec 7)
  /-- LDONE (R291): Waits for earlier accesses and releases a layer pin. -/
  | ldone (a : BitVec 7)
  /-- LHINT (R292): Records a request to fetch a layer. -/
  | lhint (a : BitVec 7)
  /-- ENRD (R297): Reads an energy gauge, reservoir level or launch energy as a 64-bit snapshot. -/
  | enrd (k : BitVec 7) (j : BitVec 7)
  /-- COMMIT (R331): Waits for the DET commit token and acquires at DEV. -/
  | commit
  /-- TOKPASS (R331): Drains, releases at DEV and passes the commit token on. -/
  | tokpass
  /-- JOIN (R158): Pops the reconvergence stack, switching to a pending path or rejoining. -/
  | join
  /-- RET (R161): Transfers to the link held in s126 or s125. -/
  | ret (l : BitVec 1)
  /-- JMPI (R161): Transfers to the address in a uniform register pair. -/
  | jmpi (a : BitVec 7)
  /-- EXIT (R160): Retires the lanes of the mask and runs resume(). -/
  | exit
  /-- TRAP (R319): Raises a user trap with payload n in every lane of the mask. -/
  | trap (n : BitVec 23)
  /-- SYS (R319): Raises a supervisor trap with payload n. -/
  | sys (n : BitVec 23)
  /-- TRET (R318): Leaves a handler by retrying, skipping or halting. -/
  | tret (m : BitVec 2)
  /-- BKPT (R319): Stops for an attached debugger, or traps through UTV. -/
  | bkpt (n : BitVec 23)
  /-- PMAP (R321): Maps a not-present page from the free-frame pool, or requests it from the host. -/
  | pmap (d : BitVec 7) (a : BitVec 7) (e : BitVec 1) (w : BitVec 1)
  /-- TLBI_DRAIN (R322): Marks lookaside entries of a virtual range as draining and cuts overlapping translation registers. -/
  | tlbiDrain (j : BitVec 7)
  /-- TLBI_CONFIRM (R322): Waits until drained writes are performed and draining entries removed. -/
  | tlbiConfirm
  /-- BRA (R155): Branches relative, diverging by the guard and pushing a pending path. -/
  | bra (u : Bool) (g : BitVec 3) (o : BitVec 23)
  /-- CALL (R155): Branches as BRA and writes the link into s126. -/
  | call (u : Bool) (g : BitVec 3) (o : BitVec 23)
  /-- MARK (R157): Pushes a REJOIN entry for the rejoin point. -/
  | mark (o : BitVec 23)
  /-- BRK (R159): Removes the guarded lanes from the mask until the nearest REJOIN. -/
  | brk (g : BitVec 3)
  /-- TRAMP (R92): Branches through a trampoline table entry and writes s125. -/
  | tramp (g : BitVec 3) (k : BitVec 16)
  /-- PROBE (R93): Raises a probe trap with a 26-bit payload. -/
  | probe (n : BitVec 26)
  /-- MOVL (R142): Writes the 32-bit literal to d. -/
  | movl (u : Bool) (d : BitVec 7) (lit : BitVec 32)
  /-- IADDL (R142): Adds the literal to a. -/
  | iaddl (u : Bool) (d : BitVec 7) (a : BitVec 7) (lit : BitVec 32)
  /-- ANDL (R142): Bitwise AND with the literal. -/
  | andl (u : Bool) (d : BitVec 7) (a : BitVec 7) (lit : BitVec 32)
  /-- ORL (R142): Bitwise OR with the literal. -/
  | orl (u : Bool) (d : BitVec 7) (a : BitVec 7) (lit : BitVec 32)
  /-- XORL (R142): Bitwise XOR with the literal. -/
  | xorl (u : Bool) (d : BitVec 7) (a : BitVec 7) (lit : BitVec 32)
  /-- IMULL (R142): Multiplies a by the literal modulo 2^32. -/
  | imull (u : Bool) (d : BitVec 7) (a : BitVec 7) (lit : BitVec 32)
  /-- ICMPEQL (R137): Sets a predicate where a equals the literal. -/
  | icmpeql (u : Bool) (d : BitVec 7) (a : BitVec 7) (lit : BitVec 32)
  /-- ICMPLTL (R137): Sets a predicate where signed a is below the literal. -/
  | icmpltl (u : Bool) (d : BitVec 7) (a : BitVec 7) (lit : BitVec 32)
  /-- FADDL (R142): FP32 addition of the literal. -/
  | faddl (u : Bool) (d : BitVec 7) (a : BitVec 7) (lit : BitVec 32)
  /-- FMULL (R142): FP32 multiplication by the literal. -/
  | fmull (u : Bool) (d : BitVec 7) (a : BitVec 7) (lit : BitVec 32)
  /-- FFMAL (R142): FP32 a times literal plus d, rounded once. -/
  | ffmal (u : Bool) (d : BitVec 7) (a : BitVec 7) (lit : BitVec 32)
  /-- FCMPLTL (R137): Sets a predicate where fp(a) is below the literal. -/
  | fcmpltl (u : Bool) (d : BitVec 7) (a : BitVec 7) (lit : BitVec 32)
  /-- FRAME_FETCH (R71), an event: A group fetches a code frame and its header, trapping on an illegal frame. -/
  | frameFetch (gid : Nat)
  /-- STALL_COUNT_ELAPSE (R72), an event: A slot's stall count elapses and the group becomes eligible to issue. -/
  | stallCountElapse (gid : Nat)
  /-- ACTIVE_SET_FILL (R35), an event: The oldest ready pending group moves into the active set in an idle clk or after 16 clk ready. -/
  | activeSetFill (core part : Nat)
  /-- FORCED_ROTATION (R35), an event: After 64 clk ready with the active set full, the longest-active group is swapped out for the pending group. -/
  | forcedRotation (core part : Nat)
  /-- PAUSE_EXPIRY (R222), an event: A PAUSE's n clk elapse and the group stops being youngest. -/
  | pauseExpiry (gid : Nat)
  /-- LOAD_RETURN (R75), an event: An interlocked load or engine result is written, or dropped if its GENTAG is stale. -/
  | loadReturn (gid tag : Nat)
  /-- STORE_PERFORMED (R185), an event: A queued store leaves the store queue, merges at the port and is performed. -/
  | storePerformed (gid : Nat)
  /-- REMOTE_ERROR_REPLY (R323), an event: A host or peer access fails at its target and the initiator traps or sets the sticky error. -/
  | remoteErrorReply (access : RemoteLanes)
  /-- REMOTE_TIMEOUT (R323), an event: A remote access receives no answer within the remote timeout. -/
  | remoteTimeout (access : RemoteLanes)
  /-- COPY_PART_ARRIVAL (R169), an event: A 16-byte part of a copy or gather arrives, writing its bytes and updating line counts. -/
  | copyPartArrival (gid queue part : Nat)
  /-- COPY_PART_FAULT (R206), an event: An engine part faults, poisoning lines and noting the queue's fault record. -/
  | copyPartFault (gid queue part : Nat)
  /-- MCAST_PART_ARRIVAL (R214), an event: A multicast part arrives and is accepted or dropped by generation. -/
  | mcastPartArrival (gid part : Nat)
  /-- GANG_OPERATION_ENTRY (R227), an event: A gang contribution enters the matrix unit and is applied member by member. -/
  | gangOperationEntry (op : Nat)
  /-- MDRAIN_ENTRY (R238), an event: A drain enters the unit and writes tile rows to registers. -/
  | mdrainEntry (gid : Nat)
  /-- MSTORE_ENTRY (R239), an event: A tile store enters the unit, reads the tile and writes or fails as one update. -/
  | mstoreEntry (gid : Nat)
  /-- MZERO_ENTRY (R240), an event: A zero operation enters the unit and clears tiles. -/
  | mzeroEntry (gid : Nat)
  /-- NEEDLE_PASS (R235), an event: The needle moves to the next ring position once the passer's MMAs have entered. -/
  | needlePass (gid : Nat)
  /-- QUEUE_ENTRY_TAKE (R307), an event: The device takes a queue entry, reads and checks the launch descriptor and accepts or fails it. -/
  | queueEntryTake (src : TakeSource)
  /-- TEAM_PLACE (R29), an event: Once room exists, all groups of a team are placed together. -/
  | teamPlace (launch team core : Nat) (places : TeamPlaces)
  /-- TEAM_END (R30), an event: A team's last group has ended and its engine operations are done; its scratchpad is released. -/
  | teamEnd (team : Nat)
  /-- LAUNCH_COMPLETE (R305), an event: A launch ends and its completion record is written as a SYS release. -/
  | launchComplete (launch : Nat)
  /-- TIME_LIMIT_EXPIRY (R324), an event: A launch's time limit runs out and the launch is cut. -/
  | timeLimitExpiry (launch : Nat)
  /-- ENERGY_LIMIT_REACHED (R296), an event: A launch's attributed energy reaches its limit and the launch is cut. -/
  | energyLimitReached (launch : Nat)
  /-- PASS_OPEN (R248), an event: After the previous seal and a free slot, the next pass opens or is decided finish now. -/
  | passOpen (launch : Nat)
  /-- SKEIN_RECORD_ARRIVAL (R267), an event: A record arrives at a home core and is accepted into a skein or waits. -/
  | skeinRecordArrival (src : RecordSource)
  /-- SKEIN_TIMER_EXPIRY (R267), an event: A skein's timer expires and it moves to FIRE. -/
  | skeinTimerExpiry (skein : Nat)
  /-- SKEIN_FIRE (R40), an event: A firing skein places its combiner or node group once room exists. -/
  | skeinFire (skein part slot : Nat)
  /-- WATCHDOG_EXPIRY (R272), an event: A combiner runs 100,000 clk without CDONE, is halted and its object marked BROKEN. -/
  | watchdogExpiry (skein : Nat)
  /-- POST_REPLY_ARRIVAL (R274), an event: A reply or error for a POST.R lane reaches the poster. -/
  | postReplyArrival (src : ReplySource)
  /-- LAYER_FETCH_START (R285), an event: The swap engine chooses an ABSENT layer, obtains space and starts copying it. -/
  | layerFetchStart (ctx : Nat)
  /-- LAYER_ARRIVAL (R287), an event: A layer's image is written and verified; it becomes RESIDENT and parked LWAITs take pins. -/
  | layerArrival (ctx : Nat)
  /-- LAYER_FETCH_FAULT (R287), an event: A layer fetch fails and the layer becomes FAULTED. -/
  | layerFetchFault (ctx cause : Nat)
  /-- EVICTION_COMPLETE (R287), an event: An evicting layer's unmapping completes and it becomes ABSENT. -/
  | evictionComplete (ctx layer : Nat)
  /-- RESERVOIR_REFILL (R299), an event: Every 1 ms the device refills each reservoir at its effective rate less its draw. -/
  | reservoirRefill
  /-- THERMAL_LIMIT_STEP (R22), an event: Every 10 ms firmware lowers or raises a die's thermal limit by 25 W. -/
  | thermalLimitStep (die : Nat) (reading : SensorReading)
  /-- IDLE_THRESHOLD_EXPIRY (R301), an event: A virtual device idle for IDLETHR begins to collapse by its class. -/
  | idleThresholdExpiry (vd : Nat)
  /-- COLLAPSE_COMPLETE (R301), an event: Every collapse step is done and PSTATE reaches COLLAPSED. -/
  | collapseComplete (vd : Nat)
  /-- WAKE_COMPLETE (R302), an event: A waking device reaches AWAKE and WAKES increases. -/
  | wakeComplete (vd : Nat)
  /-- VAULT_PAGE_RESTORE (R302), an event: A page of saved vault data is restored in the background. -/
  | vaultPageRestore (vd page : Nat)
  /-- SCRUB_COMPLETE (R328), an event: A frame's scrub ends and SCRUB is cleared by a SYS store. -/
  | scrubComplete (vd va : Nat)
  /-- HALT_COMPLETE (R327), an event: Pre-emption steps 1 to 6 finish and the save passes to SAVING. -/
  | haltComplete (vd : Nat)
  /-- SAVE_COMPLETE (R327), an event: The save area is written and the device's quadrants are freed. -/
  | saveComplete (vd : Nat)
  /-- RESTORE_COMPLETE (R327), an event: Every team is restored and groups issue again. -/
  | restoreComplete (vd : Nat) (teams : List TeamSpot)
  /-- TIME_SLICE_EXPIRY (R329), an event: A DET logical core's 1 ms quantum ends and it is saved for another. -/
  | timeSliceExpiry (launch lcore next : Nat)
  /-- DEBUGGER_STOP (R337), an event: An attached debugger stops a group and its whole team. -/
  | debuggerStop (gid : Nat)
  /-- DEBUGGER_STEP (R337), an event: The debugger advances the current path by one issue. -/
  | debuggerStep (gid : Nat)
  /-- DEBUGGER_STEP_ALL (R337), an event: The debugger advances every path on the stack by one instruction. -/
  | debuggerStepAll (gid : Nat)
  /-- PWRLIM_WRITE (R21), an event: A physical-function write sets the package power limit, clamped and rounded. -/
  | pwrlimWrite (func : Nat) (value : Word)
  /-- HEATLIM_WRITE (R22), an event: A physical-function write sets a die's host limit, clamped and rounded. -/
  | heatlimWrite (func die : Nat) (value : Word)
  /-- HEALTH_WRITE (R349), an event: Writing 1 to UNCORR clears it. -/
  | healthWrite (func : Nat) (value : DWord)
  /-- ATTESTATION (R347), an event: A nonce written to the mailbox produces a signed attestation report. -/
  | attestation (func : Nat) (nonce : List Byte)
  /-- FIRMWARE_UPDATE (R347), an event: A firmware image is verified and installed for the next package reset. -/
  | firmwareUpdate (func image : Nat) (signatures : FirmwareSigs)
  /-- WAKE (R302), an event: Writing 1 to WAKE wakes the virtual device. -/
  | wake (func vd : Nat) (value : Word)
  /-- CREATE (R342), an event: CMD operation creating a virtual device with its wake class. -/
  | create (func vd : Nat) (arg : Word)
  /-- DESTROY (R342), an event: CMD operation destroying a device and releasing everything it holds. -/
  | destroy (func vd : Nat) (arg : Word)
  /-- GRANTQ (R342), an event: CMD operation granting a quadrant or half-quadrant. -/
  | grantq (func vd : Nat) (arg : Word)
  /-- REVOKEQ (R342), an event: CMD operation revoking a quadrant or half-quadrant. -/
  | revokeq (func vd : Nat) (arg : Word)
  /-- GRANTCG (R342), an event: CMD operation granting a bulk DRAM channel group. -/
  | grantcg (func vd : Nat) (arg : Word)
  /-- REVOKECG (R342), an event: CMD operation revoking a channel group. -/
  | revokecg (func vd : Nat) (arg : Word)
  /-- PREEMPT (R327), an event: CMD operation requesting pre-emption of every launch of the device. -/
  | preempt (func vd : Nat) (arg : Word)
  /-- RESUME (R327), an event: CMD operation resuming a saved device. -/
  | resume (func vd : Nat) (arg : Word)
  /-- REPLAY (R336), an event: CMD operation placing the device in or out of replay. -/
  | replay (func vd : Nat) (arg : Word)
  /-- DRAIN (R322), an event: CMD operation starting a host two-phase invalidation over DRANGE. -/
  | drain (func vd : Nat) (arg : Word)
  /-- CONFIRM (R322), an event: CMD operation confirming a host invalidation. -/
  | confirm (func vd : Nat) (arg : Word)
  /-- GRANTV (R352), an event: CMD operation granting a whole vault. -/
  | grantv (func vd : Nat) (arg : Word)
  /-- REVOKEV (R352), an event: CMD operation revoking a vault. -/
  | revokev (func vd : Nat) (arg : Word)
  /-- MAPREPLY (R342), an event: A host answer to a map request, delivered to the waiting PMAP by tag. -/
  | mapreply (func vd : Nat) (value : DWord)
  /-- RING_INDEX_WRITE (R341), an event: A host write of a ring's index or configuration, stocking pools or freeing space. -/
  | ringIndexWrite (func vd ring word : Nat) (value : Word)
  /-- QUEUE_CONFIG_WRITE (R343), an event: A write of a work queue configuration. -/
  | queueConfigWrite (func queue word : Nat) (value : Word)
  /-- DOORBELL (R343), an event: A doorbell write sets TAIL and the device takes entries; it wakes a collapsed device. -/
  | doorbell (func queue offset size : Nat) (value : Word)
  /-- MEMORY_WINDOW_READ (R345), an event: A host read through BAR 4, translated with the device's page tables. -/
  | memoryWindowRead (func offset size : Nat)
  /-- MEMORY_WINDOW_WRITE (R345), an event: A host posted write through BAR 4, performed at SYS scope. -/
  | memoryWindowWrite (func offset : Nat) (bytes : List Byte)
  /-- MEMORY_WINDOW_ATOMIC (R345), an event: A host AtomicOp through BAR 4 performed as ATOM at SYS scope. -/
  | memoryWindowAtomic (func offset size : Nat) (op : WindowAtomic) (operand swap : DWord)
  /-- REGISTER_WRITE (R340), an event: A write to a control-window register with no row of its own. -/
  | registerWrite (func offset : Nat) (value : Word)
  /-- FUNCTION_LEVEL_RESET (R327), an event: An FLR of a virtual function abandons saves and completes launches with 0x34. -/
  | functionLevelReset (func : Nat)
  /-- PACKAGE_RESET (R351), an event: Package reset runs firmware verification and self-test. -/
  | packageReset (failedCores : List Nat) (memoryKept : Bool)
  /-- LINK_TRAINING (R351), an event: Nirbor link training completes and NIRPORTS and DOMID become valid. -/
  | linkTraining (ports domid devices : Nat)
  /-- PEER_REQUEST (R346), an event: A request from a peer arrives and is served or faulted by frame owner and peer group. -/
  | peerRequest (req : PeerReq)
  /-- CORRECTED_ERROR (R349), an event: ECC corrects an error and CE increases. -/
  | correctedError (error : CorrectedError)
  /-- UNCORRECTABLE_ERROR (R349), an event: An uncorrectable error traps the readers or halts the team and sets UNCORR. -/
  | uncorrectableError (site : ErrorSite)
  /-- CORE_RETIREMENT (R350), an event: A core exceeding 64 corrected errors per second is retired and its teams moved. -/
  | coreRetirement (core : Nat)
  /-- CHANNEL_GROUP_WITHDRAWAL (R350), an event: A channel group with spares exhausted is withdrawn and its owner's launches end. -/
  | channelGroupWithdrawal (group : Nat)
  /-- DEBUGGER_CONTINUE (R337), an event: The attached debugger lets a stopped team run on. -/
  | debuggerContinue (gid : Nat)
  /-- DEBUGGER_ATTACH (R319), an event: A debugger attaches to or detaches from the device through the host, which decides whether BKPT stops or traps. -/
  | debuggerAttach (attached : Bool)
  /-- MEMORY_WINDOW_SERVICE_TIMEOUT (R345), an event: A memory-window request to a collapsed device is not served within the wake class's promise plus RTIMEOUT, so a read completes with Completer Abort, a write is dropped and a KIND 5 record is posted. -/
  | memoryWindowServiceTimeout (index : Nat)
  /-- POST_QUEUE_PART_PERFORMED (R278), an event: The post queue performs a lane's part of an ENQ.DEP publication or a SIGNAL atomic step, enqueuing a successor or faulting with detail 12. -/
  | postQueuePartPerformed (gid : Nat)
  /-- SCATTER_ROW_WRITE (R212), an event: A SCAT row's ordered store or combining read-modify-write of a 16-byte part is performed in the table. -/
  | scatterRowWrite (gid part : Nat)
  /-- UNLOGGED_MARK_NOTICE (R335), an event: A class-0 notice of an unlogged batch arrives and sets UNREPL of the posting launch. -/
  | unloggedMarkNotice (notice : MarkNotice)
  deriving DecidableEq, Repr

end Sys2Proof
end

