-- ==== Sys2Proof/WellFormed.lean ====
section
/-! DEFINITION. Which terms of Instr are instructions of the machine: the field values that 07 R82-R88 and R94, 05 R62
and R63 and the entries allow. A word whose fields break a check here is no instruction and takes the illegal-instruction
trap (R94); a legal word that names an illegal register is an instruction, and traps when it runs. -/

namespace Sys2Proof

/-- R62, R63: the conversion code in [4:0] is 0x00-0x16, the rounding code in [7:5] is 000-100, and F8 and G8
destinations take 000 and 100 only. -/
def convLegal (imm : BitVec 8) : Bool :=
  let code := imm.extractLsb' 0 5
  let m := imm.extractLsb' 5 3
  code.toNat ≤ 0x16 && m.toNat ≤ 4 && (!(code == 2 || code == 3) || m == 0 || m == 4)

/-- R223: the argument bits a YIELD kind does not use are zero, and kind 11 is reserved. -/
def yieldLegal (k : BitVec 2) (r : BitVec 10) : Bool :=
  (k == 0 && r.extractLsb' 2 8 == 0) || (k == 1 && r.extractLsb' 7 3 == 0) ||
    (k == 2 && r.extractLsb' 7 3 == 0)

/-- The field constraints of a well-formed instruction. Events have none: their arguments are checked where they act. -/
def Instr.wellFormed : Instr → Bool
  | .psave u _ _ a => !u || a == 0
  | .pload u _ d _ => !u || d == 0
  | .cvt _ _ _ _ imm => convLegal imm
  | .ld _ _ _ _ s _ => s.toNat ≤ 4
  | .st _ _ _ _ s _ => s.toNat ≤ 4
  | .sld _ _ _ s _ => s.toNat ≤ 4
  | .sst _ _ _ s _ => s.toNat ≤ 4
  | .ldts _ _ _ s _ => 2 ≤ s.toNat && s.toNat ≤ 4
  | .cpy x _ _ s r _ => 2 ≤ s.toNat && s.toNat ≤ 4 && (r != 2 || x == 0)
  | .atom _ _ _ _ o _ => o.toNat ≤ 8
  | .red _ _ _ _ o _ => o.toNat ≤ 8 && o != 7
  | .satom _ _ _ o => o.toNat ≤ 8
  | .pref _ _ s _ => s.toNat ≤ 4
  | .lda _ _ _ _ s _ => s.toNat ≤ 4
  | .strel _ _ _ _ s _ => s.toNat ≤ 4
  | .yield _ k r => yieldLegal k r
  | .scat _ _ k m _ => k != 3 && (m == 1 || k == 0)
  | .mzero l t => l == 0 || t == 0
  | .tret m => m != 3
  | .srd _ _ _ i => i.toNat < 0x20
  | .swr _ _ _ i => i.toNat < 0x20
  | .post d _ r _ => r == 1 || d == 0
  | .enq d _ e _ => e == 1 || d == 0
  | .nop .. | .mov .. | .iadd .. | .isub .. | .imullo .. | .imulhi .. | .imulhiu .. | .imin .. | .imax ..
  | .umin .. | .umax .. | .and .. | .or .. | .xor .. | .andn .. | .shl .. | .shr .. | .sar .. | .bfeu ..
  | .bfes .. | .popc .. | .clz .. | .brev .. | .sel .. | .fadd .. | .fsub .. | .fmul .. | .fmin .. | .fmax ..
  | .hadd2 .. | .hmul2 .. | .badd2 .. | .bmul2 .. | .icmpeq .. | .icmpne .. | .icmplt .. | .icmple ..
  | .ucmplt .. | .ucmple .. | .fcmpeq .. | .fcmpne .. | .fcmplt .. | .fcmple .. | .fcmpun .. | .pand ..
  | .por .. | .pxor .. | .pandn .. | .shflidx .. | .shflxor .. | .lshup .. | .lshdn .. | .votebal ..
  | .voteany .. | .voteall .. | .rdfirst .. | .frcp .. | .frsq .. | .fex2 .. | .flg2 .. | .fsin .. | .fcos ..
  | .iaddi .. | .andi .. | .ori .. | .xori .. | .shli .. | .shri .. | .sari .. | .icmpeqi .. | .icmplti ..
  | .icmpgti .. | .movi .. | .gset .. | .win .. | .ldspill .. | .stspill .. | .lshupi ..
  | .lshdni .. | .shflxori .. | .imuli .. | .ffma .. | .ffmn .. | .imad .. | .iaddminSs .. | .iaddminNn ..
  | .hfma2 .. | .bfma2 .. | .dp4 .. | .dp8 .. | .bfi .. | .iadd3 .. | .isad .. | .iadd64 .. | .lds ..
  | .slds .. | .bar .. | .bararr .. | .barwait .. | .fence .. | .qfence .. | .pause .. | .xlat .. | .gath ..
  | .mcast .. | .mgang .. | .mma .. | .mdrain .. | .mstore .. | .mfence .. | .mwait .. | .ntake ..
  | .npass .. | .pass .. | .seal .. | .vread .. | .vwait .. | .vdone .. | .reply .. | .cdone ..
  | .signal .. | .launch .. | .lwait .. | .ldone .. | .lhint .. | .enrd .. | .commit ..
  | .tokpass .. | .join .. | .ret .. | .jmpi .. | .exit .. | .trap .. | .sys .. | .bkpt .. | .pmap ..
  | .tlbiDrain .. | .tlbiConfirm .. | .bra .. | .call .. | .mark .. | .brk .. | .tramp .. | .probe ..
  | .movl .. | .iaddl .. | .andl .. | .orl .. | .xorl .. | .imull .. | .icmpeql .. | .icmpltl .. | .faddl ..
  | .fmull .. | .ffmal .. | .fcmpltl .. => true
  | .frameFetch .. | .stallCountElapse .. | .activeSetFill .. | .forcedRotation .. | .pauseExpiry ..
  | .loadReturn .. | .storePerformed .. | .remoteErrorReply .. | .remoteTimeout .. | .copyPartArrival ..
  | .copyPartFault .. | .mcastPartArrival .. | .gangOperationEntry .. | .mdrainEntry .. | .mstoreEntry ..
  | .mzeroEntry .. | .needlePass .. | .queueEntryTake .. | .teamPlace .. | .teamEnd .. | .launchComplete ..
  | .timeLimitExpiry .. | .energyLimitReached .. | .passOpen .. | .skeinRecordArrival ..
  | .skeinTimerExpiry .. | .skeinFire .. | .watchdogExpiry .. | .postReplyArrival .. | .layerFetchStart ..
  | .layerArrival .. | .layerFetchFault .. | .evictionComplete .. | .reservoirRefill ..
  | .thermalLimitStep .. | .idleThresholdExpiry .. | .collapseComplete .. | .wakeComplete ..
  | .vaultPageRestore .. | .scrubComplete .. | .haltComplete .. | .saveComplete .. | .restoreComplete ..
  | .timeSliceExpiry .. | .debuggerStop .. | .debuggerStep .. | .debuggerStepAll .. | .pwrlimWrite ..
  | .heatlimWrite .. | .healthWrite .. | .attestation .. | .firmwareUpdate .. | .wake .. | .create ..
  | .destroy .. | .grantq .. | .revokeq .. | .grantcg .. | .revokecg .. | .preempt .. | .resume ..
  | .replay .. | .drain .. | .confirm .. | .grantv .. | .revokev .. | .mapreply .. | .ringIndexWrite ..
  | .queueConfigWrite .. | .doorbell .. | .memoryWindowRead .. | .memoryWindowWrite ..
  | .memoryWindowAtomic .. | .registerWrite .. | .functionLevelReset .. | .packageReset .. | .linkTraining ..
  | .peerRequest .. | .correctedError .. | .uncorrectableError .. | .coreRetirement ..
  | .channelGroupWithdrawal .. | .debuggerContinue .. | .debuggerAttach .. | .memoryWindowServiceTimeout ..
  | .postQueuePartPerformed .. | .scatterRowWrite .. | .unloggedMarkNotice .. => true

end Sys2Proof
end

