-- ==== Sys2Proof/Decode.lean ====
section
/-! DEFINITION. The decoder of instruction words (07 R80-R88, R94) and, after it, the encoder, both written from the field
strips of R81 and the opcode maps of R82-R88. A word that is no instruction is rejected by the name of what it breaks;
fetching such a word takes the illegal-instruction trap (R94). -/

namespace Sys2Proof

/-- Why a word in a slot is no instruction (R94). Each takes the illegal-instruction trap when it would issue. -/
inductive DecodeError where
  | reservedOpcode
  | mustBeZero
  | reservedSize
  | reservedMod
  | reservedConversion
  | reservedSpecialRegister
  | reservedField
  | uniformForbidden
  | lFormInSlot7
  deriving DecidableEq, Repr

/-- The instruction, where its field constraint holds. -/
def need (ok : Bool) (e : DecodeError) (i : Instr) : Except DecodeError Instr :=
  if ok then .ok i else .error e

/-- R79: a word whose U bit must be 0. -/
def vectorOnly (u : Bool) (r : Except DecodeError Instr) : Except DecodeError Instr :=
  if u then .error .uniformForbidden else r

/-- R85, R94: an M word's size code, must-be-zero fields and other reserved fields. -/
def sized (size zero field : Bool) (i : Instr) : Except DecodeError Instr :=
  if !size then .error .reservedSize else if !zero then .error .mustBeZero
  else if !field then .error .reservedField else .ok i

/-- R82: the A-format words. -/
def decodeA (u : Bool) (op : BitVec 6) (g : BitVec 3) (d a b : BitVec 7) : Except DecodeError Instr :=
  match op.toNat with
  | 0x00 => need (g == 0 && d == 0 && a == 0 && b == 0) .mustBeZero (.nop u)
  | 0x01 => need (b == 0) .mustBeZero (.mov u g d a)
  | 0x02 => .ok (.iadd u g d a b)
  | 0x03 => .ok (.isub u g d a b)
  | 0x04 => .ok (.imullo u g d a b)
  | 0x05 => .ok (.imulhi u g d a b)
  | 0x06 => .ok (.imulhiu u g d a b)
  | 0x07 => .ok (.imin u g d a b)
  | 0x08 => .ok (.imax u g d a b)
  | 0x09 => .ok (.umin u g d a b)
  | 0x0A => .ok (.umax u g d a b)
  | 0x0B => .ok (.and u g d a b)
  | 0x0C => .ok (.or u g d a b)
  | 0x0D => .ok (.xor u g d a b)
  | 0x0E => .ok (.andn u g d a b)
  | 0x0F => .ok (.shl u g d a b)
  | 0x10 => .ok (.shr u g d a b)
  | 0x11 => .ok (.sar u g d a b)
  | 0x12 => .ok (.bfeu u g d a b)
  | 0x13 => .ok (.bfes u g d a b)
  | 0x14 => need (b == 0) .mustBeZero (.popc u g d a)
  | 0x15 => need (b == 0) .mustBeZero (.clz u g d a)
  | 0x16 => need (b == 0) .mustBeZero (.brev u g d a)
  | 0x17 => .ok (.sel u g d a b)
  | 0x18 => .ok (.fadd u g d a b)
  | 0x19 => .ok (.fsub u g d a b)
  | 0x1A => .ok (.fmul u g d a b)
  | 0x1B => .ok (.fmin u g d a b)
  | 0x1C => .ok (.fmax u g d a b)
  | 0x1D => .ok (.hadd2 u g d a b)
  | 0x1E => .ok (.hmul2 u g d a b)
  | 0x1F => .ok (.badd2 u g d a b)
  | 0x20 => .ok (.bmul2 u g d a b)
  | 0x21 => .ok (.icmpeq u g d a b)
  | 0x22 => .ok (.icmpne u g d a b)
  | 0x23 => .ok (.icmplt u g d a b)
  | 0x24 => .ok (.icmple u g d a b)
  | 0x25 => .ok (.ucmplt u g d a b)
  | 0x26 => .ok (.ucmple u g d a b)
  | 0x27 => .ok (.fcmpeq u g d a b)
  | 0x28 => .ok (.fcmpne u g d a b)
  | 0x29 => .ok (.fcmplt u g d a b)
  | 0x2A => .ok (.fcmple u g d a b)
  | 0x2B => .ok (.fcmpun u g d a b)
  | 0x2C => .ok (.pand u g d a b)
  | 0x2D => .ok (.por u g d a b)
  | 0x2E => .ok (.pxor u g d a b)
  | 0x2F => .ok (.pandn u g d a b)
  | 0x30 => vectorOnly u (.ok (.shflidx g d a b))
  | 0x31 => vectorOnly u (.ok (.shflxor g d a b))
  | 0x32 => vectorOnly u (.ok (.lshup g d a b))
  | 0x33 => vectorOnly u (.ok (.lshdn g d a b))
  | 0x34 => vectorOnly u (need (b == 0) .mustBeZero (.votebal g d a))
  | 0x35 => vectorOnly u (need (b == 0) .mustBeZero (.voteany g d a))
  | 0x36 => vectorOnly u (need (b == 0) .mustBeZero (.voteall g d a))
  | 0x37 => vectorOnly u (need (b == 0) .mustBeZero (.rdfirst g d a))
  | 0x38 => need (b == 0) .mustBeZero (.frcp u g d a)
  | 0x39 => need (b == 0) .mustBeZero (.frsq u g d a)
  | 0x3A => need (b == 0) .mustBeZero (.fex2 u g d a)
  | 0x3B => need (b == 0) .mustBeZero (.flg2 u g d a)
  | 0x3C => need (b == 0) .mustBeZero (.fsin u g d a)
  | 0x3D => need (b == 0) .mustBeZero (.fcos u g d a)
  | 0x3E => need (b == 0 && (!u || a == 0)) .mustBeZero (.psave u g d a)
  | 0x3F => need (b == 0 && (!u || d == 0)) .mustBeZero (.pload u g d a)
  | _ => .error .reservedOpcode

/-- R83: the B-format words. -/
def decodeB (u : Bool) (op : BitVec 5) (g : BitVec 3) (d a : BitVec 7) (imm : BitVec 8) : Except DecodeError Instr :=
  match op.toNat with
  | 0x00 => .ok (.iaddi u g d a imm)
  | 0x01 => .ok (.andi u g d a imm)
  | 0x02 => .ok (.ori u g d a imm)
  | 0x03 => .ok (.xori u g d a imm)
  | 0x04 => .ok (.shli u g d a imm)
  | 0x05 => .ok (.shri u g d a imm)
  | 0x06 => .ok (.sari u g d a imm)
  | 0x07 => .ok (.icmpeqi u g d a imm)
  | 0x08 => .ok (.icmplti u g d a imm)
  | 0x09 => .ok (.icmpgti u g d a imm)
  | 0x0A => need (a == 0) .mustBeZero (.movi u g d imm)
  | 0x0B => if imm.toNat < 0x20 then need (a == 0) .mustBeZero (.srd u g d imm) else .error .reservedSpecialRegister
  | 0x0C => if imm.toNat < 0x20 then need (d == 0) .mustBeZero (.swr u g a imm) else .error .reservedSpecialRegister
  | 0x0D => vectorOnly u (need (g == 0 && imm.extractLsb' 2 6 == 0) .mustBeZero (.gset d a (imm.extractLsb' 0 2)))
  | 0x0E => vectorOnly u (need (g == 0 && d == 0 && a == 0 && imm.extractLsb' 4 4 == 0) .mustBeZero (.win (imm.extractLsb' 0 4)))
  | 0x0F => vectorOnly u (need (a == 0) .mustBeZero (.ldspill g d imm))
  | 0x10 => vectorOnly u (need (a == 0) .mustBeZero (.stspill g d imm))
  | 0x11 => need (convLegal imm) .reservedConversion (.cvt u g d a imm)
  | 0x12 => vectorOnly u (.ok (.lshupi g d a imm))
  | 0x13 => vectorOnly u (.ok (.lshdni g d a imm))
  | 0x14 => vectorOnly u (need (imm.extractLsb' 5 3 == 0) .mustBeZero (.shflxori g d a (imm.extractLsb' 0 5)))
  | 0x15 => .ok (.imuli u g d a imm)
  | _ => .error .reservedOpcode

/-- R84: the C-format words. -/
def decodeC (u : Bool) (op : BitVec 4) (m g : BitVec 2) (d a b : BitVec 7) : Except DecodeError Instr :=
  match op.toNat with
  | 0x0 => .ok (.ffma u m g d a b)
  | 0x1 => .ok (.ffmn u m g d a b)
  | 0x2 => need (m == 0) .mustBeZero (.imad u g d a b)
  | 0x3 => if m == 0 then .ok (.iaddminSs u g d a b) else if m == 3 then .ok (.iaddminNn u g d a b) else .error .reservedMod
  | 0x4 => .ok (.hfma2 u m g d a b)
  | 0x5 => .ok (.bfma2 u m g d a b)
  | 0x6 => .ok (.dp4 u m g d a b)
  | 0x7 => .ok (.dp8 u m g d a b)
  | 0x8 => need (m == 0) .mustBeZero (.bfi u g d a b)
  | 0x9 => need (m == 0) .mustBeZero (.iadd3 u g d a b)
  | 0xA => need (m == 0) .mustBeZero (.isad u g d a b)
  | 0xB => need (m == 0) .mustBeZero (.iadd64 u g d a b)
  | _ => .error .reservedOpcode

/-- R85: the M-format words. -/
def decodeM (u : Bool) (op : BitVec 4) (x : BitVec 3) (d a : BitVec 7) (s : BitVec 3) (c : BitVec 5) :
    Except DecodeError Instr :=
  match op.toNat with
  | 0x0 => sized (s.toNat ≤ 4) (true) (true) (.ld u x d a s c)
  | 0x1 => sized (s.toNat ≤ 1) (true) (true) (.lds u x d a (s.extractLsb' 0 1) c)
  | 0x2 => sized (s.toNat ≤ 4) (true) (true) (.st u x d a s c)
  | 0x3 => sized (s.toNat ≤ 4) (x == 0) (true) (.sld u d a s c)
  | 0x4 => sized (s.toNat ≤ 1) (x == 0) (true) (.slds u d a (s.extractLsb' 0 1) c)
  | 0x5 => sized (s.toNat ≤ 4) (x == 0) (true) (.sst u d a s c)
  | 0x6 => vectorOnly u (sized (2 ≤ s.toNat && s.toNat ≤ 4) (c.extractLsb' 2 3 == 0) (true) (.ldts x d a s (c.extractLsb' 0 2)))
  | 0x7 => vectorOnly u (sized (2 ≤ s.toNat && s.toNat ≤ 4) (c.extractLsb' 0 1 == 0) (c.extractLsb' 3 2 != 2 || x == 0) (.cpy x d a s (c.extractLsb' 3 2) (c.extractLsb' 1 2)))
  | 0x8 => vectorOnly u (sized (s.toNat == 2 || s.toNat == 3) (true) ((c.extractLsb' 1 4).toNat ≤ 8) (.atom x d a (s.extractLsb' 0 1) (c.extractLsb' 1 4) (c.extractLsb' 0 1)))
  | 0x9 => vectorOnly u (sized (s.toNat == 2 || s.toNat == 3) (true) ((c.extractLsb' 1 4).toNat ≤ 8 && c.extractLsb' 1 4 != 7) (.red x d a (s.extractLsb' 0 1) (c.extractLsb' 1 4) (c.extractLsb' 0 1)))
  | 0xA => vectorOnly u (sized (s.toNat == 2 || s.toNat == 3) (x == 0 && c.extractLsb' 0 1 == 0) ((c.extractLsb' 1 4).toNat ≤ 8) (.satom d a (s.extractLsb' 0 1) (c.extractLsb' 1 4)))
  | 0xB => vectorOnly u (sized (s.toNat ≤ 4) (d == 0) (true) (.pref x a s c))
  | 0xC => sized (s.toNat ≤ 4) (c.extractLsb' 2 3 == 0) (true) (.lda u x d a s (c.extractLsb' 0 2))
  | 0xD => sized (s.toNat ≤ 4) (c.extractLsb' 2 3 == 0) (true) (.strel u x d a s (c.extractLsb' 0 2))
  | _ => .error .reservedOpcode

/-- R86: the S-format words. `w` holds bits [22:0]; S1 words read it as d, a and imm9, S2 words as imm23. -/
def decodeS (u : Bool) (op : BitVec 6) (w : BitVec 23) : Except DecodeError Instr :=
  vectorOnly u <| match op.toNat with
  | 0x00 => need (w.extractLsb' 8 1 == 0) .mustBeZero (.bar (w.extractLsb' 16 7) (w.extractLsb' 9 7) (w.extractLsb' 6 2) (w.extractLsb' 0 6))
  | 0x01 => need (w.extractLsb' 8 1 == 0) .mustBeZero (.bararr (w.extractLsb' 16 7) (w.extractLsb' 9 7) (w.extractLsb' 6 2) (w.extractLsb' 0 6))
  | 0x02 => need (w.extractLsb' 6 3 == 0 && w.extractLsb' 16 7 == 0) .mustBeZero (.barwait (w.extractLsb' 9 7) (w.extractLsb' 0 6))
  | 0x03 => need (w.extractLsb' 2 21 == 0) .mustBeZero (.fence (w.extractLsb' 0 2))
  | 0x04 => need (w.extractLsb' 10 13 == 0) .mustBeZero (.qfence (w.extractLsb' 8 2) (w.extractLsb' 0 8))
  | 0x05 => need (w.extractLsb' 16 7 == 0) .mustBeZero (.pause (w.extractLsb' 0 16))
  | 0x06 => need (yieldLegal (w.extractLsb' 10 2) (w.extractLsb' 0 10)) .reservedField (.yield (w.extractLsb' 12 11) (w.extractLsb' 10 2) (w.extractLsb' 0 10))
  | 0x07 => need (w.extractLsb' 1 8 == 0) .mustBeZero (.xlat (w.extractLsb' 16 7) (w.extractLsb' 9 7) (w.extractLsb' 0 1))
  | 0x08 => need (w.extractLsb' 1 8 == 0) .mustBeZero (.gath (w.extractLsb' 16 7) (w.extractLsb' 9 7) (w.extractLsb' 0 1))
  | 0x09 => if w.extractLsb' 4 5 == 0 then need (w.extractLsb' 2 2 != 3 && (w.extractLsb' 1 1 == 1 || w.extractLsb' 2 2 == 0)) .reservedField (.scat (w.extractLsb' 16 7) (w.extractLsb' 9 7) (w.extractLsb' 2 2) (w.extractLsb' 1 1) (w.extractLsb' 0 1)) else .error .mustBeZero
  | 0x0A => need (w.extractLsb' 0 9 == 0) .mustBeZero (.mcast (w.extractLsb' 16 7) (w.extractLsb' 9 7))
  | 0x0B => need (w.extractLsb' 0 9 == 0 && w.extractLsb' 16 7 == 0) .mustBeZero (.mgang (w.extractLsb' 9 7))
  | 0x0C => need (w.extractLsb' 4 5 == 0) .mustBeZero (.mma (w.extractLsb' 16 7) (w.extractLsb' 9 7) (w.extractLsb' 3 1) (w.extractLsb' 0 3))
  | 0x0D => need (w.extractLsb' 6 10 == 0) .mustBeZero (.mdrain (w.extractLsb' 16 7) (w.extractLsb' 3 3) (w.extractLsb' 0 3))
  | 0x0E => need (w.extractLsb' 8 1 == 0 && w.extractLsb' 16 7 == 0) .mustBeZero (.mstore (w.extractLsb' 9 7) (w.extractLsb' 7 1) (w.extractLsb' 6 1) (w.extractLsb' 4 2) (w.extractLsb' 3 1) (w.extractLsb' 0 3))
  | 0x0F => if w.extractLsb' 4 19 == 0 then need (w.extractLsb' 3 1 == 0 || w.extractLsb' 0 3 == 0) .mustBeZero (.mzero (w.extractLsb' 3 1) (w.extractLsb' 0 3)) else .error .mustBeZero
  | 0x10 => need (w.extractLsb' 0 16 == 0) .mustBeZero (.mfence (w.extractLsb' 16 7))
  | 0x11 => need (w.extractLsb' 4 19 == 0) .mustBeZero (.mwait (w.extractLsb' 0 4))
  | 0x12 => need (w == 0) .mustBeZero (.ntake)
  | 0x13 => need (w == 0) .mustBeZero (.npass)
  | 0x14 => need (w.extractLsb' 7 2 == 0 && w.extractLsb' 16 7 == 0) .mustBeZero (.pass (w.extractLsb' 9 7) (w.extractLsb' 0 7))
  | 0x15 => need (w.extractLsb' 0 9 == 0 && w.extractLsb' 16 7 == 0) .mustBeZero (.seal (w.extractLsb' 9 7))
  | 0x16 => need (w.extractLsb' 8 1 == 0 && w.extractLsb' 16 7 == 0) .mustBeZero (.vread (w.extractLsb' 9 7) (w.extractLsb' 7 1) (w.extractLsb' 0 7))
  | 0x17 => need (w.extractLsb' 8 1 == 0 && w.extractLsb' 16 7 == 0) .mustBeZero (.vwait (w.extractLsb' 9 7) (w.extractLsb' 7 1) (w.extractLsb' 0 7))
  | 0x18 => need (w.extractLsb' 7 2 == 0 && w.extractLsb' 16 7 == 0) .mustBeZero (.vdone (w.extractLsb' 9 7) (w.extractLsb' 0 7))
  | 0x19 => need (w.extractLsb' 8 1 == 0 && (w.extractLsb' 7 1 == 1 || w.extractLsb' 16 7 == 0)) .mustBeZero (.post (w.extractLsb' 16 7) (w.extractLsb' 9 7) (w.extractLsb' 7 1) (w.extractLsb' 0 7))
  | 0x1A => need (w.extractLsb' 0 9 == 0) .mustBeZero (.reply (w.extractLsb' 16 7) (w.extractLsb' 9 7))
  | 0x1B => need (w == 0) .mustBeZero (.cdone)
  | 0x1C => need (w.extractLsb' 8 1 == 0 && (w.extractLsb' 7 1 == 1 || w.extractLsb' 16 7 == 0)) .mustBeZero (.enq (w.extractLsb' 16 7) (w.extractLsb' 9 7) (w.extractLsb' 7 1) (w.extractLsb' 0 7))
  | 0x1D => need (w.extractLsb' 1 8 == 0 && w.extractLsb' 16 7 == 0) .mustBeZero (.signal (w.extractLsb' 9 7) (w.extractLsb' 0 1))
  | 0x1E => need (w.extractLsb' 7 9 == 0) .mustBeZero (.launch (w.extractLsb' 16 7) (w.extractLsb' 0 7))
  | 0x1F => need (w.extractLsb' 7 2 == 0 && w.extractLsb' 16 7 == 0) .mustBeZero (.lwait (w.extractLsb' 9 7) (w.extractLsb' 0 7))
  | 0x20 => need (w.extractLsb' 0 9 == 0 && w.extractLsb' 16 7 == 0) .mustBeZero (.ldone (w.extractLsb' 9 7))
  | 0x21 => need (w.extractLsb' 0 9 == 0 && w.extractLsb' 16 7 == 0) .mustBeZero (.lhint (w.extractLsb' 9 7))
  | 0x22 => need (w.extractLsb' 7 9 == 0) .mustBeZero (.enrd (w.extractLsb' 16 7) (w.extractLsb' 0 7))
  | 0x23 => need (w == 0) .mustBeZero (.commit)
  | 0x24 => need (w == 0) .mustBeZero (.tokpass)
  | 0x25 => need (w == 0) .mustBeZero (.join)
  | 0x26 => need (w.extractLsb' 1 22 == 0) .mustBeZero (.ret (w.extractLsb' 0 1))
  | 0x27 => need (w.extractLsb' 0 9 == 0 && w.extractLsb' 16 7 == 0) .mustBeZero (.jmpi (w.extractLsb' 9 7))
  | 0x28 => need (w == 0) .mustBeZero (.exit)
  | 0x29 => .ok (.trap w)
  | 0x2A => .ok (.sys w)
  | 0x2B => if w.extractLsb' 2 21 == 0 then need (w.extractLsb' 0 2 != 3) .reservedField (.tret (w.extractLsb' 0 2)) else .error .mustBeZero
  | 0x2C => .ok (.bkpt w)
  | 0x2D => need (w.extractLsb' 2 7 == 0) .mustBeZero (.pmap (w.extractLsb' 16 7) (w.extractLsb' 9 7) (w.extractLsb' 1 1) (w.extractLsb' 0 1))
  | 0x2E => if w == 1 then .ok .tlbiConfirm else need (w.extractLsb' 8 15 == 0 && w.extractLsb' 0 1 == 0) .mustBeZero (.tlbiDrain (w.extractLsb' 1 7))
  | _ => .error .reservedOpcode

/-- R88: the L-forms. `slot7` says that the word stands in slot 7, where no literal slot follows. -/
def decodeL (u slot7 : Bool) (op : BitVec 4) (d a : BitVec 7) (m : BitVec 8) (lit : Word) : Except DecodeError Instr :=
  if m != 0 then .error .mustBeZero else if slot7 then .error .lFormInSlot7 else match op.toNat with
  | 0x0 => need (a == 0) .mustBeZero (.movl u d lit)
  | 0x1 => .ok (.iaddl u d a lit)
  | 0x2 => .ok (.andl u d a lit)
  | 0x3 => .ok (.orl u d a lit)
  | 0x4 => .ok (.xorl u d a lit)
  | 0x5 => .ok (.imull u d a lit)
  | 0x6 => .ok (.icmpeql u d a lit)
  | 0x7 => .ok (.icmpltl u d a lit)
  | 0x8 => .ok (.faddl u d a lit)
  | 0x9 => .ok (.fmull u d a lit)
  | 0xA => .ok (.ffmal u d a lit)
  | 0xB => .ok (.fcmpltl u d a lit)
  | _ => .error .reservedOpcode

/-- R87: the J-format words; `w` holds bits [25:0]. -/
def decodeJ (u slot7 : Bool) (sub : BitVec 3) (w : BitVec 26) (lit : Word) : Except DecodeError Instr :=
  match sub.toNat with
  | 0 => .ok (.bra u (w.extractLsb' 23 3) (w.extractLsb' 0 23))
  | 1 => .ok (.call u (w.extractLsb' 23 3) (w.extractLsb' 0 23))
  | 2 => vectorOnly u (need (w.extractLsb' 23 3 == 0) .mustBeZero (.mark (w.extractLsb' 0 23)))
  | 3 => vectorOnly u (need (w.extractLsb' 0 23 == 0) .mustBeZero (.brk (w.extractLsb' 23 3)))
  | 4 => decodeL u slot7 (w.extractLsb' 22 4) (w.extractLsb' 15 7) (w.extractLsb' 8 7) (w.extractLsb' 0 8) lit
  | 5 => vectorOnly u (need (w.extractLsb' 16 7 == 0) .mustBeZero (.tramp (w.extractLsb' 23 3) (w.extractLsb' 0 16)))
  | 6 => vectorOnly u (.ok (.probe w))
  | _ => .error .reservedOpcode

/-- R80: the class of a word is in its high bits; the word `w` stands in a slot with U bit `u`, `lit` is the word of the
slot after it, and `slot7` says that it stands in slot 7 of its frame. -/
def decodeWord (u slot7 : Bool) (w lit : Word) : Except DecodeError Instr :=
  if w.extractLsb' 30 2 == 0 then
    decodeA u (w.extractLsb' 24 6) (w.extractLsb' 21 3) (w.extractLsb' 14 7) (w.extractLsb' 7 7) (w.extractLsb' 0 7)
  else if w.extractLsb' 30 2 == 1 then
    decodeB u (w.extractLsb' 25 5) (w.extractLsb' 22 3) (w.extractLsb' 15 7) (w.extractLsb' 8 7) (w.extractLsb' 0 8)
  else if w.extractLsb' 29 3 == 4 then
    decodeC u (w.extractLsb' 25 4) (w.extractLsb' 23 2) (w.extractLsb' 21 2) (w.extractLsb' 14 7)
      (w.extractLsb' 7 7) (w.extractLsb' 0 7)
  else if w.extractLsb' 29 3 == 5 then
    decodeM u (w.extractLsb' 25 4) (w.extractLsb' 22 3) (w.extractLsb' 15 7) (w.extractLsb' 8 7)
      (w.extractLsb' 5 3) (w.extractLsb' 0 5)
  else if w.extractLsb' 29 3 == 6 then decodeS u (w.extractLsb' 23 6) (w.extractLsb' 0 23)
  else decodeJ u slot7 (w.extractLsb' 26 3) (w.extractLsb' 0 26) lit

/-- R88: is the word an L-form with a literal slot after it, legal or not? One in slot 7 has none, and 0xC to 0xF are no L-forms. -/
def longWord (slot7 : Bool) (w : Word) : Bool :=
  w.extractLsb' 26 6 == 0x3C && (w.extractLsb' 22 4).toNat < 12 && !slot7

/-- R69: a 32-bit word from its four bytes, lowest address first. -/
def wordOfBytes (b0 b1 b2 b3 : Byte) : Word := b3 ++ b2 ++ b1 ++ b0

/-- The decoder on bytes as they lie in a frame: the slot's word and the word after it (absent words read 0). -/
def decodeBytes (u slot7 : Bool) : List Byte → Except DecodeError Instr
  | b0 :: b1 :: b2 :: b3 :: c0 :: c1 :: c2 :: c3 :: _ =>
    decodeWord u slot7 (wordOfBytes b0 b1 b2 b3) (wordOfBytes c0 c1 c2 c3)
  | b0 :: b1 :: b2 :: b3 :: _ => decodeWord u slot7 (wordOfBytes b0 b1 b2 b3) 0
  | _ => .error .reservedOpcode

/-- The instruction read from a word numbered as the opcode table numbers it: bits [31:0] are the slot's word and
bits [63:32], where an L-form has them, its literal. The U bit is the header's and is 0 here; the slot is slot 1. -/
def decodeTableWord (_nbits w : Nat) : Option Instr :=
  (decodeWord false false (BitVec.ofNat 32 w) (BitVec.ofNat 32 (w >>> 32))).toOption

/-! The encoder: the packings of R81, R86-R88. -/

/-- A: 00, opcode, guard, d, a, b. -/
def packA (op : BitVec 6) (g : BitVec 3) (d a b : BitVec 7) : Word := 0#2 ++ op ++ g ++ d ++ a ++ b

/-- B: 01, opcode, guard, d, a, imm8. -/
def packB (op : BitVec 5) (g : BitVec 3) (d a : BitVec 7) (imm : BitVec 8) : Word := 1#2 ++ op ++ g ++ d ++ a ++ imm

/-- C: 100, opcode, mod, guard, d, a, b. -/
def packC (op : BitVec 4) (m g : BitVec 2) (d a b : BitVec 7) : Word := 4#3 ++ op ++ m ++ g ++ d ++ a ++ b

/-- M: 101, opcode, x, d, a, size, small. -/
def packM (op : BitVec 4) (x : BitVec 3) (d a : BitVec 7) (s : BitVec 3) (c : BitVec 5) : Word :=
  5#3 ++ op ++ x ++ d ++ a ++ s ++ c

/-- S: 110, opcode, then d, a, imm9 or imm23. -/
def packS (op : BitVec 6) (w : BitVec 23) : Word := 6#3 ++ op ++ w

/-- J: 111, sub-opcode, 26 bits. -/
def packJ (sub : BitVec 3) (w : BitVec 26) : Word := 7#3 ++ sub ++ w

/-- L-form: 111, 100, op, d, a, mod 0. -/
def packL (op : BitVec 4) (d a : BitVec 7) : Word := 7#3 ++ 4#3 ++ op ++ d ++ a ++ 0#8

/-- The U bit and the words of an instruction: one word, or an L-form and its literal; none for an event, which has
no words. -/
def encode : Instr → Option (Bool × List Word)
  | .nop u => some (u, [packA 0x00 0 0 0 0])
  | .mov u g d a => some (u, [packA 0x01 g d a 0])
  | .iadd u g d a b => some (u, [packA 0x02 g d a b])
  | .isub u g d a b => some (u, [packA 0x03 g d a b])
  | .imullo u g d a b => some (u, [packA 0x04 g d a b])
  | .imulhi u g d a b => some (u, [packA 0x05 g d a b])
  | .imulhiu u g d a b => some (u, [packA 0x06 g d a b])
  | .imin u g d a b => some (u, [packA 0x07 g d a b])
  | .imax u g d a b => some (u, [packA 0x08 g d a b])
  | .umin u g d a b => some (u, [packA 0x09 g d a b])
  | .umax u g d a b => some (u, [packA 0x0A g d a b])
  | .and u g d a b => some (u, [packA 0x0B g d a b])
  | .or u g d a b => some (u, [packA 0x0C g d a b])
  | .xor u g d a b => some (u, [packA 0x0D g d a b])
  | .andn u g d a b => some (u, [packA 0x0E g d a b])
  | .shl u g d a b => some (u, [packA 0x0F g d a b])
  | .shr u g d a b => some (u, [packA 0x10 g d a b])
  | .sar u g d a b => some (u, [packA 0x11 g d a b])
  | .bfeu u g d a b => some (u, [packA 0x12 g d a b])
  | .bfes u g d a b => some (u, [packA 0x13 g d a b])
  | .popc u g d a => some (u, [packA 0x14 g d a 0])
  | .clz u g d a => some (u, [packA 0x15 g d a 0])
  | .brev u g d a => some (u, [packA 0x16 g d a 0])
  | .sel u g d a b => some (u, [packA 0x17 g d a b])
  | .fadd u g d a b => some (u, [packA 0x18 g d a b])
  | .fsub u g d a b => some (u, [packA 0x19 g d a b])
  | .fmul u g d a b => some (u, [packA 0x1A g d a b])
  | .fmin u g d a b => some (u, [packA 0x1B g d a b])
  | .fmax u g d a b => some (u, [packA 0x1C g d a b])
  | .hadd2 u g d a b => some (u, [packA 0x1D g d a b])
  | .hmul2 u g d a b => some (u, [packA 0x1E g d a b])
  | .badd2 u g d a b => some (u, [packA 0x1F g d a b])
  | .bmul2 u g d a b => some (u, [packA 0x20 g d a b])
  | .icmpeq u g d a b => some (u, [packA 0x21 g d a b])
  | .icmpne u g d a b => some (u, [packA 0x22 g d a b])
  | .icmplt u g d a b => some (u, [packA 0x23 g d a b])
  | .icmple u g d a b => some (u, [packA 0x24 g d a b])
  | .ucmplt u g d a b => some (u, [packA 0x25 g d a b])
  | .ucmple u g d a b => some (u, [packA 0x26 g d a b])
  | .fcmpeq u g d a b => some (u, [packA 0x27 g d a b])
  | .fcmpne u g d a b => some (u, [packA 0x28 g d a b])
  | .fcmplt u g d a b => some (u, [packA 0x29 g d a b])
  | .fcmple u g d a b => some (u, [packA 0x2A g d a b])
  | .fcmpun u g d a b => some (u, [packA 0x2B g d a b])
  | .pand u g d a b => some (u, [packA 0x2C g d a b])
  | .por u g d a b => some (u, [packA 0x2D g d a b])
  | .pxor u g d a b => some (u, [packA 0x2E g d a b])
  | .pandn u g d a b => some (u, [packA 0x2F g d a b])
  | .shflidx g d a b => some (false, [packA 0x30 g d a b])
  | .shflxor g d a b => some (false, [packA 0x31 g d a b])
  | .lshup g d a b => some (false, [packA 0x32 g d a b])
  | .lshdn g d a b => some (false, [packA 0x33 g d a b])
  | .votebal g d a => some (false, [packA 0x34 g d a 0])
  | .voteany g d a => some (false, [packA 0x35 g d a 0])
  | .voteall g d a => some (false, [packA 0x36 g d a 0])
  | .rdfirst g d a => some (false, [packA 0x37 g d a 0])
  | .frcp u g d a => some (u, [packA 0x38 g d a 0])
  | .frsq u g d a => some (u, [packA 0x39 g d a 0])
  | .fex2 u g d a => some (u, [packA 0x3A g d a 0])
  | .flg2 u g d a => some (u, [packA 0x3B g d a 0])
  | .fsin u g d a => some (u, [packA 0x3C g d a 0])
  | .fcos u g d a => some (u, [packA 0x3D g d a 0])
  | .psave u g d a => some (u, [packA 0x3E g d a 0])
  | .pload u g d a => some (u, [packA 0x3F g d a 0])
  | .iaddi u g d a i => some (u, [packB 0x00 g d a i])
  | .andi u g d a i => some (u, [packB 0x01 g d a i])
  | .ori u g d a i => some (u, [packB 0x02 g d a i])
  | .xori u g d a i => some (u, [packB 0x03 g d a i])
  | .shli u g d a i => some (u, [packB 0x04 g d a i])
  | .shri u g d a i => some (u, [packB 0x05 g d a i])
  | .sari u g d a i => some (u, [packB 0x06 g d a i])
  | .icmpeqi u g d a i => some (u, [packB 0x07 g d a i])
  | .icmplti u g d a i => some (u, [packB 0x08 g d a i])
  | .icmpgti u g d a i => some (u, [packB 0x09 g d a i])
  | .movi u g d i => some (u, [packB 0x0A g d 0 i])
  | .srd u g d i => some (u, [packB 0x0B g d 0 i])
  | .swr u g a i => some (u, [packB 0x0C g 0 a i])
  | .gset d a i => some (false, [packB 0x0D 0 d a (0#6 ++ i)])
  | .win i => some (false, [packB 0x0E 0 0 0 (0#4 ++ i)])
  | .ldspill g d i => some (false, [packB 0x0F g d 0 i])
  | .stspill g d i => some (false, [packB 0x10 g d 0 i])
  | .cvt u g d a i => some (u, [packB 0x11 g d a i])
  | .lshupi g d a i => some (false, [packB 0x12 g d a i])
  | .lshdni g d a i => some (false, [packB 0x13 g d a i])
  | .shflxori g d a i => some (false, [packB 0x14 g d a (0#3 ++ i)])
  | .imuli u g d a i => some (u, [packB 0x15 g d a i])
  | .ffma u m g d a b => some (u, [packC 0x0 m g d a b])
  | .ffmn u m g d a b => some (u, [packC 0x1 m g d a b])
  | .imad u g d a b => some (u, [packC 0x2 0 g d a b])
  | .iaddminSs u g d a b => some (u, [packC 0x3 0 g d a b])
  | .iaddminNn u g d a b => some (u, [packC 0x3 3 g d a b])
  | .hfma2 u m g d a b => some (u, [packC 0x4 m g d a b])
  | .bfma2 u m g d a b => some (u, [packC 0x5 m g d a b])
  | .dp4 u m g d a b => some (u, [packC 0x6 m g d a b])
  | .dp8 u m g d a b => some (u, [packC 0x7 m g d a b])
  | .bfi u g d a b => some (u, [packC 0x8 0 g d a b])
  | .iadd3 u g d a b => some (u, [packC 0x9 0 g d a b])
  | .isad u g d a b => some (u, [packC 0xA 0 g d a b])
  | .iadd64 u g d a b => some (u, [packC 0xB 0 g d a b])
  | .ld u x d a s c => some (u, [packM 0x0 x d a s c])
  | .lds u x d a s c => some (u, [packM 0x1 x d a (0#2 ++ s) c])
  | .st u x d a s c => some (u, [packM 0x2 x d a s c])
  | .sld u d a s c => some (u, [packM 0x3 0 d a s c])
  | .slds u d a s c => some (u, [packM 0x4 0 d a (0#2 ++ s) c])
  | .sst u d a s c => some (u, [packM 0x5 0 d a s c])
  | .ldts x d a s q => some (false, [packM 0x6 x d a s (0#3 ++ q)])
  | .cpy x d a s r q => some (false, [packM 0x7 x d a s (r ++ q ++ 0#1)])
  | .atom x d a s o e => some (false, [packM 0x8 x d a (1#2 ++ s) (o ++ e)])
  | .red x d a s o e => some (false, [packM 0x9 x d a (1#2 ++ s) (o ++ e)])
  | .satom d a s o => some (false, [packM 0xA 0 d a (1#2 ++ s) (o ++ 0#1)])
  | .pref x a s c => some (false, [packM 0xB x 0 a s c])
  | .lda u x d a s e => some (u, [packM 0xC x d a s (0#3 ++ e)])
  | .strel u x d a s e => some (u, [packM 0xD x d a s (0#3 ++ e)])
  | .bar d a o n => some (false, [packS 0x00 (d ++ a ++ 0#1 ++ o ++ n)])
  | .bararr d a o n => some (false, [packS 0x01 (d ++ a ++ 0#1 ++ o ++ n)])
  | .barwait a n => some (false, [packS 0x02 (0#7 ++ a ++ 0#3 ++ n)])
  | .fence s => some (false, [packS 0x03 (0#21 ++ s)])
  | .qfence s m => some (false, [packS 0x04 (0#13 ++ s ++ m)])
  | .pause n => some (false, [packS 0x05 (0#7 ++ n)])
  | .yield o k r => some (false, [packS 0x06 (o ++ k ++ r)])
  | .xlat d a w => some (false, [packS 0x07 (d ++ a ++ 0#8 ++ w)])
  | .gath d a w => some (false, [packS 0x08 (d ++ a ++ 0#8 ++ w)])
  | .scat d a k m w => some (false, [packS 0x09 (d ++ a ++ 0#5 ++ k ++ m ++ w)])
  | .mcast d a => some (false, [packS 0x0A (d ++ a ++ 0#9)])
  | .mgang a => some (false, [packS 0x0B (0#7 ++ a ++ 0#9)])
  | .mma d a c t => some (false, [packS 0x0C (d ++ a ++ 0#5 ++ c ++ t)])
  | .mdrain d s t => some (false, [packS 0x0D (d ++ 0#10 ++ s ++ t)])
  | .mstore a k s c n t => some (false, [packS 0x0E (0#7 ++ a ++ 0#1 ++ k ++ s ++ c ++ n ++ t)])
  | .mzero l t => some (false, [packS 0x0F (0#19 ++ l ++ t)])
  | .mfence d => some (false, [packS 0x10 (d ++ 0#16)])
  | .mwait n => some (false, [packS 0x11 (0#19 ++ n)])
  | .ntake => some (false, [packS 0x12 (0#23)])
  | .npass => some (false, [packS 0x13 (0#23)])
  | .pass a j => some (false, [packS 0x14 (0#7 ++ a ++ 0#2 ++ j)])
  | .seal a => some (false, [packS 0x15 (0#7 ++ a ++ 0#9)])
  | .vread a p j => some (false, [packS 0x16 (0#7 ++ a ++ 0#1 ++ p ++ j)])
  | .vwait a p j => some (false, [packS 0x17 (0#7 ++ a ++ 0#1 ++ p ++ j)])
  | .vdone a m => some (false, [packS 0x18 (0#7 ++ a ++ 0#2 ++ m)])
  | .post d a r j => some (false, [packS 0x19 (d ++ a ++ 0#1 ++ r ++ j)])
  | .reply d a => some (false, [packS 0x1A (d ++ a ++ 0#9)])
  | .cdone => some (false, [packS 0x1B (0#23)])
  | .enq d a e j => some (false, [packS 0x1C (d ++ a ++ 0#1 ++ e ++ j)])
  | .signal a s => some (false, [packS 0x1D (0#7 ++ a ++ 0#8 ++ s)])
  | .launch d j => some (false, [packS 0x1E (d ++ 0#9 ++ j)])
  | .lwait a j => some (false, [packS 0x1F (0#7 ++ a ++ 0#2 ++ j)])
  | .ldone a => some (false, [packS 0x20 (0#7 ++ a ++ 0#9)])
  | .lhint a => some (false, [packS 0x21 (0#7 ++ a ++ 0#9)])
  | .enrd k j => some (false, [packS 0x22 (k ++ 0#9 ++ j)])
  | .commit => some (false, [packS 0x23 (0#23)])
  | .tokpass => some (false, [packS 0x24 (0#23)])
  | .join => some (false, [packS 0x25 (0#23)])
  | .ret l => some (false, [packS 0x26 (0#22 ++ l)])
  | .jmpi a => some (false, [packS 0x27 (0#7 ++ a ++ 0#9)])
  | .exit => some (false, [packS 0x28 (0#23)])
  | .trap n => some (false, [packS 0x29 (n)])
  | .sys n => some (false, [packS 0x2A (n)])
  | .tret m => some (false, [packS 0x2B (0#21 ++ m)])
  | .bkpt n => some (false, [packS 0x2C (n)])
  | .pmap d a e w => some (false, [packS 0x2D (d ++ a ++ 0#7 ++ e ++ w)])
  | .tlbiDrain j => some (false, [packS 0x2E (0#15 ++ j ++ 0#1)])
  | .tlbiConfirm => some (false, [packS 0x2E 1])
  | .bra u g o => some (u, [packJ 0 (g ++ o)])
  | .call u g o => some (u, [packJ 1 (g ++ o)])
  | .mark o => some (false, [packJ 2 (0#3 ++ o)])
  | .brk g => some (false, [packJ 3 (g ++ 0#23)])
  | .tramp g k => some (false, [packJ 5 (g ++ 0#7 ++ k)])
  | .probe n => some (false, [packJ 6 n])
  | .movl u d lit => some (u, [packL 0x0 d 0, lit])
  | .iaddl u d a lit => some (u, [packL 0x1 d a, lit])
  | .andl u d a lit => some (u, [packL 0x2 d a, lit])
  | .orl u d a lit => some (u, [packL 0x3 d a, lit])
  | .xorl u d a lit => some (u, [packL 0x4 d a, lit])
  | .imull u d a lit => some (u, [packL 0x5 d a, lit])
  | .icmpeql u d a lit => some (u, [packL 0x6 d a, lit])
  | .icmpltl u d a lit => some (u, [packL 0x7 d a, lit])
  | .faddl u d a lit => some (u, [packL 0x8 d a, lit])
  | .fmull u d a lit => some (u, [packL 0x9 d a, lit])
  | .ffmal u d a lit => some (u, [packL 0xA d a, lit])
  | .fcmpltl u d a lit => some (u, [packL 0xB d a, lit])
  | .frameFetch .. | .stallCountElapse .. | .activeSetFill .. | .forcedRotation .. | .pauseExpiry ..
  | .loadReturn .. | .storePerformed .. | .remoteErrorReply .. | .remoteTimeout .. | .copyPartArrival ..
  | .copyPartFault .. | .mcastPartArrival .. | .gangOperationEntry .. | .mdrainEntry .. | .mstoreEntry ..
  | .mzeroEntry .. | .needlePass .. | .queueEntryTake .. | .teamPlace .. | .teamEnd .. | .launchComplete ..
  | .timeLimitExpiry .. | .energyLimitReached .. | .passOpen .. | .skeinRecordArrival ..
  | .skeinTimerExpiry .. | .skeinFire .. | .watchdogExpiry .. | .postReplyArrival .. | .layerFetchStart ..
  | .layerArrival .. | .layerFetchFault .. | .evictionComplete .. | .reservoirRefill ..
  | .thermalLimitStep .. | .idleThresholdExpiry .. | .collapseComplete .. | .wakeComplete ..
  | .vaultPageRestore .. | .scrubComplete .. | .haltComplete .. | .saveComplete .. | .restoreComplete ..
  | .timeSliceExpiry .. | .debuggerStop .. | .debuggerStep .. | .debuggerStepAll .. | .pwrlimWrite ..
  | .heatlimWrite .. | .healthWrite .. | .attestation .. | .firmwareUpdate .. | .wake .. | .create ..
  | .destroy .. | .grantq .. | .revokeq .. | .grantcg .. | .revokecg .. | .preempt .. | .resume ..
  | .replay .. | .drain .. | .confirm .. | .grantv .. | .revokev .. | .mapreply .. | .ringIndexWrite ..
  | .queueConfigWrite .. | .doorbell .. | .memoryWindowRead .. | .memoryWindowWrite ..
  | .memoryWindowAtomic .. | .registerWrite .. | .functionLevelReset .. | .packageReset .. | .linkTraining ..
  | .peerRequest .. | .correctedError .. | .uncorrectableError .. | .coreRetirement ..
  | .channelGroupWithdrawal .. | .debuggerContinue .. | .debuggerAttach .. | .memoryWindowServiceTimeout ..
  | .postQueuePartPerformed .. | .scatterRowWrite .. | .unloggedMarkNotice .. => none

end Sys2Proof
end

