-- ==== Sys2Proof/Machine/Bits.lean ====
section
/-! DEFINITION. Bit fields, sign extension, byte order and the sparse maps: the helpers every meaning uses. Records in
memory (descriptors, headers, queue entries) are handled as natural numbers whose bit n is the manual's bit n, in
little-endian byte order (00 R1, R4). -/

namespace Sys2Proof.Machine

/-! Sparse maps: keys strictly rising, no entry equal to the default. -/

/-- The value at key `k`, `d` where none is listed. -/
def nget {α : Type} (d : α) : NMap α → Nat → α
  | [], _ => d
  | (j, x) :: m, k => if k = j then x else nget d m k

/-- Remove every entry of key `k`. -/
def ndrop {α : Type} (k : Nat) : NMap α → NMap α
  | [] => []
  | (j, x) :: m => if j = k then ndrop k m else (j, x) :: ndrop k m

/-- Put an entry before the first one with a greater key. -/
def ninsert {α : Type} (k : Nat) (v : α) : NMap α → NMap α
  | [] => [(k, v)]
  | (j, x) :: m => if k < j then (k, v) :: (j, x) :: m else (j, x) :: ninsert k v m

/-- Insert or replace the value at key `k`; writing the default removes the entry. -/
def nset {α : Type} [DecidableEq α] (d : α) (m : NMap α) (k : Nat) (v : α) : NMap α :=
  if v = d then ndrop k m else ninsert k v (ndrop k m)

/-- The canonical form: every key at least `lo`, keys strictly rising, no entry equal to the default. -/
def nwfFrom {α : Type} [DecidableEq α] (d : α) (lo : Nat) : NMap α → Bool
  | [] => true
  | (k, x) :: m => decide (lo ≤ k) && decide (x ≠ d) && nwfFrom d (k + 1) m

/-- The canonical form from key 0. -/
def nwf {α : Type} [DecidableEq α] (d : α) (m : NMap α) : Bool := nwfFrom d 0 m

/-! Bit fields of natural numbers. -/

/-- Bits [lo + len - 1 : lo] of `w`. -/
def field (w lo len : Nat) : Nat := (w >>> lo) % 2 ^ len

/-- `w` with bits [lo + len - 1 : lo] replaced by the low bits of `v`. -/
def setField (w lo len v : Nat) : Nat :=
  w - (field w lo len) * 2 ^ lo + (v % 2 ^ len) * 2 ^ lo

/-- The low `len` bits of `n` as a two's-complement number (R4: sg). -/
def signed (len n : Nat) : Int :=
  let x := n % 2 ^ len
  if x < 2 ^ (len - 1) then (x : Int) else (x : Int) - (2 ^ len : Nat)

/-- The two's-complement bits of `i` in `len` bits, wrapping. -/
def wrap (len : Nat) (i : Int) : Nat := (i % ((2 ^ len : Nat) : Int)).toNat

/-- `i` held between `lo` and `hi` (R4: sat). -/
def clampInt (i lo hi : Int) : Int := if i < lo then lo else if hi < i then hi else i

/-- The lesser and greater of two words read as signed numbers. -/
def sminW (a b : Word) : Word := if a.toInt ≤ b.toInt then a else b
/-- The greater of two words read as signed numbers. -/
def smaxW (a b : Word) : Word := if a.toInt ≤ b.toInt then b else a
/-- The lesser of two words read as N32. -/
def uminW (a b : Word) : Word := if a.toNat ≤ b.toNat then a else b
/-- The greater of two words read as N32. -/
def umaxW (a b : Word) : Word := if a.toNat ≤ b.toNat then b else a

/-- How many of the low `n` bits of `w` are 1. -/
def popCount (w : Nat) : Nat → Nat
  | 0 => 0
  | n + 1 => popCount w n + (if w.testBit n then 1 else 0)

/-- The low `n` bits of `w` in reverse order. -/
def reverseBits (w : Nat) : Nat → Nat
  | 0 => 0
  | n + 1 => reverseBits (w / 2) n + (w % 2) * 2 ^ n

/-- The number of binary digits of `n`: 0 for 0, else ⌊log₂ n⌋ + 1. -/
def bitLength (n : Nat) : Nat := if n = 0 then 0 else n.log2 + 1

/-! Byte order (R1: little-endian). -/

/-- The number whose bytes, lowest first, are listed. -/
def ofBytes : List Byte → Nat
  | [] => 0
  | b :: bs => b.toNat + 256 * ofBytes bs

/-- The low `n` bytes of `w`, lowest first. -/
def toBytes : Nat → Nat → List Byte
  | 0, _ => []
  | n + 1, w => BitVec.ofNat 8 w :: toBytes n (w / 256)

/-- The low `n` words of `w`, lowest first. -/
def toWords : Nat → Nat → List Word
  | 0, _ => []
  | n + 1, w => BitVec.ofNat 32 w :: toWords n (w / 2 ^ 32)

/-- The number whose words, lowest first, are listed. -/
def ofWords : List Word → Nat
  | [] => 0
  | w :: ws => w.toNat + 2 ^ 32 * ofWords ws

/-- Two words as one 64-bit value, `hi ‖ lo`. -/
def pair (hi lo : Word) : DWord := hi ++ lo

/-- Bits [31:0] of a 64-bit value. -/
def lo32 (x : DWord) : Word := x.extractLsb' 0 32
/-- Bits [63:32] of a 64-bit value. -/
def hi32 (x : DWord) : Word := x.extractLsb' 32 32

/-! Sets of lanes. -/

/-- All 32 lanes. -/
def allLanes : Mask := BitVec.allOnes 32

/-- Is lane `i` in the set? -/
def hasLane (m : Mask) (i : Nat) : Bool := m.getLsbD i

/-- The lanes below `n` for which `p` holds, as a number. -/
def maskBelow (p : Nat → Bool) : Nat → Nat
  | 0 => 0
  | n + 1 => maskBelow p n ||| (if p n then 1 <<< n else 0)

/-- The lanes for which `p` holds. -/
def maskOf (p : Nat → Bool) : Mask := BitVec.ofNat 32 (maskBelow p 32)

/-- The lanes of a set in ascending order. -/
def lanesOf (m : Mask) : List Nat := (List.range 32).filter (hasLane m)

/-- The lowest lane of a set. -/
def lowestLane (m : Mask) : Option Nat := (lanesOf m).head?

/-- `m` without the lanes of `n`. -/
def minus (m n : Mask) : Mask := m &&& ~~~n

/-- The slot after `pc` (R154: next). -/
def nextSlot (pc : DWord) : DWord := if pc.extractLsb' 0 5 = 28#5 then pc + 8 else pc + 4

/-- The frame that holds a slot (R69: 32 bytes, aligned). -/
def frameBase (pc : DWord) : DWord := pc - (pc &&& 31)

end Sys2Proof.Machine
end

