-- ==== Sys2Proof/Config.lean ====
section
/-! DEFINITION. What an implementation fixes, and the free values: every constant here without a body is opaque,
so no proof can see what it is. Each is named in the assumption log. -/

namespace Sys2Proof.Config

/-- R78: with the scoreboard off, a lane that reads a register too early reads its old value or the new one, and
which is not promised. `true`: the new value. Applied to a fresh number for every lane and source (log entry 6). -/
opaque hazardNew : Nat → Bool

/-- R260 step 3: which store, atomic or engine part in flight at a cut is performed is not stated. `true`: it is
performed in full (log entry 8). -/
opaque cutKeeps : Nat → Bool

/-- R296: the manual divides energy in proportion and states no rounding of the part of a µJ left over.
`true`: a read rounds that part up (log entry 9). -/
opaque roundsUp : Nat → Bool

/-- R347, R348: does the pair of signatures (Ed25519, ML-DSA-65) by the signer of this identifier verify over this
digest? The schemes are published standards the manual names and does not define (log entry 10). -/
opaque signatureVerifies (signer : BitVec 384) (digest : BitVec 384) (ed25519 : List Byte) (mlDsa : List Byte) : Bool

/-- R347: the two signatures over an attestation report by the part's own keys (log entry 10). -/
opaque attestationSignature (report : List Byte) : List Byte

/-- R347: the bytes of the firmware image of this number (log entry 10). -/
opaque firmwareImage (image : Nat) : List Byte

/-- R347: does an Ed25519 or an ML-DSA-65 signature verify over this digest, with the vendor's keys that the boot ROM names (log
entry 10)? -/
opaque vendorEd25519 (digest : BitVec 384) (signature : List Byte) : Bool
opaque vendorMlDsa65 (digest : BitVec 384) (signature : List Byte) : Bool

/-- R75: how many clk after its issue an interlocked result that no access brings is written: a special-function port's, or that of
an instruction whose entry gives no time; by the clk at which it issues (log entry 17). -/
opaque resultClk : Nat → Nat

/-- R22: what the hottest sensor of a die reads at the die's thermal step at this clk: the world outside gives it (log entry 57). -/
opaque sensorReads (die clk : Nat) : SensorReading

/-- R269: requester tokens are opaque 32-bit numbers (log entry 13). -/
opaque requesterToken : Nat → Word

/-- R333: the low 64 bits of the SHA-384 over a batch's requester identities (launch, team, group, lane, per-lane post
count, in lane order). The manual gives the identities no byte layout (log entry 10). -/
opaque batchSignature : List (List Nat) → BitVec 64

/-- R321: the tag of the first map request; each later one takes the next number (log entry 13). -/
opaque firstTag : Word

/-- R298: the manual states no effect of a write of RESCAP, REFILL or CAP outside its range: what the register then holds
is some value within it (log entry 26). -/
opaque powerValue : Nat → Nat

/-- R325, R301: the layout of a save area is not given: what a byte of it holds after a save or a collapse (log entry 27). -/
opaque saveByte : Nat → Nat → Byte

/-- R345: TRAPCAUSE of the KIND 5 record of a request that was not served in time, for which the manual names no page fault
(log entry 28). -/
opaque timeoutCause : Nat → Word

/-- R320, R323: TRAPCAUSE of a KIND 3 record, which the manual does not state (log entry 28). -/
opaque targetCause : Nat → Word

/-- R350: what a byte of a withdrawn channel group holds once its contents are lost (log entry 43). -/
opaque lostByte : Nat → Nat → Byte

/-- R176, R323: a host or peer lane whose access fails where another lane of the instruction met a trap condition: the remote
fault is not taken, and no rule gives what the lane's register then holds (log entry 35). -/
opaque lostWord : Nat → Word

end Sys2Proof.Config
end

