-- ==== Sys2Proof/Machine/State.lean ====
section
/-! DEFINITION. The state of the machine as plain data: every piece of state the spec gives it, by the level that holds
it (group, team, launch, quadrant, core, virtual device, package), the model's own bookkeeping, and the state after
package reset. Each field's comment names the rule of spec/ it follows; `log n` names a row of notes/assumptions. -/

namespace Sys2Proof.Machine

/-- Why a step stops with a fault. -/
inductive Fault where
  /-- Raised by `finish` where an engine of the device (a ring, a queue, a table root) reaches a physical address that
  R165 calls unimplemented: the manual gives that access no effect. Safe: the machine stops where hardware goes on. -/
  | unimplementedAddress (addr : Nat)
  deriving DecidableEq, Repr

/-- Why an instruction has no meaning. -/
inductive Refusal where
  /-- Raised only by an arm of `exec` for an instruction not modelled yet. Safe: the machine stops. -/
  | notModelled (mnemonic : String)
  deriving DecidableEq, Repr

/-! Groups. -/

/-- R316: the level a group runs at. -/
inductive Level where
  | program
  | user
  | supervisor
  deriving DecidableEq, Repr

/-- R317: what a trap saves at the level it enters, with the level it came from (R316: each handler level keeps its own). -/
structure Saved where
  spc : DWord := 0
  smask : Mask := 0
  sdepth : Nat := 0
  fromLevel : Level := .program
  /-- the instruction at SPC is an L-form, so the slot after it lies beyond its literal (R88, R318) -/
  long : Bool := false
  deriving DecidableEq, Repr

/-- R55: TRAPCAUSE, TRAPPC, TRAPMASK and FADDR. -/
structure TrapRegs where
  cause : Word := 0
  pc : DWord := 0
  mask : Mask := 0
  faddr : DWord := 0
  deriving DecidableEq, Repr

/-- R318: an instruction re-executing after TRET 0: the lanes it re-executes in and the mask restored when it completes. -/
structure Retry where
  tmask : Mask
  smask : Mask
  sdepth : Nat
  deriving DecidableEq, Repr

/-- R54: one entry of the reconvergence stack. `pending` is the kind PENDING, otherwise REJOIN. -/
structure StackEntry where
  pending : Bool
  pc : DWord
  mask : Mask
  deriving DecidableEq, Repr

/-- R52, R174: a translation register with its VBASE. -/
structure XReg where
  valid : Bool := false
  wr : Bool := false
  limit : Word := 0
  base : DWord := 0
  vbase : DWord := 0
  deriving DecidableEq, Repr

/-- R206: an engine fault record: detail code and faulting virtual address. -/
structure FaultRec where
  detail : Nat
  addr : DWord
  deriving DecidableEq, Repr

/-- Where bytes stand: physical memory (R165) or a team's scratchpad (R168). -/
inductive MemLoc where
  | phys (addr : Nat)
  | scratch (team off : Nat)
  deriving DecidableEq, Repr

/-- One lane's part of a queued store. -/
structure LaneStore where
  lane : Nat
  va : DWord
  loc : MemLoc
  bytes : List Byte
  deriving DecidableEq, Repr

/-- R185: one entry of a group's store queue: one store instruction, holding all its lanes in ascending order. -/
structure StoreEntry where
  seq : Nat
  parts : List LaneStore
  /-- the clk at which it issued (R323), and its group's device (R346) -/
  since : Nat := 0
  vd : Nat := 0
  deriving DecidableEq, Repr

/-- Where a result goes: a run of the group's physical vector registers, a run of uniform registers, or nowhere. -/
inductive Dest where
  | vec (first count : Nat)
  | uni (first count : Nat)
  | none
  deriving DecidableEq, Repr

/-- One lane's part of an outstanding load. -/
structure LaneLoad where
  lane : Nat
  va : DWord
  loc : MemLoc
  deriving DecidableEq, Repr

/-- R323: the answer to a host or peer access: the lanes whose part of it failed (lane 0 where the access is the group's), and
how: 1 at the target, 2 without an answer in time (R315); and where its lanes were translated to before the requests left (R178). -/
structure RemoteAns where
  failed : Mask := 0
  detail : Nat := 0
  places : List LaneLoad := []
  deriving DecidableEq, Repr

/-- R75, R325: an outstanding load (a replay packet once its group is saved): lanes, size, sign extension, destination
and the GENTAG it carries (R326). -/
structure PendLoad where
  seq : Nat
  tag : Word
  lanes : List LaneLoad
  size : Nat
  signExt : Bool
  dest : Dest
  deriving DecidableEq, Repr

/-- R195: a QFENCE still to be obeyed: operations on a path of `mask` issued after `seq` wait for those before it. -/
structure QFenceRec where
  seq : Nat
  mask : BitVec 8
  deriving DecidableEq, Repr

/-- R72-R78: a fixed-latency result in flight: what it writes, the architectural distance since it issued, its latency
and, per resource, the value it replaces. -/
inductive Res where
  | v (phys : Nat)
  | s (n : Nat)
  | p (n : Nat)
  | q (n : Nat)
  | g (k : Nat)
  | x (k : Nat)
  deriving DecidableEq, Repr

/-- The value a resource held before a producer wrote it (lane by lane for v; bit 0 for q). -/
inductive OldValue where
  | vec (v : LaneVec)
  | word (w : Word)
  | mask (m : Mask)
  | slot (g : BitVec 9)
  deriving DecidableEq, Repr

/-- R77: a producer and what it wrote. -/
structure Producer where
  res : Res
  dist : Nat
  lat : Nat
  old : OldValue
  /-- the lanes it wrote and no later instruction has written since -/
  mask : Mask
  deriving DecidableEq, Repr

/-- R78: what the instruction now issuing reads where the scoreboard is off and a count fell short. The model's own
(log 6). -/
structure Hazards where
  v : List (Nat × LaneVec) := []
  s : List (Nat × LaneVec) := []
  p : List (Nat × Mask) := []
  q : List (Nat × Mask) := []
  g : List (Nat × BitVec 9 × Mask) := []
  deriving DecidableEq, Repr

/-- A global address as an operand gives it (R175): the virtual address, and the physical one where a translation
register covers the access. -/
structure GAddr where
  va : DWord
  pa : Option Nat
  deriving DecidableEq, Repr

/-- An end of a copy part. -/
inductive CopyEnd where
  | scratch (off : Nat)
  | global (a : GAddr)
  deriving DecidableEq, Repr

/-- R183, R207: one part of a copy: at most 16 bytes. -/
structure CopyPart where
  src : CopyEnd
  dst : CopyEnd
  size : Nat
  done : Bool := false
  deriving DecidableEq, Repr

/-- R211, R212: what became of a position's index: not read, its row, or the failure that faulted it. -/
inductive IndexState where
  | unread
  | row (x : Nat)
  | failed (detail : Nat)
  deriving DecidableEq, Repr

/-- R210: the block of GATH or SCAT as read at issue. -/
structure TableBlock where
  list : DWord
  table : DWord
  rowBytes : Nat
  rows : Nat
  count : Nat
  width : Nat
  base : Nat
  deriving DecidableEq, Repr

/-- R213, R214: one multicast part: which destination (bit m), where, the captured generation, whether accepted. -/
structure McastPart where
  m : Nat
  team : Nat
  gen : Nat
  off : Nat
  accepted : Bool := false
  done : Bool := false
  deriving DecidableEq, Repr

/-- R239: what MSTORE read at issue. -/
structure StoreTile where
  addr : DWord
  pitch : Nat
  tile : Nat
  add : Bool
  conv : Nat
  scratch : Bool
  i32 : Bool
  deriving DecidableEq, Repr

/-- One lane of a queued POST or ENQ: its record, and how often the lane had posted (R333). -/
structure LaneRecord where
  lane : Nat
  words : List Word
  posts : Nat := 0
  deriving DecidableEq, Repr

/-- R278, R279: one lane of ENQ.DEP or SIGNAL: the block's virtual address, and the record of a publication. -/
structure DepLane where
  lane : Nat
  block : DWord
  words : List Word
  deriving DecidableEq, Repr

/-- R194: an operation in an engine queue. -/
inductive OpKind where
  | copy (parts : List CopyPart) (barrier : Option Nat)
  | gather (blk : TableBlock) (index : List IndexState) (done : List Bool)
  | scatter (blk : TableBlock) (add : Bool) (kind : Nat) (resolved : Bool) (index : List IndexState) (rows : List Nat) (done : List Bool)
  /-- `data`: what the engine read of the source, once its lines were FULL -/
  | mcast (src bytes dst : Nat) (parts : List McastPart) (data : Option (List Byte)) (dropped : Nat) (dest : Dest) (lanes : Mask)
  | gang (op : Nat)
  | mdrain (first : Nat) (tile slice : Nat)
  | mstore (t : StoreTile)
  | mzero (all : Bool) (tile : Nat)
  | post (va : DWord) (pa : Nat) (reply : Bool) (since : Nat) (lanes : List LaneRecord)
  | enq (va : DWord) (pa : Nat) (lanes : List LaneRecord)
  | enqDep (desc : DWord) (count : Word) (lanes : List DepLane)
  | signal (sys : Bool) (since : Nat) (lanes : List DepLane)
  | launch (desc : DWord) (dest : Dest) (lanes : Mask)
  deriving DecidableEq, Repr

/-- An engine operation with its place in the group's program order. -/
structure EngineOp where
  seq : Nat
  kind : OpKind
  deriving DecidableEq, Repr

/-- R241: a closed batch: how many were closed before it (its number is this modulo 16), and the operations (by seq)
still outstanding. -/
structure Batch where
  num : Nat
  ops : List Nat
  deriving DecidableEq, Repr

/-- R322: a range of a DRAIN: base and pages of 64 KiB, none for the whole address space. -/
structure DrainRange where
  base : DWord
  pages : Nat
  deriving DecidableEq, Repr

/-- R38: what a group waits for. A wait that re-issues runs its instruction again when it ends (the PC still names it);
the others are ended by the event that answers them. -/
inductive Wait where
  /-- an interlocked result among these resources is outstanding (R75); re-issues -/
  | interlock (res : List Res)
  /-- a scratchpad line among these bytes is EMPTY (R170); re-issues -/
  | lines (addrs : List Nat)
  /-- one of these virtual pages is scrub-pending, draining or not restored (R177, R178, R302); re-issues -/
  | pages (vas : List DWord)
  /-- the code frame at the PC is so; re-issues -/
  | fetch (va : DWord)
  /-- an issue to a path that a QFENCE of this mask holds back (R195); re-issues -/
  | paths (path : Nat)
  /-- a host or peer access of these lanes and this size, translated to these places, is unanswered since this clk (R323); re-issues when
  answered. `atomic`: an atomic (R325 step 3) -/
  | remote (atomic : Bool) (size : Nat) (places : List LaneLoad) (since : Nat)
  /-- CDONE until the engine operations of its group are over (R270); re-issues -/
  | engines
  /-- parked in BAR on the object until the phase ends (R217) -/
  | bar (obj : Nat) (phase : Bool) (dest : Dest) (lanes : Mask)
  /-- parked in BARWAIT on the object until its phase completes (R218, R219); then goes on at `next` -/
  | barwait (obj : Nat) (phase : Bool) (next : DWord)
  /-- YIELD.BAR until PHASE differs from the token (R223); then goes on at `next` -/
  | phase (obj : Nat) (token : Bool) (next : DWord)
  /-- YIELD.CQ until the queue is drained (R223); then goes on at `next` -/
  | drained (q : Nat) (next : DWord)
  /-- YIELD.LINE until the line of this byte is not EMPTY (R223); then goes on at `next` -/
  | filled (addr : Nat) (next : DWord)
  /-- LDTS at a full pending count (R208); re-issues -/
  | pendingFull (obj : Nat)
  /-- MFENCE or MWAIT for batches (R241, R242); re-issues -/
  | batch (num : Nat)
  /-- NTAKE for the needle (R236); re-issues -/
  | needle
  /-- NPASS until the group's MMAs have entered (R237); NEEDLE_PASS ends it -/
  | npass
  /-- at the rendezvous latch of an MMA (R232), with its operands' fields -/
  | latch (fmt panel : Nat) (clr : Bool) (tile : Nat)
  /-- PASS for the next pass (R249); re-issues -/
  | pass
  /-- VWAIT on the header at this address (R256); re-issues -/
  | version (desc : DWord) (demand : Nat)
  /-- POST.R for its lanes (R274), with the descriptor's virtual and physical address, and the clk at which it issued (R323) -/
  | reply (addr : DWord) (pa : Nat) (dest : Dest) (size : Nat) (lanes : Mask) (since : Nat) (answers : List (Nat × Answer))
  /-- LWAIT on a layer (R290), for uniform register j, with the pin once the arrival has given it; re-issues otherwise -/
  | layer (ctx : DWord) (index j : Nat) (pinned : Bool)
  /-- PMAP for the host's answer to a tag (R321) -/
  | map (tag : Nat) (page : DWord) (answer : Option Nat) (dest : Dest) (lanes : Mask)
  /-- COMMIT for the token (R331); re-issues -/
  | token
  /-- TLBI.CONFIRM or TRET's confirm (R179, R318); re-issues -/
  | confirm
  /-- halted for good by a fault, and so not ended (R30): the cut of its launch waits for space in the log (R320, R334) -/
  | halted
  deriving DecidableEq, Repr

/-- What a group was placed for. -/
inductive GroupKind where
  | launch
  | combiner (skein : Nat)
  | node
  deriving DecidableEq, Repr

/-- A group of 32 lanes and everything R44 gives it, with its place and its part in scheduling. -/
structure Group where
  /-- the model's name of the group, unique in the life of the machine; 0 names no group -/
  id : Nat := 0
  /-- resident and not ended (R30, R39) -/
  live : Bool := false
  /-- saved by pre-emption: keeps its state, holds no slot (R325) -/
  saved : Bool := false
  kind : GroupKind := .launch
  vd : Nat := 0
  launch : Option Nat := none
  team : Nat := 0
  /-- R24, R27, R55 -/
  groupid : Nat := 0
  ngroups : Nat := 0
  teamid : Nat := 0
  nteams : Word := 0
  role : Nat := 0
  roleidx : Nat := 0
  core : Nat := 0
  part : Nat := 0
  slot : Nat := 0
  lcore : Nat := 0
  /-- R45: ALLOC and WINBASE -/
  alloc : Nat := 16
  winbase : BitVec 4 := 0
  /-- R44: vector registers by physical number, uniform registers, predicates p1-p127 (lane i at bit i), q0-q15 -/
  v : NMap LaneVec := []
  s : NMap Word := []
  p : NMap Mask := []
  q : BitVec 16 := 0
  /-- R50: guard slots g1-g7 -/
  gs : NMap (BitVec 9) := []
  /-- R52, R174: x1-x7 -/
  xs : NMap XReg := []
  exec : Mask := 0
  retired : Mask := 0
  /-- R54, top first; the lowest `hidden` entries are hidden from the handler (R317) -/
  stack : List StackEntry := []
  hidden : Nat := 0
  pc : DWord := 0
  /-- R56: CLOCK's high half as last latched -/
  clockLatch : Word := 0
  passno : Word := 0xFFFFFFFF
  spb : Word := 0
  barbase : Word := 0
  trb : Word := 0
  utv : Word := 0
  stv : Word := 0
  gentag : Word := 0
  checkmode : Bool := false
  arg : DWord := 0
  /-- R316-R318 -/
  level : Level := .program
  trap : TrapRegs := {}
  user : Saved := {}
  super : Saved := {}
  /-- R316: the user level's trap registers, while the supervisor handler runs -/
  trapUser : TrapRegs := {}
  retry : Option Retry := none
  /-- R229 and whether it is valid -/
  gang : Option DWord := none
  /-- R241: how many batches have been closed (the next one's number is this modulo 16), the matrix operations not yet
  closed, and the outstanding batches, oldest first -/
  nextBatch : Nat := 0
  openOps : List Nat := []
  batches : List Batch := []
  /-- R194: cq0-cq3 (0-3), matrix (4), gather/scatter (5), post (6), in issue order -/
  queues : NMap (List EngineOp) := []
  /-- R206, R242: fault records of the same seven queues -/
  records : NMap (Option FaultRec) := []
  /-- R323: the sticky remote-store error: first failing address, with what failed (1 at the target, 2 timeout: R315) -/
  sticky : Option FaultRec := none
  /-- R322 -/
  drains : List DrainRange := []
  /-- R185 -/
  storeQ : List StoreEntry := []
  /-- outstanding loads in program order -/
  pend : List PendLoad := []
  qfences : List QFenceRec := []
  /-- the number the group's next access or engine operation takes in program order (the model's own) -/
  seq : Nat := 0
  wait : Option Wait := none
  /-- R323: the answer to the remote access the group waits for -/
  remote : Option RemoteAns := none
  /-- R34-R38: in the active set, since when ready, entered, last issued; stall and pause ends -/
  active : Bool := false
  readySince : Nat := 0
  enteredAt : Nat := 0
  lastIssue : Option Nat := none
  stallUntil : Nat := 0
  pausedUntil : Nat := 0
  /-- R72: a count of 7 holds the next instruction until every fixed-latency result is written -/
  prods : List Producer := []
  hz : Hazards := {}
  /-- R69, R96: the frame last fetched: its address and words -/
  frame : Option (DWord × List Word) := none
  /-- R291: pins a combiner or node group holds: context, layer, count -/
  pins : List (DWord × Nat × Nat) := []
  /-- R337 -/
  stopped : Bool := false
  /-- R331: inside the span from COMMIT to TOKPASS -/
  committed : Bool := false
  /-- the instruction now issuing is an L-form (the model's own, for `Saved.long`) -/
  long : Bool := false
  /-- the cause taken by the instruction now issuing (the model's own, read by the stall-count check of R95) -/
  tookTrap : Option Nat := none
  /-- R333: this lane's POSTs so far, per lane -/
  posts : NMap Nat := []
  /-- R28: the first physical register of the group's run -/
  base : Nat := 0
  /-- of a saved group: the unit it used, counted from its core's first (R243) -/
  unitSaved : Nat := 0
  /-- R325 step 5: the operation (by seq) of the post queue of which a part has been performed -/
  postBegun : Option Nat := none
  /-- R296: the instruction that waits to be issued again has been counted (the model's own) -/
  noted : Bool := false
  /-- R75: interlocked results that no access brings, the special-function port's among them, with the clk at which each is
  written -/
  due : List (Res × Nat) := []
  /-- R179: the atomic that waits for the host's or a peer's answer was translated before a DRAIN of its address -/
  drained : Bool := false
  deriving DecidableEq, Repr

/-! Teams and launches. -/

/-- R169: the state of a scratchpad line. -/
inductive LineState where
  | full
  | empty
  | poisoned
  deriving DecidableEq, Repr

/-- R169: a line's state and pending count. -/
structure Line where
  state : LineState := .full
  count : Nat := 0
  deriving DecidableEq, Repr

/-- A team resident on a core, or saved (03 R24, R29, R30). -/
structure Team where
  id : Nat
  launch : Option Nat
  vd : Nat
  teamid : Nat
  core : Nat
  /-- scratchpad allocation in bytes, and in banks (R29) -/
  alloc : Nat
  banks : Nat
  /-- R214 -/
  gen : Nat := 0
  scratch : NMap Byte := []
  lines : NMap Line := []
  /-- R206: the most recent poisoning record -/
  poison : Option FaultRec := none
  /-- R235: needle position by unit, units counted from the core's first -/
  needles : NMap Nat := []
  /-- R249, R251: the last pass this team sealed -/
  sealed : Option Nat := none
  saved : Bool := false
  /-- R243: tile elements of a saved team's units, keyed as `State.tiles` with units counted from its core's first -/
  tiles : NMap Word := []
  /-- R68: the tiles (8·unit + tile, units counted so) that the team's operations have read or written -/
  tileUse : List Nat := []
  /-- R225, R243: of a saved team: its units, counted so, that were halves of a quadrant -/
  halves : List Nat := []
  /-- R243: the units of the package that a restored team's units were saved from, each with the one it now uses (the model's own) -/
  homes : List (Nat × Nat) := []
  /-- R329: the clk at which the team was placed, or restored -/
  placedAt : Nat := 0
  groups : Nat
  deriving DecidableEq, Repr

/-- An exact non-negative number num / den (energy, log 9). -/
structure Frac where
  num : Nat := 0
  den : Nat := 1
  deriving DecidableEq, Repr

/-- A launch that has been accepted and has not ended (R306-R310). -/
structure Launch where
  id : Nat
  /-- R333 -/
  seqno : Nat
  vd : Nat
  /-- the descriptor as read (R307) and its virtual address -/
  desc : Nat
  descVa : DWord := 0
  /-- from the queue entry: TAG, COMPL, IRQ and the queue's VEC; none for a LAUNCH of the device -/
  entry : Option (Word × DWord × Bool × Nat) := none
  /-- R310: the work queue that holds it until it is placed -/
  queue : Option Nat := none
  /-- the lowest TEAMID not placed yet, those placed above it (R42: in any order), and how many teams have ended -/
  nextTeam : Nat := 0
  ahead : List Nat := []
  ended : Nat := 0
  /-- R247: first issue -/
  startClk : Option Nat := none
  energy : Frac := {}
  unrepl : Bool := false
  early : Bool := false
  /-- status the launch ends with, once cut (R309) -/
  cut : Option Nat := none
  /-- R290: pins held: context, layer, count -/
  pins : List (DWord × Nat × Nat) := []
  /-- R331: the holder's (TEAMID, GROUPID), and whether it has taken the token with COMMIT -/
  token : Nat × Nat := (0, 0)
  taken : Bool := false
  /-- R250: clk and energy at the opening of the current pass and at the last seal -/
  openClk : Nat := 0
  openEnergy : Frac := {}
  sealClk : Nat := 0
  sealEnergy : Frac := {}
  finishNow : Bool := false
  /-- R249, R250: one more than the pass for which PLAN has decided to go on -/
  planned : Nat := 0
  /-- R249: what every group that issues PASS for pass k receives, in the order of the passes: working and sealed slot -/
  passes : List (DWord × DWord) := []
  /-- R251: LAST: the highest TEAMID among the open pass's arrivals -/
  sealTeam : Nat := 0
  /-- R334: a cut that waits for space in the log, with its status -/
  waitCut : Option Nat := none
  /-- R336: a decision of this KIND differed from its log entry -/
  diverged : Option Nat := none
  /-- R246: STATE and CUTCAUSE that the header is to take once its page no longer stalls -/
  headerDue : Option (Nat × Nat) := none
  deriving DecidableEq, Repr

/-! Quadrants, matrix units, skeins. -/

/-- R313: the owner of a quadrant. -/
inductive QuadOwner where
  | free
  | whole (vd : Nat)
  | halves (h0 h1 : Option Nat)
  deriving DecidableEq, Repr

/-- R232: a gang operation that passed its latch: its members' groups in gang-list order with their panels (A then B
rows of 32-byte slices), the format word, the unit and tile. -/
structure GangMember where
  gid : Nat
  seq : Nat
  panels : List LaneVec
  deriving DecidableEq, Repr

/-- R232: a gang operation waiting to enter its unit. -/
structure GangOp where
  id : Nat
  unit : Nat
  split : Bool
  tile : Nat
  clr : Bool
  fmt : Word
  team : Nat
  pos : Nat
  members : List GangMember
  deriving DecidableEq, Repr

/-- A record or request on its way to, or held by, a skein: its words, its token, who posted it, and the virtual device
it is for (R264, R269). `reply` is POST.R; `logmark` the posting launch's LOGMARK bit (R335). -/
structure SkRecord where
  words : List Word
  token : Word := 0
  vd : Nat := 0
  gid : Nat := 0
  lane : Nat := 0
  launch : Option Nat := none
  /-- R333: requester identity (launch, team, group, lane, per-lane post count) -/
  ident : List Nat := []
  reply : Bool := false
  logmark : Bool := false
  /-- R332: from a DET launch, and the last of its POST -/
  det : Bool := false
  postEnd : Bool := false
  /-- the node descriptor's virtual address, as the ENQ or the block named it -/
  addr : DWord := 0
  /-- posted by a lane of the peer of this number -/
  peer : Bool := false
  domid : Nat := 0
  deriving DecidableEq, Repr

/-- R267: the state of a skein. -/
inductive SkeinState where
  | free
  | fill
  | fire
  | run
  deriving DecidableEq, Repr

/-- One of a core's 64 skeins (R266, R267). -/
structure Skein where
  state : SkeinState := .free
  /-- bound to a node rather than an object, the descriptor's physical address, and its virtual device -/
  node : Bool := false
  desc : Nat := 0
  vd : Nat := 0
  held : List SkRecord := []
  batch : List SkRecord := []
  /-- REPLYs recorded, by position in the batch (R275) -/
  replies : List (Nat × List Word) := []
  /-- R335: the batch that runs proceeded unlogged -/
  unlogged : Bool := false
  /-- clk at which the timer of the records held expires -/
  deadline : Option Nat := none
  expired : Bool := false
  /-- the combiner group running, and the clk of its first issue (R272) -/
  gid : Nat := 0
  firstIssue : Option Nat := none
  deriving DecidableEq, Repr

/-- A record that waits at a home core before acceptance (R264, R266). -/
structure Waiting where
  core : Nat
  node : Bool
  desc : Nat
  item : SkRecord
  deriving DecidableEq, Repr

/-- A reply or error on its way to a poster (R274), with the unlogged mark it may carry (R335). -/
structure ReplyMsg where
  gid : Nat
  lane : Nat
  answer : Answer
  mark : Bool := false
  deriving DecidableEq, Repr

/-! Model contexts. -/

/-- R285-R287: the swap engine's work for one context, named by its descriptor's virtual address in a device. -/
structure Ctx where
  vd : Nat
  va : DWord
  /-- live launches naming it (R283) -/
  launches : List Nat := []
  arriving : Option Nat := none
  evicting : List Nat := []
  /-- groups parked in LWAIT with their layers, oldest first; outstanding hints, oldest first -/
  demand : List (Nat × Nat) := []
  hints : List Nat := []
  /-- R286: clk of each layer's last use by LWAIT or LDONE -/
  used : NMap Nat := []
  /-- vault frames of each layer's window -/
  frames : List (Nat × List Nat) := []
  deriving DecidableEq, Repr

/-! Virtual devices. -/

/-- R327: the state of a device's save. -/
inductive SaveState where
  | running
  | halting
  | saving
  | saved
  | restoring
  | idle
  deriving DecidableEq, Repr

/-- R334: a decision that waits for space in the record log: a cut or an early finish of a launch, or the batch of a
skein. -/
inductive LogWait where
  | cut (launch : Nat)
  | plan (launch : Nat)
  | batch (skein : Nat)
  deriving DecidableEq, Repr

/-- R298: PSTATE. -/
inductive PState where
  | awake
  | collapsing
  | collapsed
  | waking
  deriving DecidableEq, Repr

/-- R341: a ring register. -/
structure Ring where
  cons : Word := 0
  prod : Word := 0
  base : Nat := 0
  log2n : Nat := 0
  deriving DecidableEq, Repr

/-- R340: a virtual device. -/
structure VDev where
  created : Bool := false
  /-- power block (R298): log 14 for the values set at creation -/
  level : Int := 1000000
  rescap : Nat := 1
  refill : Nat := 0
  cap : Nat := 1
  idlethr : Nat := 1000
  pstate : PState := .awake
  wclass : Nat := 0
  wakes : Word := 0
  cmd : DWord := 0
  /-- R342: BUSY: one more than the function whose command runs -/
  busy : Nat := 0
  tension : Nat := 8
  rtimeout : Nat := 50
  ptroot : Nat := 0
  savebase : Nat := 0
  savesize : Nat := 0
  mcdrop : Word := 0
  peergrp : Nat := 0
  faultq : Ring := {}
  reclog : Ring := {}
  frames : Ring := {}
  vaults : Ring := {}
  vecrun : Word := 0
  faultvec : Word := 0
  trustctl : Word := 0
  drange : Nat := 0
  stv : Word := 0
  signers : Nat := 0
  mwbase : DWord := 0
  save : SaveState := .running
  resumeHeld : Bool := false
  /-- R336 -/
  replay : Bool := false
  /-- how many entries past CONS a replay has used, per KIND -/
  replayNext : NMap Nat := []
  /-- fault records that wait for space (R341), oldest first -/
  heldRecords : List Nat := []
  /-- decisions that wait for space in the log (R334), oldest first -/
  heldLog : List LogWait := []
  /-- R342, R352 -/
  groups : List Nat := []
  vaultsHeld : List Nat := []
  /-- R287: vault frames that the swap engine has returned to the device's pool -/
  vaultFree : List Nat := []
  /-- R322: host ranges drained and not confirmed -/
  hostDrains : List DrainRange := []
  /-- R301: idle since this clk -/
  idleSince : Option Nat := none
  /-- R302: vault pages saved by a collapse and not yet restored: their frames -/
  unrestored : List Nat := []
  /-- R321: outstanding map requests' tags, and the next tag -/
  tags : List Nat := []
  nextTag : Nat := 1
  /-- R300: attributed energy of the last eight completed launches by entry PC, most recently used first -/
  history : List (Nat × List Nat) := []
  /-- R295, R299: draw since the last refill step in µJ, by die (0-3) and outside the dies (4) -/
  draw : NMap Frac := []
  /-- R299: the draw of the refill step before -/
  prevDraw : NMap Frac := []
  /-- R17, R345: the size of the function's memory window is 2^this bytes: 64 MiB at reset, up to 256 GiB -/
  mwlog2 : Nat := 26
  deriving DecidableEq, Repr

/-! Package. -/

/-- R175: an entry of a lookaside buffer: which buffer (partition 0, core 1, die 2, and its number), the device, the page
(virtual base and size), the leaf entry as read, and the draining mark of R178. -/
structure TlbEntry where
  level : Nat
  loc : Nat
  vd : Nat
  page : Nat
  size : Nat
  leaf : Nat
  draining : Bool := false
  deriving DecidableEq, Repr

/-- R343: a work queue's configuration. -/
structure QueueCfg where
  tail : Word := 0
  head : Word := 0
  base : Nat := 0
  log2n : Nat := 0
  vec : Nat := 0
  enable : Bool := false
  owner : Nat := 0
  /-- R311: the clk since when an entry has waited at the queue arbiter -/
  since : Nat := 0
  deriving DecidableEq, Repr

/-- What the host has received. -/
inductive HostMsg where
  | readData (bytes : List Byte)
  | completerAbort
  | unsupportedRequest
  | malformed
  | interrupt (vector : Nat)
  | attestation (report signature : List Byte)
  /-- `mark`: the unlogged mark of R335 -/
  | peerReply (bytes : List Byte) (mark : Bool)
  /-- an error answer: `broken` is the detail of the broken-object trap where an object's home gives it (R274), none for a fault at
  the target (R323) -/
  | peerError (broken : Option Nat) (mark : Bool)
  /-- R335: the class-0 notice of an unlogged batch to a launch of a peer -/
  | peerNotice (domid launch : Nat)
  /-- R346: an access of this package at a peer: its DOMID, the device's PEERGRP, the physical address, and what it asks -/
  | remoteRequest (r : PeerReq)
  deriving DecidableEq, Repr

/-- A host request through the memory window that waits for a collapsed device (R345). -/
inductive WindowReq where
  | read (func : Nat) (va : DWord) (size : Nat) (since : Nat)
  | write (func : Nat) (va : DWord) (bytes : List Byte) (since : Nat)
  | atomic (func : Nat) (va : DWord) (size : Nat) (op : WindowAtomic) (operand swap : DWord) (since : Nat)
  deriving DecidableEq, Repr

/-- Whose turn it is (log 2). -/
inductive Turn where
  /-- an event of the device, the host or a peer happens -/
  | event (i : Instr)
  /-- the group issues its next instruction -/
  | issue (gid : Nat)
  /-- clk pass, and the gauges of these quadrants or halves grow by these µJ (R295) -/
  | elapse (clk : Nat) (growth : List (Nat × Nat))
  /-- the device does of itself what is due (R43) until CLOCK is this -/
  | reach (clk : Nat)
  /-- the host sets the size of a function's memory window through its Resizable BAR capability: 2^log2 bytes (R345) -/
  | windowSize (func log2 : Nat)
  /-- the debugger steps a path of the group (R337): 0 the current one, n the n-th entry of the stack from its lowest -/
  | pathStep (gid depth : Nat)
  deriving DecidableEq, Repr

/-- R347: a firmware image (the number names its bytes, Config.firmwareImage) and the signatures it carries. -/
structure Firmware where
  image : Nat := 0
  sigs : FirmwareSigs := {}
  deriving DecidableEq, Repr

/-- The machine. -/
structure State where
  /-- the group whose turn it is, and every other group of the package -/
  grp : Group := {}
  others : List Group := []
  teams : List Team := []
  launches : List Launch := []
  /-- R313: quadrant 4·core + q -/
  quads : NMap QuadOwner := []
  /-- R295: gauges in µJ: key 2·(4·core + q) + h for halves (h = 0 for a whole quadrant), and what lies outside them -/
  gauges : NMap Nat := []
  dieExtra : NMap Nat := []
  pkgExtra : Nat := 0
  /-- R296: issue slots used in the present interval: (gauge key, launch or 0, slots) -/
  slots : List (Nat × Nat × Nat) := []
  intervalStart : Nat := 0
  /-- growth of each gauge in the present interval, not attributed yet -/
  intervalGrowth : NMap Nat := []
  /-- R296: the array clk that gang operations occupy: unit, launch or 0, first clk and the one after the last -/
  arrays : List (Nat × Nat × Nat × Nat) := []
  /-- R35, R36: the clk from which a partition (32·core + partition) may use its selection again, and the clk at which its
  active set was last full -/
  selFree : NMap Nat := []
  fullAt : NMap Nat := []
  /-- R32: the clk from which a pipe or port accepts an instruction (Select.lean has the keys) -/
  pipeFree : NMap Nat := []
  /-- R36: one more than the clk in which a pipe or port last accepted an instruction -/
  pipeTaken : NMap Nat := []
  /-- R36: which partition of a pair (16·core + k) lost the last tie: 1 the even one, 2 the odd one, 0 none yet -/
  tieLost : NMap Nat := []
  /-- R53: tile elements, key ((unit·8 + tile)·64 + row)·64 + column, unit = 2·(4·core + q) + half -/
  tiles : NMap Word := []
  gangOps : List GangOp := []
  /-- R266: key 64·core + n -/
  skeins : NMap Skein := []
  waiting : List Waiting := []
  /-- records that dependence blocks have enqueued and that have not arrived (R278, R279) -/
  depRecords : List Waiting := []
  replies : List ReplyMsg := []
  /-- R335: class-0 notices of an unlogged batch on their way, by launch -/
  marks : List Nat := []
  ctxs : List Ctx := []
  vds : NMap VDev := []
  queues : NMap QueueCfg := []
  /-- R311: the device whose entry the queue arbiter took last -/
  lastServed : Nat := 255
  /-- R165: physical memory -/
  mem : List Host.Cell := []
  tlb : List TlbEntry := []
  /-- R56 -/
  clock : Nat := 0
  /-- package registers -/
  pwrlim : Nat := 0x960
  heatlim : NMap Nat := []
  thermal : NMap Nat := []
  nirports : Nat := 0
  domid : Nat := 0
  devices : Nat := 1
  withdrawn : List Nat := []
  /-- R350: retired cores, and R329: one more than the physical core a retired one is remapped to -/
  retiredCores : List Nat := []
  remap : NMap Nat := []
  /-- R349 -/
  ce : Nat := 0
  spares : Nat := 0
  fwfail : Bool := false
  uncorr : Bool := false
  replaceRequested : Bool := false
  /-- R350: the clk of a core's latest corrected errors, newest first, and the cores with more than 64 within one second -/
  coreErrors : NMap (List Nat) := []
  failing : List Nat := []
  /-- R349: physical 16-byte parts with an uncorrectable error -/
  badMem : List Nat := []
  hvec : Word := 0
  /-- R347: firmware image in force, and the one for the next reset -/
  firmware : Firmware := {}
  nextFirmware : Firmware := {}
  mailbox : NMap Byte := []
  /-- R337 -/
  debugger : Bool := false
  windowReqs : List WindowReq := []
  /-- what the host and the peers have received, newest last -/
  hostOut : List HostMsg := []
  /-- R302, R346: peers' requests that wait for the memory of a collapsed device -/
  peerReqs : List PeerReq := []
  /-- times of the last refill step, and of each die's last thermal step (R299, R22) -/
  lastRefill : Nat := 0
  lastThermal : NMap Nat := []
  /-- R22: one more than the clk since when a die's hottest sensor has been below the trip point; 0: it has not -/
  coolSince : NMap Nat := []
  /-- the model's own: the turns to come, the counter of free values, fresh names, and an engine access to an address
  that does not exist (log 2, 4) -/
  agenda : List Turn := []
  free : Nat := 0
  nextGid : Nat := 1
  nextTeam : Nat := 1
  nextLaunch : Nat := 1
  nextOp : Nat := 1
  busError : Option Nat := none
  deriving DecidableEq, Repr

/-- The machine right after package reset (R21-R23, R44, R56, R313, R327, R340-R343, R349): nothing placed, nothing
listed in memory, every register at the value the spec gives, or at the value log 14 names. -/
def State.reset : State := {}

end Sys2Proof.Machine
end

