-- ==== Sys2Proof/Machine/Memory.lean ====
section
/-! DEFINITION. Memory: bytes of physical memory and scratchpad, the physical map (13 R165), the page-table walk (R171,
R172), the lookaside buffers (R175, R178) and the rings of a virtual device (27 R341, R344). -/

namespace Sys2Proof.Machine

/-! Physical memory. -/

/-- What an address that memory does not list reads as (log 3), and a byte of scratchpad nothing has written (R168). -/
abbrev unlistedByte : Byte := 0

/-- The canonical form of a memory: addresses strictly rising, no entry equal to what an unlisted address reads as. -/
def Memory.wf (m : List Host.Cell) : Bool := nwf unlistedByte m

/-- The byte at a physical address. -/
def State.byte (s : State) (a : Nat) : Byte := nget unlistedByte s.mem a

/-- `n` bytes from a physical address, lowest first. -/
def State.bytes (s : State) (a : Nat) : Nat → List Byte
  | 0 => []
  | n + 1 => s.byte a :: State.bytes s (a + 1) n

/-- `n` bytes from a physical address as a number. -/
def State.num (s : State) (a n : Nat) : Nat := ofBytes (s.bytes a n)

/-- A memory with bytes written from an address on. -/
def putBytes (m : NMap Byte) (a : Nat) : List Byte → NMap Byte
  | [] => m
  | b :: bs => putBytes (nset unlistedByte m a b) (a + 1) bs

/-- Write bytes to physical memory. -/
def State.putMem (s : State) (a : Nat) (bs : List Byte) : State := { s with mem := putBytes s.mem a bs }

/-- Write the low `n` bytes of a number to physical memory. -/
def State.putNum (s : State) (a n w : Nat) : State := s.putMem a (toBytes n w)

/-! The physical map (R165). -/

/-- First address of the host window. -/
def hostBase : Nat := 0x1000000000000
/-- First address of the peer window. -/
def peerBase : Nat := 0x8000000000000
/-- Bytes of one device's slot in the peer window. -/
def peerSlot : Nat := 0x10000000000
/-- First address of bulk DRAM. -/
def bulkBase : Nat := 0x4000000000

/-- Does an address of this device's own memory exist (vaults and bulk DRAM)? -/
def localOk (a : Nat) : Bool := a < 0x400000000 || (bulkBase ≤ a && a < 0x10000000000)

/-- Is it in the host window? -/
def inHost (a : Nat) : Bool := hostBase ≤ a && a < 0x2000000000000
/-- Is it in the peer window? -/
def inPeer (a : Nat) : Bool := peerBase ≤ a && a < 0xC000000000000
/-- The device whose slot an address of the peer window lies in. -/
def peerDevice (a : Nat) : Nat := (a - peerBase) / peerSlot

/-- R165: a device's own slot in the peer window reaches its own local memory. -/
def State.alias (s : State) (a : Nat) : Nat :=
  if inPeer a && peerDevice a = s.domid then (a - peerBase) % peerSlot else a

/-- Is the address implemented? -/
def State.physOk (s : State) (a : Nat) : Bool :=
  let b := s.alias a
  localOk b || inHost b || (inPeer b && decide (peerDevice b < s.devices))

/-- Does an access to the address leave the device (R323)? -/
def State.isRemote (s : State) (a : Nat) : Bool := let b := s.alias a; inHost b || inPeer b

/-! Accesses by the device's engines: an unimplemented address stops the machine (`Fault.unimplementedAddress`). -/

/-- Note an engine access to an address that does not exist. -/
def State.engineAddr (s : State) (a : Nat) : State :=
  if s.physOk a then s else { s with busError := s.busError.or (some a) }

/-! Groups, teams, launches and devices by name. -/

/-- The group of this name: the one whose turn it is, or another. -/
def State.group (s : State) (gid : Nat) : Option Group :=
  if s.grp.id = gid then some s.grp else s.others.find? fun g => g.id = gid

/-- Every group of the package. -/
def State.groups (s : State) : List Group := s.grp :: s.others

/-- Change the group of this name. -/
def State.modGroup (s : State) (gid : Nat) (f : Group → Group) : State :=
  if s.grp.id = gid then { s with grp := f s.grp }
  else { s with others := s.others.map fun g => if g.id = gid then f g else g }

/-- Change every group for which `p` holds. -/
def State.modGroups (s : State) (p : Group → Bool) (f : Group → Group) : State :=
  let h := fun g => if p g then f g else g
  { s with grp := h s.grp, others := s.others.map h }

/-- Give the turn to the group of this name; the one that had it goes behind. -/
def State.focus (s : State) (gid : Nat) : State :=
  if s.grp.id = gid then s
  else match s.others.find? fun g => g.id = gid with
    | some g =>
      let rest := s.others.filter fun h => h.id ≠ gid
      { s with grp := g, others := if s.grp.id = 0 then rest else s.grp :: rest }
    | none => s

/-- The team of this name. -/
def State.team (s : State) (t : Nat) : Option Team := s.teams.find? fun x => x.id = t
/-- Change the team of this name. -/
def State.modTeam (s : State) (t : Nat) (f : Team → Team) : State :=
  { s with teams := s.teams.map fun x => if x.id = t then f x else x }
/-- The launch of this name. -/
def State.launch (s : State) (l : Nat) : Option Launch := s.launches.find? fun x => x.id = l
/-- Change the launch of this name. -/
def State.modLaunch (s : State) (l : Nat) (f : Launch → Launch) : State :=
  { s with launches := s.launches.map fun x => if x.id = l then f x else x }
/-- The virtual device of this number. -/
def State.vd (s : State) (n : Nat) : VDev := nget {} s.vds n
/-- Change the virtual device of this number. -/
def State.modVd (s : State) (n : Nat) (f : VDev → VDev) : State := { s with vds := nset {} s.vds n (f (s.vd n)) }
/-- A skein by key 64·core + n. -/
def State.skein (s : State) (k : Nat) : Skein := nget {} s.skeins k
/-- Change a skein. -/
def State.modSkein (s : State) (k : Nat) (f : Skein → Skein) : State :=
  { s with skeins := nset {} s.skeins k (f (s.skein k)) }
/-- A free value's number: each use takes the next (log 4). -/
def State.bumpFree (s : State) (n : Nat) : State := { s with free := s.free + n }

/-! Accesses of the device itself for a virtual device, which leave by a request where the place lies at a peer (R346). -/

/-- R346: a request leaves this package for the peer whose slot the address lies in. -/
def State.sendPeer (s : State) (vd pa : Nat) (kind : PeerKind) : State :=
  if inPeer pa then
    { s with hostOut := s.hostOut ++ [.remoteRequest { domid := s.domid, peerGroup := (s.vd vd).peergrp, addr := pa, kind := kind }] }
  else s

/-- The device writes the low `n` bytes of a number at a place. -/
def State.putAt (s : State) (vd pa n w : Nat) : State := (s.sendPeer vd pa (.store (toBytes n w))).putNum pa n w

/-- An engine's write of the low `n` bytes of a number at a physical address. -/
def State.enginePut (s : State) (vd a n w : Nat) : State := (s.engineAddr a).putAt vd (s.alias a) n w

/-- An engine's read of `n` bytes at a physical address: what it asks. -/
def State.engineGet (s : State) (vd a n : Nat) : State := (s.engineAddr a).sendPeer vd (s.alias a) (.load n)

/-! Scratchpad (R168-R170). -/

/-- A team's scratchpad byte. -/
def Team.byte (t : Team) (a : Nat) : Byte := nget unlistedByte t.scratch a
/-- A line by its number (address ÷ 128). -/
def Team.line (t : Team) (n : Nat) : Line := nget {} t.lines n
/-- Change a line. -/
def Team.modLine (t : Team) (n : Nat) (f : Line → Line) : Team := { t with lines := nset {} t.lines n (f (t.line n)) }

/-- The lines that `n` bytes at `a` touch. -/
def linesTouched (a n : Nat) : List Nat :=
  if n = 0 then [] else (List.range ((a + n - 1) / 128 - a / 128 + 1)).map (a / 128 + ·)

/-- Write bytes to a team's scratchpad. -/
def State.putScratch (s : State) (t a : Nat) (bs : List Byte) : State :=
  s.modTeam t fun x => { x with scratch := putBytes x.scratch a bs }

/-- Read one byte where it stands. -/
def State.locByte (s : State) (l : MemLoc) (i : Nat) : Byte :=
  match l with
  | .phys a => s.byte (a + i)
  | .scratch t off => match s.team t with | some x => x.byte (off + i) | none => 0

/-- Read `n` bytes where they stand. -/
def State.locBytes (s : State) (l : MemLoc) (n : Nat) : List Byte := (List.range n).map (s.locByte l)

/-- Write bytes where they stand. -/
def State.putLoc (s : State) (l : MemLoc) (bs : List Byte) : State :=
  match l with
  | .phys a => s.putMem a bs
  | .scratch t off => s.putScratch t off bs

/-! Translation (R171-R178). -/

/-- What an access needs (R172): loads READ, stores and read-modify-writes WRITE, code fetch EXEC. -/
inductive Access where
  | load
  | store
  | fetch
  deriving DecidableEq, Repr

/-- Where a translated access is made from: its partition (32·core + partition), or none for an access of the device or
the host, which uses the die's buffer alone. -/
structure Agent where
  part : Option Nat
  core : Nat
  deriving DecidableEq, Repr

/-- What a translation gives: a physical address, a page-fault cause of R315, or a wait (R177, R178, R302). -/
inductive XRes where
  | ok (pa : Nat)
  | fault (detail : Nat)
  | stall
  deriving DecidableEq, Repr

/-- What a walk gives: no entry, a leaf with the size of its page in address bits, a malformed entry, or a table frame
outside the map. -/
inductive WalkRes where
  | notPresent
  | leaf (entry shift : Nat)
  | badEntry
  | badFrame
  deriving DecidableEq, Repr

/-- FRAME of an entry as an address. -/
def entryFrame (e : Nat) : Nat := field e 16 36 * 0x10000

/-- R172: are the must-be-zero fields zero? -/
def entryReserved (e : Nat) : Bool :=
  field e 52 12 = 0 && field e 8 8 = 0 && field e 6 1 = 0 && field e 1 1 = 0

/-- R171: the five levels: number, lowest address bit, bits. -/
def walkLevels : List (Nat × Nat × Nat) := [(0, 48, 9), (1, 39, 9), (2, 30, 9), (3, 21, 9), (4, 16, 5)]

/-- R171: the walk from the table at `base`. -/
def walkFrom (rd : Nat → Nat) (ok : Nat → Bool) (va : Nat) : List (Nat × Nat × Nat) → Nat → WalkRes
  | [], _ => .badEntry
  | (lvl, sh, bits) :: rest, base =>
    let e := rd (base + 8 * field va sh bits)
    if e % 2 = 0 then .notPresent
    else if field e 5 1 = 1 && 2 ≤ lvl then .leaf e sh
    else if !entryReserved e || field e 5 1 = 1 || lvl = 4 then .badEntry
    else if !ok (entryFrame e) then .badFrame
    else walkFrom rd ok va rest (entryFrame e)

/-- R173: the walk of a device's tables as they stand in memory. A root outside the implemented map counts as a bad frame, as an
entry's FRAME does in R172 (DESIGN CHOICE, log 48). -/
def State.walk (s : State) (vd va : Nat) : WalkRes :=
  let root := (s.vd vd).ptroot
  if !s.physOk root then .badFrame
  else walkFrom (fun a => s.num (s.alias a) 8) s.physOk va walkLevels root

/-- R172: the leaf's frame base is aligned to its page. -/
def leafAligned (e shift : Nat) : Bool := entryFrame e % 2 ^ shift = 0

/-- R172: does the leaf permit the access? -/
def leafPermits (acc : Access) (e : Nat) : Bool :=
  match acc with
  | .load => field e 2 1 = 1
  | .store => field e 3 1 = 1
  | .fetch => field e 4 1 = 1

/-- R172, R177: where a leaf maps an address, whatever it permits: the causes in the table's order, then the wait of a scrub-pending or
not yet restored frame. -/
def State.leafPlace (s : State) (e shift va : Nat) : XRes :=
  let pa := entryFrame e + va % 2 ^ shift
  if !entryReserved e || !leafAligned e shift then .fault 3
  else if !s.physOk pa then .fault 4
  else if field e 7 1 = 1 then .stall
  else if s.vds.any fun d => d.2.unrestored.contains (s.alias pa / 0x10000) then .stall
  else .ok (s.alias pa)

/-- R172: what a leaf gives an access. -/
def State.leafRes (s : State) (acc : Access) (e shift va : Nat) : XRes :=
  if !leafPermits acc e then .fault 2 else s.leafPlace e shift va

/-- R175: the entry of the agent's buffers that maps the address, in the order partition, core, die. The device's own accesses and
the memory window's (R345) find the entries of the device wherever they stand. -/
def State.lookup (s : State) (ag : Agent) (vd va : Nat) : Option TlbEntry :=
  let maps := fun (e : TlbEntry) => e.vd = vd && e.page ≤ va && va < e.page + e.size
  let hit := fun (lvl loc : Nat) => s.tlb.find? fun e => e.level = lvl && e.loc = loc && maps e
  match ag.part with
  | some p => ((hit 0 p).or (hit 1 ag.core)).or (hit 2 (ag.core / 64))
  | none => s.tlb.find? fun e => maps e

/-- R164, R171-R178: translate a virtual address for an access. -/
def State.translate (s : State) (ag : Agent) (vd : Nat) (acc : Access) (va : DWord) : XRes :=
  let a := va.toNat
  if field a 57 7 ≠ 0 then .fault 6
  else match s.lookup ag vd a with
    | some e => if e.draining then .stall else s.leafRes acc e.leaf e.size.log2 a
    | none => match s.walk vd a with
      | .notPresent => .fault 1
      | .badEntry => .fault 3
      | .badFrame => .fault 4
      | .leaf e sh => s.leafRes acc e sh a

/-- R175: entries a buffer holds: 64, 512, 8,192. -/
def tlbCapacity (lvl : Nat) : Nat := if lvl = 0 then 64 else if lvl = 1 then 512 else 8192

/-- Put an entry into one buffer, dropping its oldest where it is full (log 7). -/
def tlbInsert (l : List TlbEntry) (e : TlbEntry) : List TlbEntry :=
  let mine := l.filter fun x => x.level = e.level && x.loc = e.loc
  let l := if mine.length < tlbCapacity e.level then l
    else match mine.getLast? with
      | some old => l.erase old
      | none => l
  e :: l

/-- R175: the translation of an address comes into the agent's buffers: all of them after a walk, and its partition's where its core's
or die's buffer answers (R202, log 7). -/
def State.tlbLoad (s : State) (ag : Agent) (vd : Nat) (va : DWord) : State :=
  let a := va.toNat
  match s.lookup ag vd a with
  | none => match s.walk vd a with
    | .leaf e sh =>
      let mk := fun (lvl loc : Nat) => TlbEntry.mk lvl loc vd (a / 2 ^ sh * 2 ^ sh) (2 ^ sh) e false
      let l := tlbInsert s.tlb (mk 2 (ag.core / 64))
      let l := match ag.part with
        | some p => tlbInsert (tlbInsert l (mk 1 ag.core)) (mk 0 p)
        | none => l
      { s with tlb := l }
    | _ => s
  | some e => match ag.part with
    | some p => if e.level = 0 then s else { s with tlb := tlbInsert s.tlb { e with level := 0, loc := p } }
    | none => s

/-- A translation that succeeded comes into the agent's buffers. One that faulted or waits for a scrub leaves none, so the next access
walks again (R173, R328). -/
def State.tlbFill (s : State) (ag : Agent) (vd : Nat) (acc : Access) (va : DWord) : State :=
  match s.translate ag vd acc va with | .ok _ => s.tlbLoad ag vd va | _ => s

/-- R202: is an address canonical and its page present, well-formed and not draining or scrub-pending, whatever it permits? -/
def State.hasPage (s : State) (ag : Agent) (vd : Nat) (va : DWord) : Bool :=
  let a := va.toNat
  let found : XRes := match s.lookup ag vd a with
    | some e => if e.draining then .stall else s.leafPlace e.leaf e.size.log2 a
    | none => match s.walk vd a with | .leaf e sh => s.leafPlace e sh a | _ => .fault 1
  field a 57 7 = 0 && match found with | .ok _ => true | _ => false

/-- The agent a group's accesses are made by. -/
def Group.agent (g : Group) : Agent := { part := some (32 * g.core + g.part), core := g.core }

/-- The agent of the device's own accesses (launch descriptors, headers, completions): the walker alone. -/
def deviceAgent : Agent := { part := none, core := 0 }

/-- Does `[va, va+len)` overlap the range of a DRAIN (R322)? -/
def DrainRange.overlaps (r : DrainRange) (va len : Nat) : Bool :=
  r.pages = 0 || (r.base.toNat < va + len && va < r.base.toNat + r.pages * 0x10000)

/-! Reads and writes by the device at a virtual address of a device, translated by the walker. A record lies within one
page where it is aligned to its size. -/

/-- Translate for the device: walker only. -/
def State.devTranslate (s : State) (vd : Nat) (acc : Access) (va : DWord) : XRes :=
  if field va.toNat 57 7 ≠ 0 then .fault 6
  else match s.walk vd va.toNat with
    | .notPresent => .fault 1
    | .badEntry => .fault 3
    | .badFrame => .fault 4
    | .leaf e sh => s.leafRes acc e sh va.toNat

/-- Are all bytes of a range mapped for the access? The pages are looked at one by one. -/
def State.devMapped (s : State) (vd : Nat) (acc : Access) (va : DWord) (len : Nat) : Bool :=
  (List.range ((va.toNat + len - 1) / 0x10000 - va.toNat / 0x10000 + 1)).all fun i =>
    match s.devTranslate vd acc (if i = 0 then va else BitVec.ofNat 64 ((va.toNat / 0x10000 + i) * 0x10000)) with
    | .fault _ => false
    | _ => true

/-- Read `n` bytes at a virtual address, 0 where not mapped. -/
def State.devRead (s : State) (vd : Nat) (va : DWord) (n : Nat) : Nat :=
  match s.devTranslate vd .load va with
  | .ok pa => s.num pa n
  | _ => 0

/-- R346: the device asks for the bytes at these virtual addresses (address, bytes) of a device, where they lie at a peer. -/
def State.askFor (s : State) (vd : Nat) (reads : List (Nat × Nat)) : State :=
  reads.foldl (fun s r => match s.devTranslate vd .load (BitVec.ofNat 64 r.1) with
    | .ok pa => s.sendPeer vd pa (.load r.2)
    | _ => s) s

/-! Rings (R341) and interrupts (R344). -/

/-- Signal vector `v` of a device's run, where it lies within the count (R344). The manual does not say what a run does that reaches
beyond the package's 4,096 vectors; the number is signalled as it is (DESIGN CHOICE, log 48). -/
def State.signalVec (s : State) (vd v : Nat) : State :=
  let run := (s.vd vd).vecrun.toNat
  if v < field run 16 12 then { s with hostOut := s.hostOut ++ [.interrupt (field run 0 12 + v)] } else s

/-- Signal the health event on HVEC (R344, R350). -/
def State.signalHealth (s : State) : State :=
  if field s.hvec.toNat 12 1 = 1 then { s with hostOut := s.hostOut ++ [.interrupt (field s.hvec.toNat 0 12)] } else s

/-- Is the ring enabled? -/
def Ring.enabled (r : Ring) : Bool := r.log2n ≠ 0
/-- Entries the ring holds. -/
def Ring.used (r : Ring) : Nat := (r.prod - r.cons).toNat
/-- Has the ring space for an entry? -/
def Ring.space (r : Ring) : Bool := r.enabled && r.used < 2 ^ r.log2n
/-- Address of entry `k` of `size` bytes. -/
def Ring.entry (r : Ring) (size : Nat) (k : Word) : Nat := r.base + size * (k.toNat % 2 ^ r.log2n)

/-- Move held fault records into FAULTQ while it has space (R341), signalling when it passes from empty (R344). -/
def flushFaults (vd : Nat) : List Nat → State → State
  | [], s => s.modVd vd fun d => { d with heldRecords := [] }
  | r :: rs, s =>
    let d := s.vd vd
    if d.faultq.space then
      let s1 := s.enginePut vd (d.faultq.entry 32 d.faultq.prod) 32 r
      let s2 := s1.modVd vd fun d => { d with faultq := { d.faultq with prod := d.faultq.prod + 1 } }
      let s3 := if d.faultq.used = 0 && field d.faultvec.toNat 12 1 = 1 then s2.signalVec vd (field d.faultvec.toNat 0 12) else s2
      flushFaults vd rs s3
    else s.modVd vd fun d => { d with heldRecords := r :: rs }

/-- R320: post a fault record to a device's host fault queue. -/
def State.postRecord (s : State) (vd r : Nat) : State := flushFaults vd ((s.vd vd).heldRecords ++ [r]) s

/-- R320: the fields of a fault record. -/
def faultRecord (faddr trappc cause mask kind vd core part comb slot launch : Nat) : Nat :=
  faddr % 2 ^ 64 * 2 ^ 192 + trappc % 2 ^ 64 * 2 ^ 128 + cause % 2 ^ 32 * 2 ^ 96 + mask % 2 ^ 32 * 2 ^ 64 +
    kind % 256 * 2 ^ 56 + vd % 256 * 2 ^ 48 + core % 256 * 2 ^ 40 + part % 32 * 2 ^ 35 + comb % 2 * 2 ^ 32 +
    slot % 16 * 2 ^ 28 + launch % 2 ^ 28

/-- R333: a log entry. -/
def logEntry (launchid addr sig value n cause kind : Nat) : Nat :=
  launchid % 2 ^ 64 * 2 ^ 192 + addr % 2 ^ 64 * 2 ^ 128 + sig % 2 ^ 64 * 2 ^ 64 + value % 2 ^ 32 * 2 ^ 32 +
    n % 64 * 2 ^ 10 + cause % 4 * 2 ^ 8 + kind % 256

/-- R334: is the log OPEN for this decision: space, and none waiting before it? -/
def State.logOpen (s : State) (vd : Nat) (who : LogWait) : Bool :=
  (s.vd vd).reclog.space && (match (s.vd vd).heldLog.head? with | none => true | some w => w = who)

/-- A decision waits no longer. -/
def State.unhold (s : State) (vd : Nat) (who : LogWait) : State :=
  s.modVd vd fun d => { d with heldLog := d.heldLog.filter (· ≠ who) }
/-- A decision waits behind those that arose before it. -/
def State.holdLog (s : State) (vd : Nat) (who : LogWait) : State :=
  s.modVd vd fun d => { d with heldLog := if d.heldLog.contains who then d.heldLog else d.heldLog ++ [who] }

/-- R333: append an entry to a log that has space. -/
def State.logAppend (s : State) (vd e : Nat) : State :=
  let d := s.vd vd
  (s.enginePut vd (d.reclog.entry 32 d.reclog.prod) 32 e).modVd vd fun d =>
    { d with reclog := { d.reclog with prod := d.reclog.prod + 1 } }

end Sys2Proof.Machine
end

