-- ==== Sys2Proof/Machine/Desc.lean ====
section
/-! DEFINITION. The records in memory: launch descriptors (25 R306), version objects and headers (19 R244, R245),
combinable objects and nodes (21 R263, R264), dependence blocks (21 R277), model contexts and layer entries (23 R281,
R282), and the write ranges of a launch (19 R254, 25 R330). A record is a number; a field is its bit range. -/

namespace Sys2Proof.Machine

/-! Launch descriptor (R306). -/

/-- ENTRY. -/
def dEntry (d : Nat) : DWord := BitVec.ofNat 64 (field d 0 64)
/-- ARGS. -/
def dArgs (d : Nat) : DWord := BitVec.ofNat 64 (field d 64 64)
/-- NTEAMS, with 0 meaning 2³². -/
def dTeams (d : Nat) : Nat := if field d 128 32 = 0 then 2 ^ 32 else field d 128 32
/-- SCRATCH. -/
def dScratch (d : Nat) : Nat := field d 160 32
/-- FLAGS: ANYTIME. -/
def dAnytime (d : Nat) : Bool := field d 192 1 = 1
/-- FLAGS: PLAN. -/
def dPlan (d : Nat) : Bool := field d 193 1 = 1
/-- FLAGS: DET. -/
def dDet (d : Nat) : Bool := field d 194 1 = 1
/-- FLAGS: CORES. -/
def dCores (d : Nat) : Bool := field d 195 1 = 1
/-- FLAGS: CHECK. -/
def dCheck (d : Nat) : Bool := field d 196 1 = 1
/-- FLAGS: LOGMARK. -/
def dLogmark (d : Nat) : Bool := field d 197 1 = 1
/-- NROLES. -/
def dRoles (d : Nat) : Nat := field d 200 8
/-- BARRIERS. -/
def dBarriers (d : Nat) : Nat := field d 208 8
/-- PRIO. -/
def dPrio (d : Nat) : Nat := field d 216 3
/-- NRING. -/
def dNring (d : Nat) : Nat := field d 220 3
/-- NSHARED. -/
def dNshared (d : Nat) : Nat := field d 224 8
/-- LCORES. -/
def dLcores (d : Nat) : Nat := field d 240 16
/-- RNGBLKS. -/
def dRngblks (d : Nat) : Nat := field d 256 16
/-- Role word r. -/
def dRole (d r : Nat) : Nat := field d (288 + 32 * r) 32
/-- TIMELIM, µs. -/
def dTimelim (d : Nat) : Nat := field d 416 64
/-- ENERGYLIM, µJ. -/
def dEnergylim (d : Nat) : Nat := field d 480 64
/-- ESTIMATE, µJ. -/
def dEstimate (d : Nat) : Nat := field d 544 64
/-- VOBJ. -/
def dVobj (d : Nat) : DWord := BitVec.ofNat 64 (field d 608 64)
/-- MCTX. -/
def dMctx (d : Nat) : DWord := BitVec.ofNat 64 (field d 672 64)
/-- RANGES. -/
def dRanges (d : Nat) : Nat := field d 736 64
/-- SHARED. -/
def dShared (d : Nat) : Nat := field d 800 64
/-- UTV. -/
def dUtv (d : Nat) : Word := BitVec.ofNat 32 (field d 864 32)
/-- TRB. -/
def dTrb (d : Nat) : Word := BitVec.ofNat 32 (field d 896 32)
/-- BARBASE. -/
def dBarbase (d : Nat) : Word := BitVec.ofNat 32 (field d 928 32)
/-- SPILLTEAMS. -/
def dSpillteams (d : Nat) : Nat := field d 960 16
/-- SPILLBASE. -/
def dSpillbase (d : Nat) : Nat := field d 992 64

/-! Version object (R244). -/

/-- SLOTBASE. -/
def vSlotbase (o : Nat) : Nat := field o 0 64
/-- HDRADDR. -/
def vHdraddr (o : Nat) : DWord := BitVec.ofNat 64 (field o 64 64)
/-- SLOTSIZE. -/
def vSlotsize (o : Nat) : Nat := field o 128 32
/-- EXPECT. -/
def vExpect (o : Nat) : Nat := field o 160 32
/-- FLOOR. -/
def vFloor (o : Nat) : Nat := field o 192 16
/-- NSLOTS. -/
def vNslots (o : Nat) : Nat := field o 208 2
/-- POLICY: SEALED. -/
def vSealedPolicy (o : Nat) : Bool := field o 210 1 = 1
/-- SCOPE: SYS. -/
def vScopeSys (o : Nat) : Bool := field o 211 1 = 1
/-- COMBINE. -/
def vCombine (o : Nat) : Nat := field o 212 2
/-- The address of slot k. -/
def vSlot (o k : Nat) : Nat := vSlotbase o + k * vSlotsize o

/-! Version header (R245): lowest bit and width of each field. -/

/-- "none" for SEALVER, PASSCUR and VER. -/
def noVersion : Nat := 0xFFFFFFFF
/-- SEALVER. -/
def hSealver (h : Nat) : Nat := field h 0 32
/-- QUALITY. -/
def hQuality (h : Nat) : Nat := field h 32 16
/-- SEALSLOT. -/
def hSealslot (h : Nat) : Nat := field h 48 2
/-- STATE: 0 RUNNING, 1 FINISHED, 2 FINISHED_EARLY, 3 CUT. -/
def hState (h : Nat) : Nat := field h 50 2
/-- CUTCAUSE. -/
def hCutcause (h : Nat) : Nat := field h 52 2
/-- PIN of slot k. -/
def hPin (h k : Nat) : Nat := field h (192 + 16 * k) 16
/-- WORKSLOT. -/
def hWorkslot (h : Nat) : Nat := field h 240 2
/-- PASSCUR. -/
def hPasscur (h : Nat) : Nat := field h 256 32
/-- ARRIVED. -/
def hArrived (h : Nat) : Nat := field h 288 32
/-- QACC. -/
def hQacc (h : Nat) : Nat := field h 320 16
/-- VER of slot k. -/
def hVer (h k : Nat) : Nat := field h (384 + 32 * k) 32

/-- R255: is the sealed version readable? -/
def readable (o h : Nat) : Bool :=
  hSealver h ≠ noVersion && (hState h ≠ 0 || (vSealedPolicy o && vFloor o ≤ hQuality h))

/-! Layer entries (R282). -/

/-- STATE: 0 ABSENT, 1 ARRIVING, 2 RESIDENT, 3 EVICTING, 4 FAULTED. -/
def lState (e : Nat) : Nat := field e 33 3
/-- SEQ. -/
def lSeq (e : Nat) : Nat := field e 0 32
/-- PIN. -/
def lPin (e : Nat) : Nat := field e 48 16
/-- FCAUSE. -/
def lCause (e : Nat) : Nat := field e 36 4
/-- SIZE. -/
def lSize (e : Nat) : Nat := field e 96 32
/-- WIN. -/
def lWin (e : Nat) : Nat := field e 128 64
/-- SRC. -/
def lSrc (e : Nat) : Nat := field e 192 64

/-! Model context (R281). -/

/-- NLAYERS. -/
def cLayers (c : Nat) : Nat := field c 32 16
/-- CURSOR. -/
def cCursor (c : Nat) : Nat := field c 48 16
/-- ACTIVE. -/
def cActive (c : Nat) : Bool := field c 6 1 = 1
/-- DIR: reverse. -/
def cReverse (c : Nat) : Bool := field c 5 1 = 1
/-- PRIO. -/
def cPrio (c : Nat) : Nat := field c 0 3
/-- TABLE. -/
def cTable (c : Nat) : Nat := field c 256 64
/-- VWSIZE. -/
def cVwsize (c : Nat) : Nat := field c 352 32
/-- VWBASE. -/
def cVwbase (c : Nat) : Nat := field c 384 64
/-- DIGESTS. -/
def cDigests (c : Nat) : Nat := field c 448 64

/-! What a group's launch says. -/

/-- The descriptor of the group's launch, 0 for a combiner or node group. -/
def State.descOf (s : State) (g : Group) : Nat :=
  match g.launch with
  | some l => match s.launch l with | some x => x.desc | none => 0
  | none => 0

/-- The group's launch is DET (R329). -/
def State.isDet (s : State) (g : Group) : Bool := dDet (s.descOf g)
/-- The group's launch is ANYTIME (R244). -/
def State.isAnytime (s : State) (g : Group) : Bool := dAnytime (s.descOf g)

/-- The version object of the group's launch, as read. -/
def State.vobjOf (s : State) (g : Group) : Nat := s.devRead g.vd (dVobj (s.descOf g)) 64
/-- The version header of the group's launch. -/
def State.headerOf (s : State) (g : Group) : Nat := s.devRead g.vd (vHdraddr (s.vobjOf g)) 64

/-- Is `[va, va+len)` within one of `n` entries (BASE, LENGTH) from `tbl` on? -/
def State.inTable (s : State) (vd tbl n va len : Nat) : Bool :=
  (List.range n).any fun i =>
    let e := s.devRead vd (BitVec.ofNat 64 (tbl + 16 * i)) 16
    let b := field e 0 64
    let l := field e 64 64
    l ≠ 0 && b ≤ va && va + len ≤ b + l

/-- R254: is it in the working slot of the open pass, and may this group's team write there? -/
def State.inWorkSlot (s : State) (g : Group) (va len : Nat) : Bool :=
  let o := s.vobjOf g
  let h := s.headerOf g
  let sealed := match s.team g.team with | some t => t.sealed | none => none
  let base := vSlot o (hWorkslot h)
  hPasscur h ≠ noVersion && g.passno.toNat = hPasscur h && sealed ≠ some (hPasscur h) &&
    base ≤ va && va + len ≤ base + vSlotsize o

/-- R330: are the bytes within a shared line? -/
def State.inShared (s : State) (g : Group) (va len : Nat) : Bool :=
  let d := s.descOf g
  dShared d ≠ 0 && s.inTable g.vd (dShared d) (dNshared d) va len

/-- R254, R330: are the bytes within what the group's team may write: its ranges, a shared line, the working slot? -/
def State.inRanges (s : State) (g : Group) (va : DWord) (len : Nat) : Bool :=
  let d := s.descOf g
  let a := va.toNat
  let block := dRanges d + 128 * (g.teamid % max 1 (dRngblks d))
  !(dRanges d ≠ 0 || dAnytime d) ||
    (dRanges d ≠ 0 && (s.inTable g.vd block 8 a len || s.inShared g a len)) || (dAnytime d && s.inWorkSlot g a len)

/-- R254, R330, R331: may the group write these bytes? `none`: yes; otherwise the detail of the write-range trap: 0
outside every range, 1 token required and not held. `atomic` is ATOM or RED. -/
def State.writeRange (s : State) (g : Group) (atomic : Bool) (va : DWord) (len : Nat) : Option Nat :=
  if dDet (s.descOf g) && !g.committed && (atomic || s.inShared g va.toNat len) then some 1
  else if s.inRanges g va len then none
  else some 0

end Sys2Proof.Machine
end

