-- ==== Sys2Proof/Machine/Float.lean ====
section
/-! DEFINITION. Floating-point formats and arithmetic (05 R60, R61): values are exact dyadic numbers, every operation
is exact and rounds once, in one function. -/

namespace Sys2Proof.Machine

/-- R60: an IEEE-style format: exponent bits and fraction bits. -/
structure Fmt where
  ebits : Nat
  fbits : Nat
  deriving DecidableEq, Repr

/-- FP32. -/
def fp32 : Fmt := { ebits := 8, fbits := 23 }
/-- FP16. -/
def fp16 : Fmt := { ebits := 5, fbits := 10 }
/-- BF16. -/
def bf16 : Fmt := { ebits := 8, fbits := 7 }

/-- R60: width in bits. -/
def Fmt.width (f : Fmt) : Nat := 1 + f.ebits + f.fbits
/-- The exponent of the least significant bit of a subnormal. -/
def Fmt.qmin (f : Fmt) : Int := 2 - 2 ^ (f.ebits - 1) - f.fbits
/-- The bits of +∞. -/
def Fmt.infBits (f : Fmt) : Nat := (2 ^ f.ebits - 1) * 2 ^ f.fbits
/-- The bits of the sign. -/
def Fmt.signBit (f : Fmt) : Nat := 2 ^ (f.ebits + f.fbits)
/-- R60: the NaN the format produces: quiet, positive, no payload. -/
def Fmt.nanBits (f : Fmt) : Nat := f.infBits + 2 ^ (f.fbits - 1)

/-- A value: NaN, an infinity, or (−1)^neg · m · 2^e. -/
inductive FVal where
  | nan
  | inf (neg : Bool)
  | fin (neg : Bool) (m : Nat) (e : Int)
  deriving DecidableEq, Repr

/-- R61, R62: the rounding modes. `rns` is RN with a result beyond the finite range made the largest finite value. -/
inductive RMode where
  | rn
  | rz
  | ru
  | rd
  | rns
  deriving DecidableEq, Repr

/-- The value of a code of a format. -/
def Fmt.decode (f : Fmt) (w : Nat) : FVal :=
  let frac := w % 2 ^ f.fbits
  let e := w / 2 ^ f.fbits % 2 ^ f.ebits
  let neg := w / f.signBit % 2 = 1
  if e = 2 ^ f.ebits - 1 then (if frac = 0 then .inf neg else .nan)
  else if e = 0 then .fin neg frac f.qmin
  else .fin neg (2 ^ f.fbits + frac) (f.qmin + (e : Int) - 1)

/-- Put a sign on a magnitude's bits. -/
def Fmt.signed (f : Fmt) (neg : Bool) (mag : Nat) : Nat := if neg then mag + f.signBit else mag

/-- R61: what a magnitude beyond the finite range becomes. -/
def Fmt.overflow (f : Fmt) (mode : RMode) (neg : Bool) : Nat :=
  let toInf := match mode with
    | .rn => true
    | .rz => false
    | .ru => !neg
    | .rd => neg
    | .rns => false
  f.signed neg (if toInf then f.infBits else f.infBits - 1)

/-- Does the mode round the magnitude up, given its parity and how the rest compares with half a unit? -/
def roundsAway (mode : RMode) (neg odd : Bool) (rest half : Nat) (sticky : Bool) : Bool :=
  match mode with
  | .rn | .rns => decide (half < rest) || (decide (rest = half) && (sticky || odd) && decide (half ≠ 0))
  | .rz => false
  | .ru => !neg && (decide (rest ≠ 0) || sticky)
  | .rd => neg && (decide (rest ≠ 0) || sticky)

/-- The value m · 2^e, or (with `sticky`) a value strictly between it and (m + 1) · 2^e, rounded to a multiple of 2^q:
the multiple. -/
def roundTo (mode : RMode) (neg : Bool) (m : Nat) (e : Int) (sticky : Bool) (q : Int) : Nat :=
  if q ≤ e then
    let mant := m * 2 ^ (e - q).toNat
    if roundsAway mode neg (mant % 2 = 1) 0 0 sticky then mant + 1 else mant
  else
    let sh := (q - e).toNat
    let mant := m / 2 ^ sh
    if roundsAway mode neg (mant % 2 = 1) (m % 2 ^ sh) (2 ^ (sh - 1)) sticky then mant + 1 else mant

/-- R61: round (−1)^neg · m · 2^e (or a value just beyond it, with `sticky`) to the format. -/
def Fmt.roundSticky (f : Fmt) (mode : RMode) (neg : Bool) (m : Nat) (e : Int) (sticky : Bool) : Nat :=
  let q := max (e + (bitLength m : Int) - (f.fbits + 1 : Nat)) f.qmin
  let mag := (q - f.qmin).toNat * 2 ^ f.fbits + roundTo mode neg m e sticky q
  if f.infBits ≤ mag then f.overflow mode neg else f.signed neg mag

/-- R61: round an exact value to the format. -/
def Fmt.round (f : Fmt) (mode : RMode) : FVal → Nat
  | .nan => f.nanBits
  | .inf neg => if mode = .rns then f.overflow mode neg else f.signed neg f.infBits
  | .fin neg m e => if m = 0 then f.signed neg 0 else f.roundSticky mode neg m e false

/-- The exact sum as a signed multiple of 2^e. -/
def alignedSum (n1 : Bool) (m1 : Nat) (e1 : Int) (n2 : Bool) (m2 : Nat) (e2 : Int) : Int × Int :=
  let e := min e1 e2
  let x := (m1 * 2 ^ (e1 - e).toNat : Nat)
  let y := (m2 * 2 ^ (e2 - e).toNat : Nat)
  ((if n1 then -(x : Int) else x) + (if n2 then -(y : Int) else y), e)

/-- The exact sum of two values, with the IEEE sign of an exact zero (R61). -/
def FVal.add (mode : RMode) : FVal → FVal → FVal
  | .nan, _ => .nan
  | _, .nan => .nan
  | .inf a, .inf b => if a = b then .inf a else .nan
  | .inf a, .fin _ _ _ => .inf a
  | .fin _ _ _, .inf b => .inf b
  | .fin n1 m1 e1, .fin n2 m2 e2 =>
    let (x, e) := alignedSum n1 m1 e1 n2 m2 e2
    if x = 0 then
      .fin (if m1 = 0 && m2 = 0 && n1 = n2 then n1 else decide (mode = .rd)) 0 e
    else .fin (decide (x < 0)) x.natAbs e

/-- The exact product. -/
def FVal.mul : FVal → FVal → FVal
  | .nan, _ => .nan
  | _, .nan => .nan
  | .inf a, .inf b => .inf (a != b)
  | .inf a, .fin b m _ => if m = 0 then .nan else .inf (a != b)
  | .fin a m _, .inf b => if m = 0 then .nan else .inf (a != b)
  | .fin a m1 e1, .fin b m2 e2 => .fin (a != b) (m1 * m2) (e1 + e2)

/-- The value with its sign changed. -/
def FVal.neg : FVal → FVal
  | .nan => .nan
  | .inf a => .inf !a
  | .fin a m e => .fin (!a) m e

/-- a + b rounded once. -/
def Fmt.addBits (f : Fmt) (mode : RMode) (a b : Nat) : Nat := f.round mode ((f.decode a).add mode (f.decode b))
/-- a − b rounded once. -/
def Fmt.subBits (f : Fmt) (mode : RMode) (a b : Nat) : Nat := f.round mode ((f.decode a).add mode (f.decode b).neg)
/-- a · b rounded once. -/
def Fmt.mulBits (f : Fmt) (mode : RMode) (a b : Nat) : Nat := f.round mode ((f.decode a).mul (f.decode b))
/-- a · b + d, or a · b − d, rounded once (R135). -/
def Fmt.fmaBits (f : Fmt) (mode : RMode) (sub : Bool) (a b d : Nat) : Nat :=
  let c := f.decode d
  f.round mode (((f.decode a).mul (f.decode b)).add mode (if sub then c.neg else c))

/-- The exact comparison of two finite or infinite values: −1, 0, 1; none if either is NaN. −0 equals +0. -/
def FVal.cmp : FVal → FVal → Option Int
  | .nan, _ => none
  | _, .nan => none
  | .inf a, .inf b => some (if a = b then 0 else if a then -1 else 1)
  | .inf a, .fin _ _ _ => some (if a then -1 else 1)
  | .fin _ _ _, .inf b => some (if b then 1 else -1)
  | .fin n1 m1 e1, .fin n2 m2 e2 =>
    let x := (alignedSum n1 m1 e1 (!n2) m2 e2).1
    some (if x < 0 then -1 else if x = 0 then 0 else 1)

/-- Is the FP32 word a NaN? -/
def isNan32 (a : Word) : Bool := fp32.decode a.toNat == .nan

/-- FADD, FSUB, FMUL, FFMA on FP32 words. -/
def fadd32 (mode : RMode) (a b : Word) : Word := BitVec.ofNat 32 (fp32.addBits mode a.toNat b.toNat)
/-- a − b on FP32 words. -/
def fsub32 (mode : RMode) (a b : Word) : Word := BitVec.ofNat 32 (fp32.subBits mode a.toNat b.toNat)
/-- a · b on FP32 words. -/
def fmul32 (mode : RMode) (a b : Word) : Word := BitVec.ofNat 32 (fp32.mulBits mode a.toNat b.toNat)
/-- a · b ± d on FP32 words. -/
def ffma32 (mode : RMode) (sub : Bool) (a b d : Word) : Word :=
  BitVec.ofNat 32 (fp32.fmaBits mode sub a.toNat b.toNat d.toNat)

/-- R133: FMIN and FMAX: −0 below +0, a number before a NaN. -/
def fpick32 (greater : Bool) (a b : Word) : Word :=
  if isNan32 a then (if isNan32 b then 0x7FC00000#32 else b)
  else if isNan32 b then a
  else match (fp32.decode a.toNat).cmp (fp32.decode b.toNat) with
    | some c =>
      let less := if c = 0 then a.msb && !b.msb else decide (c < 0)
      let equal := decide (c = 0) && a.msb == b.msb
      if equal then a else if less != greater then a else b
    | none => 0x7FC00000#32

/-- R134: an operation on the two 16-bit elements of each operand. -/
def packed2 (op : Nat → Nat → Nat) (a b : Word) : Word :=
  BitVec.ofNat 32 (op (a.toNat / 65536) (b.toNat / 65536) * 65536 + op (a.toNat % 65536) (b.toNat % 65536))

/-- R135: a ternary operation on the two 16-bit elements of each operand. -/
def packed3 (op : Nat → Nat → Nat → Nat) (a b d : Word) : Word :=
  BitVec.ofNat 32 (op (a.toNat / 65536) (b.toNat / 65536) (d.toNat / 65536) * 65536 +
    op (a.toNat % 65536) (b.toNat % 65536) (d.toNat % 65536))

/-- R135: the rounding mode in a C word's mod field. -/
def modeOf (m : BitVec 2) : RMode := if m = 0 then .rn else if m = 1 then .rz else if m = 2 then .ru else .rd

/-! F8 and G8 (R60): no infinities, one NaN 0x80, one zero. -/

/-- F8. -/
def f8 : Fmt := { ebits := 4, fbits := 3 }
/-- G8. -/
def g8 : Fmt := { ebits := 5, fbits := 2 }

/-- The exponent of the least significant bit of an F8 or G8 subnormal: 2⁻¹⁰ and 2⁻¹⁷. -/
def Fmt.qmin8 (f : Fmt) : Int := 1 - 2 ^ (f.ebits - 1) - f.fbits

/-- The value of an F8 or G8 code. -/
def Fmt.decode8 (f : Fmt) (w : Nat) : FVal :=
  let frac := w % 2 ^ f.fbits
  let e := w / 2 ^ f.fbits % 2 ^ f.ebits
  if w % 256 = 0x80 then .nan
  else if e = 0 then .fin (decide (128 ≤ w % 256)) frac f.qmin8
  else .fin (decide (128 ≤ w % 256)) (2 ^ f.fbits + frac) (f.qmin8 + (e : Int) - 1)

/-- R64: into F8 or G8: nearest even, saturating; every zero is 0x00. -/
def Fmt.round8 (f : Fmt) : FVal → Nat
  | .nan => 0x80
  | .inf neg => if neg then 0xFF else 0x7F
  | .fin neg m e =>
    if m = 0 then 0
    else
      let q := max (e + (bitLength m : Int) - (f.fbits + 1 : Nat)) f.qmin8
      let mag := (q - f.qmin8).toNat * 2 ^ f.fbits + roundTo .rn neg m e false q
      if mag = 0 then 0 else if 0x7F < mag then (if neg then 0xFF else 0x7F) else if neg then mag + 128 else mag

/-! Integers. -/

/-- An exact value rounded to an integer in a mode; none for NaN, the sign for an infinity. -/
def FVal.toInt (mode : RMode) : FVal → Option (Sum Bool Int)
  | .nan => none
  | .inf neg => some (.inl neg)
  | .fin neg m e =>
    let r := roundTo mode neg m e false 0
    some (.inr (if neg then -(r : Int) else r))

/-- R64: float to integer: saturating between `lo` and `hi`, NaN giving 0. -/
def FVal.toIntSat (mode : RMode) (lo hi : Int) (v : FVal) : Int :=
  match v.toInt mode with
  | none => 0
  | some (.inl neg) => if neg then lo else hi
  | some (.inr i) => clampInt i lo hi

/-- An integer as an exact value; 0 is +0. -/
def FVal.ofInt (i : Int) : FVal := .fin (decide (i < 0)) i.natAbs 0

/-! CVT (R62-R64, R141). -/

/-- R62: the rounding code. -/
def cvtMode (m : Nat) : RMode :=
  if m = 0 then .rn else if m = 1 then .rz else if m = 2 then .ru else if m = 3 then .rd else .rns

/-- R62: the mode with which FP32 becomes an integer or an integral value (.RNS rounds as .RN). -/
def nearestFor (m : RMode) : RMode := if m = .rns then .rn else m

/-- An integer result in the low bits: sign- or zero-extended to 32 bits. -/
def intWord (i : Int) : Word := BitVec.ofInt 32 i

/-- R62, R64: an I32 narrowed to `len` bits, saturating under code 100 and wrapping otherwise. -/
def narrowInt (sat isSigned : Bool) (len : Nat) (a : Word) : Word :=
  let lo : Int := if isSigned then -(2 ^ (len - 1)) else 0
  let hi : Int := if isSigned then 2 ^ (len - 1) - 1 else 2 ^ len - 1
  if sat then intWord (clampInt a.toInt lo hi)
  else if isSigned then intWord (signed len a.toNat) else BitVec.ofNat 32 (a.toNat % 2 ^ len)

/-- R64: FP32 rounded to an integral value (code 0x16): NaN and infinities as the format's, a zero keeps its sign. -/
def integral32 (mode : RMode) (a : Word) : Word :=
  match fp32.decode a.toNat with
  | .nan => 0x7FC00000#32
  | .inf neg => BitVec.ofNat 32 (fp32.round mode (.inf neg))
  | .fin neg m e =>
    if 0 ≤ e then a
    else BitVec.ofNat 32 (fp32.round mode (.fin neg (roundTo (nearestFor mode) neg m e false 0) 0))

/-- R63: the conversion of one word. -/
def cvt32 (code m : Nat) (a : Word) : Word :=
  let mode := cvtMode m
  let v := fp32.decode a.toNat
  let sat := decide (m = 4)
  let out := fun (n : Nat) => BitVec.ofNat 32 n
  match code with
  | 0x00 => out (fp16.round mode v)
  | 0x01 => out (bf16.round mode v)
  | 0x02 => out (f8.round8 v)
  | 0x03 => out (g8.round8 v)
  | 0x04 => out (fp32.round .rn (fp16.decode (a.toNat % 65536)))
  | 0x05 => out (fp32.round .rn (bf16.decode (a.toNat % 65536)))
  | 0x06 => out (fp32.round .rn (f8.decode8 (a.toNat % 256)))
  | 0x07 => out (fp32.round .rn (g8.decode8 (a.toNat % 256)))
  | 0x08 => intWord (v.toIntSat (nearestFor mode) (-(2 ^ 31)) (2 ^ 31 - 1))
  | 0x09 => intWord (v.toIntSat (nearestFor mode) 0 (2 ^ 32 - 1))
  | 0x0A => out (fp32.round mode (.ofInt a.toInt))
  | 0x0B => out (fp32.round mode (.ofInt a.toNat))
  | 0x0C => intWord (v.toIntSat (nearestFor mode) (-(2 ^ 15)) (2 ^ 15 - 1))
  | 0x0D => intWord (v.toIntSat (nearestFor mode) 0 (2 ^ 16 - 1))
  | 0x0E => intWord (v.toIntSat (nearestFor mode) (-(2 ^ 7)) (2 ^ 7 - 1))
  | 0x0F => intWord (v.toIntSat (nearestFor mode) 0 (2 ^ 8 - 1))
  | 0x10 => narrowInt sat true 16 a
  | 0x11 => narrowInt sat false 16 a
  | 0x12 => narrowInt sat true 8 a
  | 0x13 => narrowInt sat false 8 a
  | 0x14 => narrowInt sat true 4 a
  | 0x15 => narrowInt sat false 4 a
  | 0x16 => integral32 mode a
  | _ => 0

end Sys2Proof.Machine
end

