-- ==== Sys2Proof/Machine/Parts.lean ====
section
/-! DEFINITION. What the parts of engine operations do (13 R169, R194, R195; 15 R206-R212): the effect of one 16-byte
part on memory, scratchpad lines and fault records. When an operation is over is Engines.lean's. -/

namespace Sys2Proof.Machine

/-! Line states (R169). -/

/-- A copy that writes the line with `n` parts is issued. -/
def Line.issued (l : Line) (n : Nat) : Line :=
  if n = 0 then l
  else match l.state with
    | .poisoned => if l.count = 0 then { state := .empty, count := n } else { l with count := l.count + n }
    | _ => { state := .empty, count := l.count + n }

/-- A part of the line arrives. -/
def Line.arrives (l : Line) : Line :=
  match l.state with
  | .empty => if l.count ≤ 1 then { state := .full, count := 0 } else { l with count := l.count - 1 }
  | _ => { l with count := l.count - 1 }

/-- A part of the line faults. -/
def Line.faults (l : Line) : Line := { state := .poisoned, count := l.count - 1 }

/-- R170: the worst state among the lines that `n` bytes at `a` touch: POISONED, EMPTY, FULL. -/
def Team.worst (t : Team) (a n : Nat) : LineState :=
  let ls := (linesTouched a n).map fun l => (t.line l).state
  if ls.contains .poisoned then .poisoned else if ls.contains .empty then .empty else .full

/-! Fault records (R206). -/

/-- Engine queues: cq0-cq3 are 0-3, the matrix queue 4, gather/scatter 5, post 6. -/
def matrixQ : Nat := 4
/-- The gather/scatter queue. -/
def gatherQ : Nat := 5
/-- The post queue. -/
def postQ : Nat := 6

/-- A queue's operations, oldest first. -/
def Group.queue (g : Group) (q : Nat) : List EngineOp := nget [] g.queues q
/-- Replace a queue's operations. -/
def Group.setQueue (g : Group) (q : Nat) (ops : List EngineOp) : Group := { g with queues := nset [] g.queues q ops }
/-- A queue's fault record. -/
def Group.record (g : Group) (q : Nat) : Option FaultRec := nget none g.records q

/-- R206: note a failure in a queue's record, unless it holds one. -/
def State.noteFault (s : State) (gid q detail : Nat) (addr : DWord) : State :=
  s.modGroup gid fun g => { g with records := nset none g.records q ((g.record q).or (some ⟨detail, addr⟩)) }

/-- R206: a part with a scratchpad destination faults: its line is poisoned, and the team's most recent poisoning record
is this one. -/
def State.poisonPart (s : State) (team off size detail : Nat) (addr : DWord) : State :=
  s.modTeam team fun t =>
    { (linesTouched off size).foldl (fun t l => t.modLine l Line.faults) t with poison := some ⟨detail, addr⟩ }

/-- A part arrives in scratchpad: its bytes are written and its line's count falls. -/
def State.arrivePart (s : State) (team off : Nat) (bs : List Byte) : State :=
  s.modTeam team fun t =>
    (linesTouched off bs.length).foldl (fun t l => t.modLine l Line.arrives) { t with scratch := putBytes t.scratch off bs }

/-- A part is issued towards scratchpad. -/
def State.issuePart (s : State) (team off size : Nat) : State :=
  s.modTeam team fun t => (linesTouched off size).foldl (fun t l => t.modLine l fun x => x.issued 1) t

/-- Translate an operand's global address when the engine performs the part (R175, R206). -/
def State.resolve (s : State) (g : Group) (acc : Access) (a : GAddr) : XRes :=
  match a.pa with
  | some pa => .ok pa
  | none => s.translate g.agent g.vd acc a.va

/-- R349: does the range hold an uncorrectable error? -/
def State.badRange (s : State) (a n : Nat) : Bool := s.badMem.any fun b => b ≤ a + n - 1 && a / 16 * 16 ≤ b

/-- What reading the source of a part gives: bytes, a wait, or a failure. -/
inductive PartRead where
  | bytes (bs : List Byte)
  | wait
  | failed (detail : Nat) (addr : DWord)
  deriving DecidableEq, Repr

/-- The source of a copy part (R170, R206 detail 1). -/
def State.readPart (s : State) (g : Group) (src : CopyEnd) (size : Nat) : PartRead :=
  match src with
  | .scratch off =>
    match s.team g.team with
    | none => .wait
    | some t => match t.worst off size with
      | .full => .bytes ((List.range size).map fun i => t.byte (off + i))
      | .empty => .wait
      | .poisoned => .failed 1 (BitVec.ofNat 64 off)
  | .global a =>
    match s.resolve g .load a with
    | .ok pa => if s.badRange pa size then .failed 1 a.va else .bytes (s.bytes pa size)
    | .stall => .wait
    | .fault _ => .failed 1 a.va

/-- What a global destination gives: its physical address, a wait, or a failure (details 10 and `detail`). Detail 10 is a part outside
its declared ranges (R330); the commit token of R331 is no check of an engine write. Where a part has several failures its record takes
the source's before the destination's, and detail 10 before detail 2 or 8: the manual gives them no order (DESIGN CHOICE, log 54). -/
def State.destPart (s : State) (g : Group) (a : GAddr) (size detail : Nat) : PartRead ⊕ Nat :=
  if !s.inRanges g a.va size then .inl (.failed 10 a.va)
  else match s.resolve g .store a with
    | .ok pa => .inr pa
    | .stall => .inl .wait
    | .fault _ => .inl (.failed detail a.va)

/-- A part of a queue fails: its record, and its line where the destination is scratchpad. -/
def State.failPart (s : State) (g : Group) (q : Nat) (dst : CopyEnd) (size detail : Nat) (addr : DWord) : State :=
  let s := s.noteFault g.id q detail addr
  match dst with
  | .scratch off => s.poisonPart g.team off size detail addr
  | .global _ => s

/-- R346: a request about a place: none leaves for scratchpad. -/
def State.sendLoc (s : State) (vd : Nat) (l : MemLoc) (kind : PeerKind) : State :=
  match l with | .phys a => s.sendPeer vd a kind | .scratch _ _ => s

/-- Bytes are written at a place, by a request where it lies at a peer. -/
def State.storeLoc (s : State) (vd : Nat) (l : MemLoc) (bs : List Byte) : State := (s.sendLoc vd l (.store bs)).putLoc l bs

/-- R346: an engine's read at a global address: the request, where it lies at a peer. -/
def State.sendRead (s : State) (g : Group) (a : GAddr) (n : Nat) : State :=
  match s.resolve g .load a with | .ok pa => s.sendPeer g.vd pa (.load n) | _ => s

/-- R346: the read of a part's source. -/
def State.sendSource (s : State) (g : Group) (e : CopyEnd) (n : Nat) : State :=
  match e with | .scratch _ => s | .global a => s.sendRead g a n

/-- R207: a copy part is performed. `none`: it cannot be performed yet. -/
def State.copyPart (s : State) (g : Group) (q : Nat) (p : CopyPart) : Option State :=
  match s.readPart g p.src p.size with
  | .wait => none
  | .failed d a => some (s.failPart g q p.dst p.size d a)
  | .bytes bs =>
    let sent := s.sendSource g p.src p.size
    match p.dst with
    | .scratch off => some (sent.arrivePart g.team off bs)
    | .global a =>
      match s.destPart g a p.size 2 with
      | .inl .wait => none
      | .inl (.failed d x) => some (sent.failPart g q p.dst p.size d x)
      | .inl (.bytes _) => none
      | .inr pa => some (sent.storeLoc g.vd (.phys pa) bs)

/-! Gathers (R211). -/

/-- Virtual address of the index of position p. -/
def TableBlock.indexVa (b : TableBlock) (p : Nat) : DWord := b.list + BitVec.ofNat 64 (p * b.width)
/-- Virtual address of part j of row x. -/
def TableBlock.rowVa (b : TableBlock) (x j : Nat) : DWord := b.table + BitVec.ofNat 64 (x * b.rowBytes + 16 * j)
/-- Scratchpad address of part j of row p. -/
def TableBlock.off (b : TableBlock) (p j : Nat) : Nat := b.base + p * b.rowBytes + 16 * j
/-- Parts of a row. -/
def TableBlock.perRow (b : TableBlock) : Nat := b.rowBytes / 16

/-- Read the index of a position: its row, or the failure (`read` where it cannot be read, `range` where it is out of
range). `unread`: it cannot be read yet. -/
def State.readIndex (s : State) (g : Group) (b : TableBlock) (p read range : Nat) : IndexState :=
  match s.translate g.agent g.vd .load (b.indexVa p) with
  | .stall => .unread
  | .fault _ => .failed read
  | .ok pa =>
    if s.badRange pa b.width then .failed read
    else
      let x := s.num pa b.width
      if b.rows ≤ x then .failed range else .row x

/-- R346: the read of an index that has not been read. -/
def State.sendIndex (s : State) (g : Group) (b : TableBlock) (index : List IndexState) (p : Nat) : State :=
  match index.getD p .unread with | .unread => s.sendRead g ⟨b.indexVa p, none⟩ b.width | _ => s

/-- The index of a position as an engine has it: read now where it was not. -/
def State.indexAt (s : State) (g : Group) (b : TableBlock) (index : List IndexState) (p read range : Nat) : IndexState :=
  match index.getD p .unread with | .unread => s.readIndex g b p read range | i => i

/-- R211: part j of row p of a gather, its index known. The record of an index out of range names the index's own address: the manual
says only "the faulting virtual address" (DESIGN CHOICE, log 54). A part that faults poisons its own line, as R169 has it, and not every
line of the row, of which R211 speaks too (DESIGN CHOICE, log 58). -/
def State.gatherPart (s : State) (g : Group) (b : TableBlock) (p j : Nat) (ix : IndexState) : Option State :=
  let dst := CopyEnd.scratch (b.off p j)
  match ix with
  | .unread => none
  | .failed d => some (s.failPart g gatherQ dst 16 d (b.indexVa p))
  | .row x =>
    match s.translate g.agent g.vd .load (b.rowVa x j) with
    | .stall => none
    | .fault _ => some (s.failPart g gatherQ dst 16 5 (b.rowVa x j))
    | .ok pa =>
      if s.badRange pa 16 then some (s.failPart g gatherQ dst 16 5 (b.rowVa x j))
      else some ((s.sendPeer g.vd pa (.load 16)).arrivePart g.team (b.off p j) (s.bytes pa 16))

/-! Scatters (R212). -/

/-- R212: one element pair: 0 FP32, 1 I32, 2 two BF16. -/
def scatterCombine (kind : Nat) (t u : Word) : Word :=
  if kind = 0 then fadd32 .rn t u else if kind = 1 then t + u else packed2 (bf16.addBits .rn) t u

/-- The positions whose index is row x, ascending. -/
def positionsOf (index : List IndexState) (x : Nat) : List Nat :=
  (List.range index.length).filter fun p => index.getD p .unread == .row x

/-- The distinct rows of a scatter, in order of first position. -/
def distinctRows : List IndexState → List Nat → List Nat
  | [], acc => acc.reverse
  | .row x :: is, acc => distinctRows is (if acc.contains x then acc else x :: acc)
  | _ :: is, acc => distinctRows is acc

/-- Does any source row stand on an EMPTY line (R212: the command is delayed)? -/
def Team.anyEmpty (t : Team) (b : TableBlock) : Bool :=
  (linesTouched b.base (b.count * b.rowBytes)).any fun l => (t.line l).state == .empty

/-- R212: the indices of a whole scatter resolved: failures of index reads and ranges (6, 7) and of poisoned source rows
(1). `index` holds the reads that have failed at the host or a peer (R323). `none`: not possible yet. -/
def State.resolveScatter (s : State) (g : Group) (b : TableBlock) (index : List IndexState) : Option (List IndexState) :=
  match s.team g.team with
  | none => none
  | some t =>
    if t.anyEmpty b then none
    else
      let ixs := (List.range b.count).map fun p =>
        match s.indexAt g b index p 6 7 with
        | .row x => if t.worst (b.off p 0) b.rowBytes = .poisoned then .failed 1 else .row x
        | i => i
      if ixs.contains .unread then none else some ixs

/-- The first failure among resolved indices, for the queue's record; the address of one out of range is the index's own (DESIGN
CHOICE, log 54). -/
def firstFailure (b : TableBlock) : List IndexState → Nat → Option FaultRec
  | [], _ => none
  | .failed d :: _, p => some ⟨d, if d = 1 then BitVec.ofNat 64 (b.off p 0) else b.indexVa p⟩
  | _ :: is, p => firstFailure b is (p + 1)

/-- The words of part j of scratchpad row p. -/
def Team.rowWords (t : Team) (b : TableBlock) (p j : Nat) : List Word :=
  (List.range 4).map fun k => BitVec.ofNat 32 (ofBytes ((List.range 4).map fun i => t.byte (b.off p j + 4 * k + i)))

/-- R170, R212: note detail 1 for a position whose source line has become POISONED. -/
def State.notePoisoned (s : State) (g : Group) (b : TableBlock) (j : Nat) : List Nat → State
  | p :: _ => s.noteFault g.id gatherQ 1 (BitVec.ofNat 64 (b.off p j))
  | [] => s

/-- R212: part j of table row x is written: the highest position's bytes, or every position's in ascending order combined
into the old part as one read-modify-write. An EMPTY source line delays it, and a POISONED one faults its position (R170). -/
def State.scatterPart (s : State) (g : Group) (b : TableBlock) (add : Bool) (kind : Nat) (index : List IndexState)
    (x j : Nat) : Option State :=
  match s.destPart g ⟨b.rowVa x j, none⟩ 16 8 with
  | .inl .wait => none
  | .inl (.bytes _) => none
  | .inl (.failed d a) => some (s.noteFault g.id gatherQ d a)
  | .inr pa =>
    match s.team g.team with
    | none => none
    | some t =>
      let all := positionsOf index x
      let state := fun (p : Nat) => t.worst (b.off p j) 16
      let ps := all.filter fun p => state p ≠ .poisoned
      let s := s.notePoisoned g b j (all.filter fun p => state p = .poisoned)
      let words := if add then
          ps.foldl (fun acc p => List.zipWith (scatterCombine kind) acc (t.rowWords b p j)) (toWords 4 (s.num pa 16))
        else match ps.getLast? with
          | some p => t.rowWords b p j
          | none => toWords 4 (s.num pa 16)
      if all.any fun p => state p = .empty then none
      else
        let sent := if add then s.sendPeer g.vd pa (.load 16) else s
        some (if ps.isEmpty then s else sent.storeLoc g.vd (.phys pa) (toBytes 16 (ofWords words)))

end Sys2Proof.Machine
end

