-- ==== Sys2Proof/Machine/Ops.lean ====
section
/-! DEFINITION. The named operations over registers and groups: register files (05 R44-R55), the reconvergence stack
(11 R154), taking an exception and returning from one (25 R316-R318), halting a group (25 R320) and cutting a launch
(19 R260, 25 R324). Every meaning is made of these. -/

namespace Sys2Proof.Machine

/-! Register files. -/

/-- Physical vector register n. -/
def Group.vreg (g : Group) (n : Nat) : LaneVec := nget zeroVec g.v n
/-- Write physical vector register n. -/
def Group.setV (g : Group) (n : Nat) (x : LaneVec) : Group := { g with v := nset zeroVec g.v n x }
/-- Uniform register n; field 127 is the zero register (R48). -/
def Group.sreg (g : Group) (n : Nat) : Word := if n = 127 then 0 else nget 0 g.s n
/-- Write uniform register n; field 127 discards (R48). -/
def Group.setS (g : Group) (n : Nat) (w : Word) : Group := if n = 127 then g else { g with s := nset 0 g.s n w }
/-- Predicate n of all lanes; p0 reads true (R49). -/
def Group.preg (g : Group) (n : Nat) : Mask := if n = 0 then allLanes else nget 0 g.p n
/-- Write predicate n of all lanes; a write of p0 is discarded (R49). -/
def Group.setP (g : Group) (n : Nat) (m : Mask) : Group := if n = 0 then g else { g with p := nset 0 g.p n m }
/-- Uniform predicate n; q0 reads true (R49). -/
def Group.qreg (g : Group) (n : Nat) : Bool := n = 0 || g.q.getLsbD n
/-- Write uniform predicate n; a write of q0 is discarded (R49). -/
def Group.setQ (g : Group) (n : Nat) (b : Bool) : Group :=
  if n = 0 || 16 ≤ n then g
  else { g with q := if b then g.q ||| (1#16 <<< n) else g.q &&& ~~~(1#16 <<< n) }
/-- Guard slot k: NEG, SPACE, PRED (R50). -/
def Group.gslot (g : Group) (k : Nat) : BitVec 9 := nget 0 g.gs k
/-- Translation register k (R52). -/
def Group.xreg (g : Group) (k : Nat) : XReg := nget {} g.xs k
/-- Write translation register k. -/
def Group.setX (g : Group) (k : Nat) (x : XReg) : Group := { g with xs := nset {} g.xs k x }

/-- S[n+1] ‖ S[n] (a pair). -/
def Group.spair (g : Group) (n : Nat) : DWord := pair (g.sreg (n + 1)) (g.sreg n)
/-- Write S[n+1] ‖ S[n]. -/
def Group.setPair (g : Group) (n : Nat) (x : DWord) : Group := (g.setS n (lo32 x)).setS (n + 1) (hi32 x)

/-! Sources as an instruction reads them: the register, or, where the scoreboard is off and a count fell short, the mix of
old and new that R78 allows (`Group.hz`, empty otherwise). -/

/-- A physical vector register as a source. -/
def Group.vsrc (g : Group) (n : Nat) : LaneVec :=
  match g.hz.v.find? fun e => e.1 = n with | some e => e.2 | none => g.vreg n
/-- A uniform register as a source of each lane (broadcast). -/
def Group.bsrc (g : Group) (n i : Nat) : Word :=
  match g.hz.s.find? fun e => e.1 = n with | some e => e.2.lane i | none => g.sreg n
/-- A uniform register as a source of a uniform instruction. -/
def Group.ssrc (g : Group) (n : Nat) : Word := g.bsrc n 0
/-- A predicate as a source. -/
def Group.psrc (g : Group) (n : Nat) : Mask :=
  match g.hz.p.find? fun e => e.1 = n with | some e => e.2 | none => g.preg n
/-- A uniform predicate as each lane reads it. -/
def Group.qsrc (g : Group) (n : Nat) : Mask :=
  match g.hz.q.find? fun e => e.1 = n with | some e => e.2 | none => if g.qreg n then allLanes else 0

/-- S[n+1] ‖ S[n] as sources. -/
def Group.spairSrc (g : Group) (n : Nat) : DWord := pair (g.ssrc (n + 1)) (g.ssrc n)

/-! The reconvergence stack. -/

/-- R54: the entries the group may hold. -/
def stackLimit : Nat := 24

/-- Is the visible stack (the entries a handler sees, R317) empty? -/
def Group.stackEmpty (g : Group) : Bool := g.stack.length ≤ g.hidden
/-- Does the stack hold 24 entries, hidden ones counted (R54)? -/
def Group.stackFull (g : Group) : Bool := stackLimit ≤ g.stack.length
/-- Push an entry. -/
def Group.push (g : Group) (e : StackEntry) : Group := { g with stack := e :: g.stack }

/-- R154: resume(): pop until a path with lanes left is found. `none`: the stack is empty and the group ends. -/
def resumeFrom (retired : Mask) (hidden : Nat) : List StackEntry → Option (List StackEntry × DWord × Mask)
  | [] => none
  | e :: rest =>
    if rest.length + 1 ≤ hidden then none
    else if e.pending then some (rest, e.pc, e.mask)
    else if minus e.mask retired ≠ 0 then some (rest, nextSlot e.pc, minus e.mask retired)
    else resumeFrom retired hidden rest

/-! Energy fractions. -/

/-- The sum of two fractions, in lowest terms. -/
def Frac.add (a b : Frac) : Frac :=
  let n := a.num * b.den + b.num * a.den
  let d := a.den * b.den
  let g := max 1 (Nat.gcd n d)
  { num := n / g, den := d / g }

/-- The whole µJ of a fraction; the part left over is rounded up or down, which the manual does not state (log 9). -/
def Frac.whole (a : Frac) (n : Nat) : Nat :=
  let d := max 1 a.den
  if a.num % d ≠ 0 && Config.roundsUp n then a.num / d + 1 else a.num / d

/-! The record log (25 R333-R336). -/

/-- What becomes of a decision the log records. -/
inductive LogVerdict where
  | proceed
  | waits
  | diverges
  deriving DecidableEq, Repr

/-- R336: the next entry of this KIND a replay reads, and how many entries past CONS it lies. -/
def State.replayEntry (s : State) (vd kind : Nat) : Option (Nat × Nat) :=
  let d := s.vd vd
  let at_ := fun (i : Nat) => s.alias (d.reclog.entry 32 (d.reclog.cons + BitVec.ofNat 32 i))
  ((List.range d.reclog.used).find? fun i => nget 0 d.replayNext kind ≤ i && s.num (at_ i) 1 = kind).map
    fun i => (i, s.num (at_ i) 32)

/-- R336: the entry against which a replay checks a decision with this entry: the next of its kind for a batch, and of a launch's cut
or early finish, of which it has at most one, the one with its LAUNCHID (log 24); with how many entries past CONS it lies. -/
def State.replayFor (s : State) (vd entry : Nat) : Option (Nat × Nat) :=
  let kind := entry % 256
  if kind = 3 then s.replayEntry vd 3
  else
    let d := s.vd vd
    let at_ := fun (i : Nat) => s.alias (d.reclog.entry 32 (d.reclog.cons + BitVec.ofNat 32 i))
    ((List.range d.reclog.used).find? fun i => s.num (at_ i) 1 = kind && field (s.num (at_ i) 32) 192 64 = field entry 192 64).map
      fun i => (i, s.num (at_ i) 32)

/-- R334-R336: a decision with this entry arises on a device. `mark` is LOGMARK of the launches concerned (1 for all of
them). The flag tells that the decision proceeds unlogged on a full log. A disabled log records nothing (log 15). -/
def State.logDecision (s : State) (who : LogWait) (vd entry : Nat) (mark : Bool) : State × LogVerdict × Bool :=
  let d := s.vd vd
  if d.replay then
    match s.replayFor vd entry with
    | none => (s, .diverges, false)
    | some (i, e) =>
      if e = entry then
        (s.modVd vd fun d => { d with replayNext := nset 0 d.replayNext (entry % 256) (i + 1) }, .proceed, false)
      else (s, .diverges, false)
  else if !d.reclog.enabled then (s, .proceed, false)
  else if s.logOpen vd who || (mark && d.reclog.space) then ((s.logAppend vd entry).unhold vd who, .proceed, false)
  else if mark then (s.unhold vd who, .proceed, true)
  else (s.holdLog vd who, .waits, false)

/-! Cuts (19 R260, 25 R324). -/

/-- Perform or drop the stores of a cut group, one free choice each (R260 step 3, log 8). -/
def cutStores (vd : Nat) : List LaneStore → State → State
  | [], s => s
  | p :: ps, s =>
    cutStores vd ps ((if Config.cutKeeps s.free then s.storeLoc vd p.loc p.bytes else s).bumpFree 1)

/-- Perform or drop the parts of a begun copy of a cut group, one free choice each. -/
def cutParts (g : Group) (q : Nat) : List CopyPart → State → State
  | [], s => s
  | p :: ps, s =>
    let s1 := if !p.done && Config.cutKeeps s.free then (s.copyPart g q p).getD s else s
    cutParts g q ps (s1.bumpFree 1)

/-- Perform or drop the parts of a begun scatter of a cut group. -/
def cutScatter (g : Group) (b : TableBlock) (add : Bool) (kind : Nat) (index : List IndexState) :
    List (Nat × Nat) → State → State
  | [], s => s
  | (x, j) :: ps, s =>
    let s1 := if Config.cutKeeps s.free then (s.scatterPart g b add kind index x j).getD s else s
    cutScatter g b add kind index ps (s1.bumpFree 1)

/-- The parts of a scatter that have not been written. -/
def scatterLeft (b : TableBlock) (rows : List Nat) (done : List Bool) : List (Nat × Nat) :=
  (List.range (rows.length * b.perRow)).filterMap fun k =>
    if done.getD k false then none else some (rows.getD (k / b.perRow) 0, k % b.perRow)

/-- What is in flight in one queue of a cut group: the operation at its head, if begun. The parts of a MCAST or a GATH, begun or not, are
not performed: R260 leaves open which are (DESIGN CHOICE, log 8). -/
def cutQueue (g : Group) (q : Nat) (s : State) : State :=
  match g.queue q with
  | ⟨_, .copy parts _⟩ :: _ => cutParts g q parts s
  | ⟨_, .scatter b add kind true index rows done⟩ :: _ =>
    cutScatter g b add kind index (scatterLeft b rows done) s
  | _ => s

/-- R260 step 3 for one group. An atomic that waits for the host's or a peer's answer is dropped here: its request has left, and
whether its target performs it is the target's (DESIGN CHOICE, log 8). -/
def cutGroup (s : State) (g : Group) : State :=
  [0, 1, 2, 3, gatherQ].foldl (fun s q => cutQueue g q s) (cutStores g.vd (g.storeQ.flatMap fun e => e.parts) s)

/-- R260 step 2, R39: the group halts for good: its wait and its place are gone, its outstanding work discarded. -/
def Group.kill (g : Group) : Group :=
  { g with live := false, saved := false, wait := none, active := false, exec := 0, queues := [], storeQ := [], pend := [],
           qfences := [], frame := none, prods := [], hz := {}, retry := none, stopped := false, noted := false, postBegun := none, due := [] }

/-- Write a version header at its address (R246: one indivisible update). -/
def State.putHeader (s : State) (vd o h : Nat) : State :=
  match s.devTranslate vd .store (vHdraddr o) with
  | .ok pa => s.putAt vd pa 64 h
  | _ => s

/-- What stands in memory at an address of a device, whether or not its page may be accessed now. -/
def State.devPeek (s : State) (vd : Nat) (va : DWord) (n : Nat) : Nat :=
  match s.walk vd va.toNat with
  | .leaf e sh => s.num (s.alias (entryFrame e + va.toNat % 2 ^ sh)) n
  | _ => 0

/-- R302, R177: does an access of the device to these bytes stall: a page that is scrub-pending or not restored? -/
def State.devStalls (s : State) (vd : Nat) (va : DWord) (n : Nat) : Bool :=
  (List.range ((va.toNat % 0x10000 + n + 0xFFFF) / 0x10000)).any fun i =>
    s.devTranslate vd .load (if i = 0 then va else BitVec.ofNat 64 ((va.toNat / 0x10000 + i) * 0x10000)) == .stall

/-- R246: does a version object's descriptor or header stall? -/
def State.headerStalls (s : State) (vd : Nat) (vobj : DWord) : Bool :=
  s.devStalls vd vobj 64 || s.devStalls vd (vHdraddr (s.devRead vd vobj 64)) 64

/-- R259, R260: STATE leaves RUNNING, with its CUTCAUSE, and PASSCUR becomes none: one update. -/
def State.closeHeader (s : State) (vd : Nat) (vobj : DWord) (state cause : Nat) : State :=
  let o := s.devRead vd vobj 64
  let h := s.devRead vd (vHdraddr o) 64
  if hState h = 0 then s.putHeader vd o (setField (setField (setField h 50 2 state) 52 2 cause) 256 32 noVersion) else s

/-- R259, R260, R246: the header of an anytime launch is closed, at once or, where its page stalls, as soon as it no longer
does. -/
def State.leaveRunning (s : State) (x : Launch) (state cause : Nat) : State :=
  if !dAnytime x.desc then s
  else if s.headerStalls x.vd (dVobj x.desc) then s.modLaunch x.id fun x => { x with headerDue := x.headerDue.or (some (state, cause)) }
  else s.closeHeader x.vd (dVobj x.desc) state cause

/-- R246: the header updates that wait for their page are made where it no longer stalls. -/
def State.flushHeaders (s : State) : State :=
  s.launches.foldl (fun s x => match x.headerDue with
    | some (state, cause) =>
      if s.headerStalls x.vd (dVobj x.desc) then s
      else (s.closeHeader x.vd (dVobj x.desc) state cause).modLaunch x.id fun x => { x with headerDue := none }
    | none => s) s

/-- R260 steps 1 to 4 once the cut is decided: the groups halt, work in flight is performed or not, the header turns to
CUT, and the launch ends with the status. Posts that wait unaccepted are dropped; ENQ records that wait at the home of their node, of which
R260 does not speak, stay (DESIGN CHOICE, log 57). -/
def State.doCut (s : State) (l status : Nat) : State :=
  match s.launch l with
  | none => s
  | some x =>
    let mine := fun (g : Group) => g.launch = some l && !g.saved && (g.live || !g.queues.isEmpty || !g.storeQ.isEmpty)
    let s := (s.groups.filter mine).foldl cutGroup s
    let s := s.modGroups (fun g => g.launch = some l) Group.kill
    let dead := (s.groups.filter fun g => g.launch = some l).map fun g => g.id
    let teams := (s.teams.filter fun t => t.launch = some l).map fun t => t.id
    let s := { s with
      gangOps := (s.gangOps.filter fun o => !teams.contains o.team),
      waiting := (s.waiting.filter fun w => w.node || w.item.launch ≠ some l),
      ctxs := (s.ctxs.map fun (c : Ctx) => { c with demand := (c.demand.filter fun d => !dead.contains d.1) }) }
    let s := s.leaveRunning x 3 (if status = 0x30 then 1 else if status = 0x31 then 2 else 3)
    let s := (s.unhold x.vd (.cut l)).unhold x.vd (.plan l)
    s.modLaunch l fun x => { x with cut := some status, waitCut := none }

/-- R315: TRAPCAUSE: the cause in [31:26] and the detail in [25:0]. -/
def causeWord (cause detail : Nat) : Word := BitVec.ofNat 32 (cause * 2 ^ 26 + detail % 2 ^ 26)

/-- R336: a decision of this KIND of a launch differs from its log entry: a KIND 4 record, and the replay-divergence trap
at the next issue of each of its groups (Issue.lean). A group that a fault had halted issues no more, and is over. -/
def State.replayDiverges (s : State) (l kind : Nat) : State :=
  match s.launch l with
  | none => s
  | some x =>
    if x.diverged.isSome then s
    else ((s.postRecord x.vd (faultRecord 0 0 (causeWord 0x27 kind).toNat 0 4 x.vd 0 0 0 0 x.seqno)).modGroups
        (fun g => g.launch = some l && g.wait == some .halted) fun g => { g with live := false, wait := none }).modLaunch l fun x =>
      { x with diverged := some kind, waitCut := none }

/-- R260, R334, R336: the cut of an anytime launch, decided: its log entry, or its wait for space in the log. -/
def State.loggedCut (s : State) (x : Launch) (status : Nat) : State :=
  let o := s.devPeek x.vd (dVobj x.desc) 64
  let h := s.devPeek x.vd (vHdraddr o) 64
  let cause := if status = 0x30 then 1 else if status = 0x31 then 2 else 3
  let entry := logEntry x.seqno (dVobj x.desc).toNat 0 (hSealver h) 0 cause 1
  match s.logDecision (.cut x.id) x.vd entry (dLogmark x.desc) with
  | (s, .proceed, unlogged) => (s.modLaunch x.id fun x => { x with unrepl := x.unrepl || unlogged }).doCut x.id status
  | (s, .diverges, _) => s.replayDiverges x.id 1
  | (s, .waits, _) => s.modLaunch x.id fun x => { x with waitCut := some status }

/-- R259: has the last group of a launch ended: every team placed, and no group of it left? One that a fault halted has not ended. -/
def State.lastEnded (s : State) (x : Launch) : Bool :=
  dTeams x.desc ≤ x.nextTeam && s.groups.all fun g => g.launch ≠ some x.id || !g.live

/-- R260, R324: cut a launch; no effect once its last group has ended, but for a replay divergence and a function-level reset.
The cut of an anytime launch is a decision the log records (R333); a replay divergence and a function-level reset are no
anytime cuts and make no entry (log 24). -/
def State.cutLaunch (s : State) (l status : Nat) : State :=
  match s.launch l with
  | none => s
  | some x =>
    if x.cut.isSome || (s.lastEnded x && (status = 0x30 || status = 0x31)) then s
    else if !dAnytime x.desc || status = 0x33 || status = 0x34 then s.doCut l status
    else if x.waitCut.isSome then s
    else s.loggedCut x status

/-- R334: the host has freed space: the cuts at the head of the waiting decisions append their entries and are made.
`fuel` bounds the decisions looked at. -/
def State.flushLog (s : State) (vd : Nat) : Nat → State
  | 0 => s
  | n + 1 =>
    if !(s.vd vd).reclog.space then s
    else match (s.vd vd).heldLog.head? with
      | some (.cut l) => match s.launch l with
        | some x => match x.waitCut with
          | some status => State.flushLog (s.loggedCut x status) vd n
          | none => State.flushLog (s.unhold vd (.cut l)) vd n
        | none => State.flushLog (s.unhold vd (.cut l)) vd n
      | _ => s

/-! Combiner failure (21 R272). -/

/-- An error answer to a request, with the unlogged mark of R335: a reply for POST.R, otherwise a count in DROPPED (R272,
R274). -/
def State.answerError (s : State) (desc : Nat) (r : SkRecord) (detail : Nat) (mark : Bool) : State :=
  if r.reply then
    (if r.peer then { s with hostOut := s.hostOut ++ [.peerError (some detail) mark] }
     else { s with replies := s.replies ++ [⟨r.gid, r.lane, .broken detail, mark⟩] })
  else s.putNum desc 64 (setField (s.num desc 64) 256 32 (field (s.num desc 64) 256 32 + 1))

/-- R291: release pins held outside a launch: subtract them from the entries. -/
def State.releasePins (s : State) (vd : Nat) : List (DWord × Nat × Nat) → State
  | [] => s
  | (ctx, l, n) :: ps =>
    let c := s.devRead vd ctx 64
    let ea := BitVec.ofNat 64 (cTable c + 32 * l)
    let s1 := match s.devTranslate vd .load ea with
      | .ok pa => s.putAt vd pa 32 (setField (s.num pa 32) 48 16 (lPin (s.num pa 32) - n))
      | _ => s
    State.releasePins s1 vd ps

/-- R272: the combiner of skein k has failed: every request of the batch and every record held is answered with an
error, the object is BROKEN, BATCHES stays. -/
def State.failCombiner (s : State) (k : Nat) : State :=
  let x := s.skein k
  let s := s.putNum x.desc 64 (setField (s.num x.desc 64) 193 1 1)
  let s := x.batch.foldl (fun s r => s.answerError x.desc r 0 x.unlogged) s
  let s := x.held.foldl (fun s r => s.answerError x.desc r 0 false) s
  let s := match s.group x.gid with
    | some g => (s.releasePins g.vd g.pins).modGroup x.gid fun g => { g.kill with pins := [] }
    | none => s
  (s.unhold x.vd (.batch k)).modSkein k fun _ => {}

/-! Halting and exceptions (25 R316-R320). -/

/-- R320: the group halts: a KIND 1 fault record, and the cut of its launch, with 0x33 after a replay divergence (R336),
or R272 for a combiner. A group of a launch has not ended by this (R30): the cut ends it, at once or when the log has space (R334). -/
def State.halt (s : State) (gid : Nat) : State :=
  match s.group gid with
  | none => s
  | some g =>
    let seqno := match g.launch with
      | some l => match s.launch l with | some x => x.seqno | none => 0
      | none => 0
    let comb := if g.kind = .launch then 0 else 1
    let s := s.postRecord g.vd (faultRecord g.trap.faddr.toNat g.trap.pc.toNat g.trap.cause.toNat g.trap.mask.toNat 1 g.vd
      g.core g.part comb g.slot seqno)
    let s := s.modGroup gid fun g => { g with wait := if g.kind = .launch then some .halted else none, active := false }
    match g.kind with
    | .launch =>
      match g.launch with
      | some l =>
        let diverged := match s.launch l with | some x => x.diverged.isSome | none => false
        s.cutLaunch l (if diverged then 0x33 else 0x32)
      | none => s
    | .combiner k => s.failCombiner k
    | .node => (s.releasePins g.vd g.pins).modGroup gid fun g => { g.kill with pins := [] }

/-- R317: the entry of a handler level at slot 1 of the frame at 32·vector. The handler sees an empty stack; a retry keeps
the first SMASK and SDEPTH (R318); every fixed-latency result is written (R73). -/
def Group.enter (g : Group) (lvl : Level) (cause detail : Nat) (mask : Mask) (faddr : DWord) : Group :=
  let saved : Saved :=
    { spc := g.pc
      smask := match g.retry with | some r => r.smask | none => g.exec
      sdepth := match g.retry with | some r => r.sdepth | none => g.stack.length
      fromLevel := g.level
      long := g.long }
  { g with
    trapUser := if lvl = .user then g.trapUser else g.trap
    user := if lvl = .user then saved else g.user
    super := if lvl = .user then g.super else saved
    level := lvl
    trap := { cause := causeWord cause detail, pc := g.pc, mask := mask, faddr := faddr }
    exec := mask
    hidden := g.stack.length
    pc := 32 * (if lvl = .user then g.utv else g.stv).setWidth 64 + 4
    retry := none, wait := none, remote := none, prods := [], noted := false, tookTrap := some cause }

/-- R316: where a trap goes: the entered group, or the group with its trap registers written and the word that it halts.
Causes below 0x20 are user traps (R315). -/
def Group.takeTrap (g : Group) (cause detail : Nat) (mask : Mask) (faddr : DWord) : Group × Bool :=
  let halted : Group × Bool :=
    ({ g with trap := { cause := causeWord cause detail, pc := g.pc, mask := mask, faddr := faddr }, tookTrap := some cause }, true)
  let super := fun (c d : Nat) =>
    if g.stv = 0 then halted else ({ g.enter .supervisor c d mask faddr with tookTrap := some cause }, false)
  match g.level with
  | .supervisor => halted
  | .user => if cause < 0x20 then super 0x29 cause else super cause detail
  | .program => if cause < 0x20 && g.utv ≠ 0 then (g.enter .user cause detail mask faddr, false) else super cause detail

/-- A trap on the instruction at the group's PC, raised in these lanes. -/
def State.trapGroup (s : State) (gid cause detail : Nat) (mask : Mask) (faddr : DWord) : State :=
  match s.group gid with
  | none => s
  | some g =>
    let (h, halts) := g.takeTrap cause detail mask faddr
    let s := s.modGroup gid fun _ => h
    if halts then s.halt gid else s

/-- A trap of the instruction the group whose turn it is executes: THE exception operation of every meaning. -/
def State.trap (s : State) (cause detail : Nat) (mask : Mask) (faddr : DWord) : State :=
  let (h, halts) := s.grp.takeTrap cause detail mask faddr
  let s := { s with grp := h }
  if halts then s.halt s.grp.id else s

/-- A trap in every lane of EXECMASK, with no address. -/
def State.trapAll (s : State) (cause : Nat) : State := s.trap cause 0 s.grp.exec 0

/-! Trap causes (R315). -/

/-- Illegal instruction. -/
def causeIllegal : Nat := 0x04
/-- Illegal frame. -/
def causeFrame : Nat := 0x05
/-- Illegal operand. -/
def causeOperand : Nat := 0x06
/-- Misaligned access. -/
def causeMisaligned : Nat := 0x07
/-- Misaligned target. -/
def causeTarget : Nat := 0x08
/-- Register range. -/
def causeRange : Nat := 0x09
/-- Window. -/
def causeWindow : Nat := 0x0A
/-- Stall count. -/
def causeStall : Nat := 0x0B
/-- Format divergence. -/
def causeFormat : Nat := 0x0C
/-- Gang mismatch. -/
def causeGang : Nat := 0x0D
/-- Reconvergence overflow. -/
def causeOverflow : Nat := 0x0E
/-- Page fault. -/
def causePage : Nat := 0x20
/-- SYS. -/
def causeSys : Nat := 0x21
/-- Privilege. -/
def causePrivilege : Nat := 0x22
/-- Write range. -/
def causeWrite : Nat := 0x23
/-- Swap fault. -/
def causeSwap : Nat := 0x24
/-- Remote fault. -/
def causeRemote : Nat := 0x25
/-- Broken object. -/
def causeBroken : Nat := 0x26
/-- Replay divergence. -/
def causeReplay : Nat := 0x27
/-- Copy fault. -/
def causeCopy : Nat := 0x28

/-! The end of a group and resume() (R30, R154, R160). -/

/-- R331: the token goes to the next live group in logical order after the holder: TEAMID, then GROUPID, wrapping. Every group of
the grid is in the state from its placement on, the saved ones too (R329, R41). -/
def State.passToken (s : State) (l : Nat) : State :=
  match s.launch l with
  | none => s
  | some x =>
    let alive := (s.groups.filter fun g => g.launch = some l && g.live).map fun g => (g.teamid, g.groupid)
    let before := fun (a b : Nat × Nat) => a.1 < b.1 || (a.1 = b.1 && a.2 < b.2)
    let least := fun (c : List (Nat × Nat)) =>
      c.foldl (fun m k => match m with | none => some k | some m => if before k m then some k else some m) none
    match (least (alive.filter (before x.token))).or (least alive) with
    | some k => s.modLaunch l fun x => { x with token := k, taken := false }
    | none => s

/-- The unit of a group in its quadrant (R225): 2·(4·core + quadrant), plus the half in split mode. Where the owner of half 1 is
extended to the whole quadrant, its tiles are those that number names then; the manual does not say (DESIGN CHOICE, log 48). -/
def State.unitOf (s : State) (g : Group) : Nat :=
  let q := 4 * g.core + g.part / 8
  match nget .free s.quads q with
  | .halves _ _ => 2 * q + g.part % 8 / 4
  | _ => 2 * q

/-- R226: the member byte of a group. -/
def Group.memberByte (g : Group) : Nat := g.part % 8 * 16 + g.slot

/-- R229: the member bytes of a gang register, in gang-list order. -/
def gangMembers (r : DWord) : List Nat :=
  (List.range (field r.toNat 0 3)).map fun i => field r.toNat (8 + 8 * i) 8

/-- R232: do the members' gang registers name this group's slot? -/
def State.awaits (s : State) (w g : Group) : Bool :=
  w.live && w.team = g.team && w.id ≠ g.id && s.unitOf w = s.unitOf g &&
    (match w.wait with | some (.latch _ _ _ _) => true | _ => false) &&
    (match w.gang with | some r => (gangMembers r).contains g.memberByte | none => false)

/-- R259, R260: where a group was the last of its launch and no cut has been made, the header of an anytime launch turns to
FINISHED or FINISHED_EARLY, and a cut that waited for the log has no effect. -/
def State.finishLaunch (s : State) (g : Group) : State :=
  match g.launch.bind s.launch with
  | none => s
  | some x =>
    if x.cut.isSome || x.diverged.isSome || !s.lastEnded x then s
    else (((s.unhold x.vd (.cut x.id)).unhold x.vd (.plan x.id)).modLaunch x.id fun x => { x with waitCut := none }).leaveRunning x
      (if x.finishNow then 2 else 1) 0

/-- R30, R154: the group whose turn it is ends: every lane has retired. Members waiting for it at a latch take the
gang-mismatch trap (R232); a holder's token moves on (R331); a combiner that ends without CDONE fails (R276); a node group's
pins go once its accesses are performed (R291, Issue.lean); the last group of a launch ends it (R259). -/
def State.endGroup (s : State) : State :=
  let g := s.grp
  match g.kind with
  | .combiner _ =>
    ({ s with grp := { g with trap := { g.trap with pc := g.pc } } }).halt g.id
  | .node => { s with grp := { g with live := false, active := false, exec := 0, wait := none } }
  | .launch =>
    let s := { s with grp := { g with live := false, active := false, exec := 0, wait := none, committed := false } }
    let s := match g.launch with
      | some l => match s.launch l with
        | some x => if dDet x.desc && x.token = (g.teamid, g.groupid) then s.passToken l else s
        | none => s
      | none => s
    let waiters := (s.others.filter fun w => s.awaits w g).map fun w => (w.id, w.exec)
    (waiters.foldl (fun s w => s.trapGroup w.1 causeGang 0 w.2 0) s).finishLaunch g

/-- R154: resume(), run when EXECMASK becomes empty. -/
def State.resume (s : State) : State :=
  match resumeFrom s.grp.retired s.grp.hidden s.grp.stack with
  | some (st, pc, m) => { s with grp := { s.grp with stack := st, pc := pc, exec := m } }
  | none => ({ s with grp := { s.grp with stack := s.grp.stack.drop (s.grp.stack.length - s.grp.hidden) } }).endGroup

/-- The instruction at the PC has completed and the next slot in order is `next`: a retry restores SMASK − RETIRED (R318). -/
def State.completeAt (s : State) (next : DWord) : State :=
  match s.grp.retry with
  | none => { s with grp := { s.grp with pc := next } }
  | some r =>
    let m := minus r.smask s.grp.retired
    let s := { s with grp := { s.grp with pc := next, retry := none, exec := m } }
    if m = 0 then s.resume else s

/-- The instruction at the PC has completed; execution goes on at the slot after it. -/
def State.complete (s : State) : State := s.completeAt (nextSlot s.grp.pc)

/-- The L-form at the PC has completed; execution goes on after its literal (R88). -/
def State.completeL (s : State) : State := s.completeAt (nextSlot (s.grp.pc + 4))

/-- Change the group whose turn it is. -/
def State.modGrp (s : State) (f : Group → Group) : State := { s with grp := f s.grp }

/-- The group parks: it waits, and leaves the active set (R35, R38). -/
def State.park (s : State) (w : Wait) : State := s.modGrp fun g => { g with wait := some w, active := false }

/-- The outcome of a meaning. -/
abbrev Out := Host.Outcome State Fault Refusal

end Sys2Proof.Machine
end

