-- ==== Sys2Proof/Machine/Operands.lean ====
section
/-! DEFINITION. Operand forms: vector fields and runs (05 R46, R47), uniform fields (R48), predicates (R49), guards (R51),
and the two shapes every compute instruction has: a function of sources into a register, and into a predicate (11 R125,
R126). -/

namespace Sys2Proof.Machine

/-- A register operand: its field, how many registers its run has (R47), and whether it is written. -/
structure Opnd where
  f : Nat
  k : Nat
  write : Bool
  deriving DecidableEq, Repr

/-- One register that is read. -/
def rd (f : Nat) : Opnd := { f := f, k := 1, write := false }
/-- One register that is written. -/
def wr (f : Nat) : Opnd := { f := f, k := 1, write := true }
/-- A run that is read. -/
def rdRun (f k : Nat) : Opnd := { f := f, k := k, write := false }
/-- A run that is written. -/
def wrRun (f k : Nat) : Opnd := { f := f, k := k, write := true }

/-- R46: the physical register that field f names. -/
def Group.phys (g : Group) (f : Nat) : Nat := 16 * g.winbase.toNat + f

/-- R46, R47: does a vector operand raise the illegal-operand trap? A run that enters the broadcast fields, or a single
destination of 112-126. -/
def Opnd.vecIllegal (o : Opnd) : Bool := (2 ≤ o.k && 111 < o.f + o.k - 1) || (o.write && o.k ≤ 1 && 112 ≤ o.f && o.f ≤ 126)

/-- R46, R47: does a vector operand lie beyond the allocation? -/
def Group.outOfRange (g : Group) (o : Opnd) : Bool := o.f ≤ 111 && g.alloc < g.phys o.f + max 1 o.k

/-- R48: does a uniform operand raise the illegal-operand trap? A run that includes or passes field 127. -/
def Opnd.uniIllegal (o : Opnd) : Bool := 2 ≤ o.k && 126 < o.f + o.k - 1

/-- R95 steps 3 and 4 for the vector operands of an instruction: the cause, if any. -/
def Group.vecFault (g : Group) (os : List Opnd) : Option Nat :=
  if os.any Opnd.vecIllegal then some causeOperand
  else if os.any g.outOfRange then some causeRange
  else none

/-- R46: a vector source in lane i: a register, a broadcast, or zero. -/
def Group.lane (g : Group) (f i : Nat) : Word :=
  if f ≤ 111 then (g.vsrc (g.phys f)).lane i else if f ≤ 126 then g.bsrc (f - 112) i else 0

/-- R48: a uniform source. -/
def Group.uni (g : Group) (f : Nat) : Word := if f = 127 then 0 else g.ssrc f

/-- Write the lanes of `m` of the register that a vector destination names; 127 discards (R46). -/
def Group.putLanes (g : Group) (f : Nat) (m : Mask) (val : Nat → Word) : Group :=
  if f ≤ 111 then
    let old := g.vreg (g.phys f)
    g.setV (g.phys f) (lanes fun i => if hasLane m i then val i else old.lane i)
  else g

/-- Write the lanes of `m` of predicate n (R49). -/
def Group.putPred (g : Group) (n : Nat) (m : Mask) (val : Nat → Bool) : Group :=
  g.setP n ((g.preg n &&& ~~~m) ||| (maskOf val &&& m))

/-! Guards (R50, R51). -/

/-- The lanes in which a guard slot's content holds. -/
def Group.slotHolds (g : Group) (slot : BitVec 9) : Mask :=
  let n := (slot.extractLsb' 0 7).toNat
  let m := if slot.getLsbD 7 then g.qsrc n else g.psrc n
  if slot.getLsbD 8 then ~~~m else m

/-- The lanes in which the guard field k holds: every lane where it is 0 (unguarded). -/
def Group.guardHolds (g : Group) (k : Nat) : Mask :=
  if k = 0 then allLanes
  else match g.hz.g.find? fun e => e.1 = k with
    | some e => (g.slotHolds e.2.1 &&& e.2.2) ||| (g.slotHolds (g.gslot k) &&& ~~~e.2.2)
    | none => g.slotHolds (g.gslot k)

/-- R51: act: the lanes of the execution mask in which the guard holds. -/
def Group.act (g : Group) (k : Nat) : Mask := g.exec &&& g.guardHolds k

/-- R51: the guard of a uniform instruction: none where it names a p-space slot (illegal operand), else whether it
holds. -/
def Group.uniGuard (g : Group) (k : Nat) : Option Bool :=
  if k = 0 then some true
  else
    let slot := match g.hz.g.find? fun e => e.1 = k with
      | some e => if hasLane e.2.2 0 then e.2.1 else g.gslot k
      | none => g.gslot k
    if slot.getLsbD 7 then some (hasLane (g.slotHolds slot) 0) else none

/-! The shapes of compute instructions. -/

/-- A vector instruction: what it does to the group in the lanes with act(i), after the operand checks (R46, R125). -/
def State.vecOp (s : State) (guard : Nat) (os : List Opnd) (fin : State → State) (f : Mask → Group → Group) : Out :=
  let m := s.grp.act guard
  if m = 0 then .next (fin s)
  else match s.grp.vecFault os with
    | some c => .next (s.trap c 0 m 0)
    | none => .next (fin (s.modGrp (f m)))

/-- A uniform instruction: executed once where its guard holds, after the operand checks (R48, R51, R126). -/
def State.uniOp (s : State) (guard : Nat) (os : List Opnd) (fin : State → State) (f : Group → Group) : Out :=
  match s.grp.uniGuard guard with
  | none => .next (s.trapAll causeOperand)
  | some false => .next (fin s)
  | some true =>
    if os.any Opnd.uniIllegal then .next (s.trapAll causeOperand)
    else .next (fin (s.modGrp f))

/-- R125, R126: d ← f(sources), in each lane with act(i) or once. `r k` is the k-th source. -/
def State.regOp (u : Bool) (guard : Nat) (d : Nat) (srcs : List Nat) (fin : State → State)
    (f : (Nat → Word) → Word) (s : State) : Out :=
  if u then s.uniOp guard [] fin fun g => g.setS d (f fun k => g.uni (srcs.getD k 127))
  else s.vecOp guard (wr d :: srcs.map rd) fin fun m g =>
    g.putLanes d m fun i => f fun k => g.lane (srcs.getD k 127) i

/-- One source. -/
def State.alu1 (u : Bool) (g : BitVec 3) (d a : BitVec 7) (f : Word → Word) (s : State) : Out :=
  State.regOp u g.toNat d.toNat [a.toNat] State.complete (fun r => f (r 0)) s

/-- Two sources. -/
def State.alu2 (u : Bool) (g : BitVec 3) (d a b : BitVec 7) (f : Word → Word → Word) (s : State) : Out :=
  State.regOp u g.toNat d.toNat [a.toNat, b.toNat] State.complete (fun r => f (r 0) (r 1)) s

/-- R130: the C words: a, b and the old d. -/
def State.alu3 (u : Bool) (g : BitVec 2) (d a b : BitVec 7) (f : Word → Word → Word → Word) (s : State) : Out :=
  State.regOp u g.toNat d.toNat [a.toNat, b.toNat, d.toNat] State.complete (fun r => f (r 0) (r 1) (r 2)) s

/-- R142: the L-forms: a, the literal, the old d; no guard. -/
def State.aluL (u : Bool) (d : BitVec 7) (srcs : List Nat) (f : (Nat → Word) → Word) (s : State) : Out :=
  State.regOp u 0 d.toNat srcs State.completeL f s

/-- R137: predicate d ← f(sources), in each lane with act(i), or q d once; a d above 15 is illegal in the uniform form. -/
def State.predOp (u : Bool) (guard : Nat) (d : Nat) (srcs : List Nat) (fin : State → State)
    (f : (Nat → Word) → Bool) (s : State) : Out :=
  if u then
    if 15 < d && s.grp.uniGuard guard = some true then .next (s.trapAll causeOperand)
    else s.uniOp guard [] fin fun g => g.setQ d (f fun k => g.uni (srcs.getD k 127))
  else s.vecOp guard (srcs.map rd) fin fun m g =>
    g.putPred d m fun i => f fun k => g.lane (srcs.getD k 127) i

/-- A compare of two registers. -/
def State.cmp2 (u : Bool) (g : BitVec 3) (d a b : BitVec 7) (f : Word → Word → Bool) (s : State) : Out :=
  State.predOp u g.toNat d.toNat [a.toNat, b.toNat] State.complete (fun r => f (r 0) (r 1)) s

/-- A compare of a register with an immediate. -/
def State.cmp1 (u : Bool) (g : BitVec 3) (d a : BitVec 7) (f : Word → Bool) (s : State) : Out :=
  State.predOp u g.toNat d.toNat [a.toNat] State.complete (fun r => f (r 0)) s

/-- R137: an L-form compare. -/
def State.cmpL (u : Bool) (d a : BitVec 7) (f : Word → Bool) (s : State) : Out :=
  State.predOp u 0 d.toNat [a.toNat] State.completeL (fun r => f (r 0)) s

/-- R138: predicate d ← f(a, b) on predicates. -/
def State.logicP (u : Bool) (g : BitVec 3) (d a b : BitVec 7) (f : Bool → Bool → Bool) (s : State) : Out :=
  if u then
    if (15 < d.toNat || 15 < a.toNat || 15 < b.toNat) && s.grp.uniGuard g.toNat = some true then
      .next (s.trapAll causeOperand)
    else s.uniOp g.toNat [] State.complete fun g =>
      g.setQ d.toNat (f (hasLane (g.qsrc a.toNat) 0) (hasLane (g.qsrc b.toNat) 0))
  else s.vecOp g.toNat [] State.complete fun m g =>
    g.putPred d.toNat m fun i => f (hasLane (g.psrc a.toNat) i) (hasLane (g.psrc b.toNat) i)

end Sys2Proof.Machine
end

