-- ==== Sys2Proof/Machine/Access.lean ====
section
/-! DEFINITION. The ordinary path (13 R175-R177, R182-R185, 15 R198-R201): how the lanes of one access form their
addresses, what each lane meets, the store queue and the loads in flight, and the shared shape of every load and store. -/

namespace Sys2Proof.Machine

/-! Performing what is queued (R185). -/

/-- The address `i` bytes on. -/
def MemLoc.plus (l : MemLoc) (i : Nat) : MemLoc :=
  match l with
  | .phys a => .phys (a + i)
  | .scratch t o => .scratch t (o + i)

/-- The byte a queued store part would write at a place. -/
def LaneStore.byteAt (p : LaneStore) (l : MemLoc) : Option Byte :=
  match p.loc, l with
  | .phys a, .phys b => if a ≤ b then p.bytes[b - a]? else none
  | .scratch t a, .scratch u b => if t = u && a ≤ b then p.bytes[b - a]? else none
  | _, _ => none

/-- R182, R185: the byte a group's own older queued stores hold for a place: the youngest wins, and within one
instruction the highest lane (R192). -/
def Group.forwarded (g : Group) (seq : Nat) (l : MemLoc) : Option Byte :=
  (g.storeQ.filter fun e => e.seq < seq).foldl
    (fun r e => e.parts.foldl (fun r p => (p.byteAt l).or r) r) none

/-- The bytes a load reads: memory, overlaid by the group's own older queued stores. -/
def State.loadBytes (s : State) (g : Group) (seq : Nat) (l : MemLoc) (n : Nat) : List Byte :=
  (List.range n).map fun i => (g.forwarded seq (l.plus i)).getD (s.locByte l i)

/-- Write one word of a result: lane `lane` of register `j` of a vector run, or register `j` of a uniform run. -/
def Group.putWord (g : Group) (d : Dest) (lane j : Nat) (w : Word) : Group :=
  match d with
  | .vec first _ =>
    let old := g.vreg (first + j)
    g.setV (first + j) (lanes fun i => if i = lane then w else old.lane i)
  | .uni first _ => g.setS (first + j) w
  | .none => g

/-- Write the words of a result. -/
def Group.putWords (g : Group) (d : Dest) (lane : Nat) : Nat → List Word → Group
  | _, [] => g
  | j, w :: ws => (g.putWord d lane j w).putWords d lane (j + 1) ws

/-- How many registers a destination has. -/
def Dest.count (d : Dest) : Nat := match d with | .vec _ n => n | .uni _ n => n | .none => 0

/-- R198, R200: the words of a loaded value: zero- or sign-extended to 32 bits below 4 bytes. -/
def loadedWords (size : Nat) (signExt : Bool) (bs : List Byte) : List Word :=
  if size < 4 then [if signExt then BitVec.ofInt 32 (signed (8 * size) (ofBytes bs)) else BitVec.ofNat 32 (ofBytes bs)]
  else toWords (size / 4) (ofBytes bs)

/-- A load is performed and its result written. -/
def State.performLoad (s : State) (gid : Nat) (p : PendLoad) : State :=
  match s.group gid with
  | none => s
  | some g =>
    s.modGroup gid fun h => p.lanes.foldl (fun h l =>
      h.putWords p.dest l.lane 0 (loadedWords p.size p.signExt (s.loadBytes g p.seq l.loc p.size))) h

/-- R346: the requests of stores at peers leave the package. -/
def State.sendStores (s : State) (vd : Nat) (ps : List LaneStore) : State :=
  ps.foldl (fun s p => s.sendLoc vd p.loc (.store p.bytes)) s

/-- A store entry is performed: its lanes in ascending order, so that the highest wins (R192). -/
def State.performStore (s : State) (e : StoreEntry) : State :=
  e.parts.foldl (fun s p => s.putLoc p.loc p.bytes) (s.sendStores e.vd e.parts)

/-- Perform a group's outstanding loads and stores in program order: the queue drains (R185, R220). -/
def settle (gid : Nat) : List PendLoad → List StoreEntry → Nat → State → State
  | _, _, 0, s => s
  | [], [], _, s => s
  | p :: ps, [], n + 1, s => settle gid ps [] n (s.performLoad gid p)
  | [], e :: es, n + 1, s => settle gid [] es n ((s.performStore e).modGroup gid fun g => { g with storeQ := es })
  | p :: ps, e :: es, n + 1, s =>
    if p.seq < e.seq then settle gid ps (e :: es) n (s.performLoad gid p)
    else settle gid (p :: ps) es n ((s.performStore e).modGroup gid fun g => { g with storeQ := es })

/-- The group's loads are performed and its store queue has drained. -/
def State.drain (s : State) (gid : Nat) : State :=
  match s.group gid with
  | none => s
  | some g =>
    (settle gid g.pend g.storeQ (g.pend.length + g.storeQ.length) s).modGroup gid fun g => { g with pend := [], storeQ := [] }

/-- The group whose turn it is drains. -/
def State.drainOwn (s : State) : State := s.drain s.grp.id

/-- The group's loads up to now are performed in program order; its stores stay queued. -/
def State.performLoads (s : State) : State :=
  (s.grp.pend.foldl (fun s p => s.performLoad s.grp.id p) s).modGrp fun g => { g with pend := [] }

/-! QFENCE (R195). -/

/-- Has the group an operation older than `seq` outstanding on a path: 0 the ordinary path, 1-4 cq0-cq3, 5 matrix, 6
gather/scatter, 7 post? -/
def Group.olderOn (g : Group) (seq path : Nat) : Bool :=
  if path = 0 then g.pend.any (fun p => p.seq < seq) || g.storeQ.any (fun e => e.seq < seq)
  else (g.queue (path - 1)).any fun o => o.seq < seq

/-- R195, R221: does a QFENCE hold back an issue to a path? Its own ordinary accesses never do: an engine operation that
needs them has them performed (`qfenceDrain`). -/
def Group.held (g : Group) (path : Nat) : Bool :=
  g.qfences.any fun f => f.mask.getLsbD path && (List.range 7).any fun q => f.mask.getLsbD (q + 1) && g.olderOn f.seq (q + 1)

/-- R195: an issue to an engine path that a QFENCE joins to the ordinary path follows the group's earlier ordinary
accesses, which are then performed. -/
def State.qfenceDrain (s : State) (path : Nat) : State :=
  if s.grp.qfences.any (fun f => f.mask.getLsbD path && f.mask.getLsbD 0) then s.drainOwn else s

/-- A read that is performed at once comes after the group's earlier loads (R185 item 3), and after its earlier stores too
where a QFENCE names the ordinary path (R195). -/
def State.loadsFirst (s : State) : State :=
  if s.grp.qfences.any fun f => f.mask.getLsbD 0 then s.drainOwn else s.performLoads

/-! Lanes of an access. -/

/-- What a lane's access meets: a place, a trap condition with its rank in the order of R176, cause, detail and address, a
wait, or a host or peer address. -/
inductive LaneRes where
  | ok (va : DWord) (loc : MemLoc)
  | trap (rank cause detail : Nat) (addr : DWord)
  | waitLine (off : Nat)
  | waitPage (va : DWord)
  | remote (va : DWord) (loc : MemLoc)
  deriving DecidableEq, Repr

/-- What an access is: size in bytes, whether it writes, whether it is ATOM or RED, whether write ranges apply to it. -/
structure AccessKind where
  size : Nat
  write : Bool
  atomic : Bool := false
  ranges : Bool := true
  /-- the atomic op, for the host window's choice (R204) -/
  op : Nat := 0
  deriving DecidableEq, Repr

/-- R175: the global address of a memory operand: under x0 the pointer pair, else an offset from xk. `reg n` reads register
field a + n. -/
def Group.globalAddr (g : Group) (x : Nat) (reg : Nat → Word) (off size : Nat) (write : Bool) : GAddr :=
  if x = 0 then { va := pair (reg 1) (reg 0) + BitVec.ofNat 64 off, pa := none }
  else
    let r := g.xreg x
    let o := (reg 0).toNat + off
    { va := r.vbase + BitVec.ofNat 64 o
      pa := if o + size ≤ r.limit.toNat && (!write || r.wr) then some (r.base.toNat + o) else none }

/-- R176: rank of a page-fault cause. -/
def pageRank (detail : Nat) : Nat := if detail = 6 then 2 else detail + 2

/-- R176: what a lane's global access meets. -/
def State.globalLane (s : State) (g : Group) (k : AccessKind) (a : GAddr) : LaneRes :=
  let w := if k.write then 0x10 else 0
  let acc := if k.write then Access.store else Access.load
  if a.va.toNat % k.size ≠ 0 then .trap 0 causeMisaligned 0 a.va
  else match s.resolve g acc a with
    | .fault d => .trap (pageRank d) causePage (w + d) a.va
    | r =>
      let bad := match r with
        | .ok pa => (!k.write || k.atomic) && s.badRange pa k.size ||
            k.atomic && inHost (s.alias pa) && !(k.op = 0 || k.op = 6 || k.op = 7)
        | _ => false
      if bad then .trap 6 causePage (w + 4) a.va
      else match (if k.write && k.ranges then s.writeRange g k.atomic a.va k.size else none) with
      | some d => .trap 7 causeWrite d a.va
      | none => match r with
        | .ok pa =>
          if s.isRemote pa && (!k.write || k.atomic) then .remote a.va (.phys (s.alias pa)) else .ok a.va (.phys (s.alias pa))
        | _ => .waitPage a.va

/-- R168, R170, R176: what a lane's scratchpad access meets. -/
def State.scratchLane (s : State) (g : Group) (k : AccessKind) (off : Nat) : LaneRes :=
  let w := if k.write then 0x10 else 0
  let a := BitVec.ofNat 64 off
  if off % k.size ≠ 0 then .trap 0 causeMisaligned 0 a
  else match s.team g.team with
    | none => .trap 1 causePage (w + 5) a
    | some t =>
      if t.alloc < off + k.size then .trap 1 causePage (w + 5) a
      else match t.worst off k.size with
        | .full => .ok a (.scratch t.id off)
        | .empty => .waitLine off
        | .poisoned =>
          match t.poison with
          | some r => .trap 8 causeCopy r.detail r.addr
          | none => .trap 8 causeCopy 0 a

/-- The lanes' results: lane number and what it meets. -/
abbrev LaneList := List (Nat × LaneRes)

/-- The trap of an access: its cause by the lowest rank, its lanes every lane that met a condition (a wait is one, R176),
FADDR the lowest lane's whose condition is the reported one. -/
structure AccessTrap where
  cause : Nat
  detail : Nat
  mask : Mask
  addr : DWord
  deriving DecidableEq, Repr

/-- R176: the lowest rank any lane meets, with that lane's cause, detail and address: the first such lane. -/
def firstTrap : LaneList → Option (Nat × Nat × Nat × DWord)
  | [] => none
  | (_, .trap r c d a) :: ls =>
    match firstTrap ls with
    | some (r', c', d', a') => if r ≤ r' then some (r, c, d, a) else some (r', c', d', a')
    | none => some (r, c, d, a)
  | _ :: ls => firstTrap ls

/-- The lanes that meet any condition or wait. -/
def conditionLanes (ls : LaneList) : Mask :=
  maskOf fun i => ls.any fun l => l.1 = i && match l.2 with | .trap .. | .waitLine _ | .waitPage _ => true | _ => false

/-- The lanes at host or peer addresses, with the places they are translated to. -/
def remotePlaces (ls : LaneList) : List LaneLoad :=
  ls.filterMap fun l => match l.2 with | .remote va loc => some { lane := l.1, va := va, loc := loc } | _ => none

/-- The lanes of an access at the host or a peer. -/
def placesMask (ps : List LaneLoad) : Mask := maskOf fun i => ps.any fun p => p.lane = i

/-- R178: the lanes of an access that the host or a peer has answered keep the places they were translated to before it was asked. -/
def Group.placed (g : Group) (ls : LaneList) : LaneList :=
  match g.remote with
  | none => ls
  | some r => ls.map fun l => match r.places.find? fun p => p.lane = l.1 with
    | some p => (l.1, .remote p.va p.loc)
    | none => l

/-- R176: the trap the lanes raise, if any. -/
def accessTrap (ls : LaneList) : Option AccessTrap :=
  (firstTrap ls).map fun t => { cause := t.2.1, detail := t.2.2.1, mask := conditionLanes ls, addr := t.2.2.2 }

/-- The lanes that go through, with their places: those that meet nothing, and the answered remote ones that did not fail. -/
def goodLanes (failed : Mask) (ls : LaneList) : List (Nat × DWord × MemLoc) :=
  ls.filterMap fun l => match l.2 with
    | .ok va loc => some (l.1, va, loc)
    | .remote va loc => if hasLane failed l.1 then none else some (l.1, va, loc)
    | _ => none

/-- The address of the lowest remote lane that failed. -/
def remoteAddr (failed : Mask) (ls : LaneList) : DWord :=
  match ls.findSome? fun l => match l.2 with | .remote va _ => if hasLane failed l.1 then some va else none | _ => none with
  | some va => va
  | none => 0

/-- What an access does next. -/
inductive Verdict where
  /-- these lanes are performed; then a trap is raised, if any. `lost`: remote lanes that failed beside another lane's trap,
  which complete with no stated result (log 35) -/
  | go (good : List (Nat × DWord × MemLoc)) (lost : Mask) (trap : Option AccessTrap)
  | park (w : Wait)
  deriving DecidableEq, Repr

/-- The lines that lanes wait for. -/
def lineWaits (ls : LaneList) : List Nat := ls.filterMap fun l => match l.2 with | .waitLine o => some o | _ => none
/-- The pages that lanes wait for. -/
def pageWaits (ls : LaneList) : List DWord := ls.filterMap fun l => match l.2 with | .waitPage v => some v | _ => none

/-- R176, R323: lanes wait for lines and pages only where none met a trap condition; remote lanes are answered before the
instruction completes; a remote fault is taken, in the lanes that failed, only where no lane met a condition. `now`: CLOCK. -/
def Group.verdict (g : Group) (now : Nat) (atomic : Bool) (size : Nat) (ls : LaneList) : Verdict :=
  let t := accessTrap ls
  let rem := placesMask (remotePlaces ls)
  if t.isNone && !(lineWaits ls).isEmpty then .park (.lines (lineWaits ls))
  else if t.isNone && !(pageWaits ls).isEmpty then .park (.pages (pageWaits ls))
  else if rem = 0 then .go (goodLanes 0 ls) 0 t
  else match g.remote with
    | none => .park (.remote atomic size (remotePlaces ls) now)
    | some r =>
      let bad := rem &&& r.failed
      if t.isSome || bad = 0 then .go (goodLanes bad ls) bad t
      else .go (goodLanes bad ls) 0 (some { cause := causeRemote, detail := r.detail, mask := bad, addr := remoteAddr bad ls })

/-- R346, R323: the requests of lanes at these places leave the package: `kind` is what a lane asks. -/
def State.sendPlaces (s : State) (vd : Nat) (ps : List LaneLoad) (kind : Nat → PeerKind) : State :=
  ps.foldl (fun s p => s.sendLoc vd p.loc (kind p.lane)) s

/-- R346, R323: an access waits. Where it waits for answers, its requests at peers leave: after the group's earlier stores where the
access waits for those (`drains`: an atomic and LDA, R185) or a QFENCE puts them before it (R195). -/
def State.parkAccess (s : State) (drains : Bool) (w : Wait) (kind : Nat → PeerKind) : State :=
  match w with
  | .remote _ _ ps _ =>
    (((if drains then s.drainOwn else s.qfenceDrain 0).modGrp fun g => { g with drained := false }).sendPlaces s.grp.vd ps kind).park w
  | _ => s.park w

/-- Log 35: what the destination of lost lanes holds. -/
def State.loseLanes (s : State) (dest : Dest) (lost : Mask) : State :=
  if lost = 0 then s
  else (s.modGrp fun g => (lanesOf lost).foldl (fun g l =>
    g.putWords dest l 0 ((List.range dest.count).map fun j => Config.lostWord (s.free + 8 * l + j))) g).bumpFree 256

/-- The lookaside buffers after the lanes' translations (R175). -/
def State.fillLanes (s : State) (g : Group) (acc : Access) (vas : List GAddr) : State :=
  vas.foldl (fun s a => if a.pa.isNone then s.tlbFill g.agent g.vd acc a.va else s) s

/-- The trap of an access is taken, in every lane of EXECMASK where the form is uniform (R199); `fin` where there is
none. -/
def State.finishAccess (s : State) (u : Bool) (t : Option AccessTrap) (fin : State → State) : State :=
  match t with
  | none => fin (s.modGrp fun g => { g with remote := none })
  | some t => (s.modGrp fun g => { g with remote := none }).trap t.cause t.detail (if u then s.grp.exec else t.mask) t.addr

/-! Memory operands. -/

/-- Space and address of a memory operand. -/
inductive Space where
  | global (x : Nat)
  | scratch
  deriving DecidableEq, Repr

/-- The register operands of an address field a. -/
def Space.opnd (sp : Space) (a : Nat) : Opnd := match sp with | .global 0 => rdRun a 2 | _ => rd a

/-- R52: does the operand name an invalid translation register? -/
def Group.badX (g : Group) (sp : Space) : Bool := match sp with | .global x => x ≠ 0 && !(g.xreg x).valid | .scratch => false

/-- The global addresses of the lanes of an access. -/
def Group.laneAddrs (g : Group) (u : Bool) (x a off size : Nat) (write : Bool) (ls : List Nat) : List (Nat × GAddr) :=
  ls.map fun i => (i, g.globalAddr x (fun n => if u then g.uni (a + n) else g.lane (a + n) i) off size write)

/-- What the lanes of an access meet. -/
def State.laneResults (s : State) (g : Group) (u : Bool) (sp : Space) (a off : Nat) (k : AccessKind) (ls : List Nat) :
    LaneList :=
  match sp with
  | .global x => (g.laneAddrs u x a off k.size k.write ls).map fun p => (p.1, s.globalLane g k p.2)
  | .scratch => ls.map fun i => (i, s.scratchLane g k ((if u then g.uni a else g.lane a i).toNat + off))

/-- The global addresses an access translates (R175). -/
def Group.accessVas (g : Group) (u : Bool) (sp : Space) (a off : Nat) (k : AccessKind) (ls : List Nat) : List GAddr :=
  match sp with
  | .global x => (g.laneAddrs u x a off k.size k.write ls).map fun p => p.2
  | .scratch => []

/-- The lanes an M word runs in: EXECMASK, or one access in the uniform form (R198, R199). -/
def Group.memLanes (g : Group) (u : Bool) : List Nat := if u then [0] else lanesOf g.exec

/-- R95 steps 3 and 4 of an M word. A vector destination of field 127 is illegal (R198; log 52). -/
def Group.memFault (g : Group) (u : Bool) (sp : Space) (os : List Opnd) : Option Nat :=
  if u then
    if os.any Opnd.uniIllegal || g.badX sp then some causeOperand else none
  else if os.any (fun o => o.vecIllegal || (o.write && o.f = 127)) || g.badX sp then some causeOperand
  else if os.any g.outOfRange then some causeRange
  else none

/-- R198: the register run of an access of `size` bytes. -/
def runLen (size : Nat) : Nat := if size < 8 then 1 else size / 4

/-- The destination run of a load. -/
def Group.destOf (g : Group) (u : Bool) (d n : Nat) : Dest :=
  if u then (if d = 127 then .none else .uni d n)
  else if d ≤ 111 then .vec (g.phys d) n else .none

/-- The bytes a lane stores: the low bytes of its run (R198). -/
def Group.storeBytes (g : Group) (u : Bool) (d size lane : Nat) : List Byte :=
  let w := fun j => if u then g.uni (d + j) else g.lane (d + j) lane
  toBytes size (ofWords ((List.range (runLen size)).map w))

/-- A load whose lanes meet `rs` is issued (R75, R176): the lanes that go through are outstanding until LOAD_RETURN, the
others trap or the group waits. `performNow` is LDA's (R201): the store queue drains first, before a request leaves too, and the load
is performed at once. -/
def State.startLoad (s : State) (u : Bool) (dest : Dest) (size : Nat) (signExt performNow : Bool) (rs : LaneList)
    (vas : List GAddr) : Out :=
  let g := s.grp
  if g.held 0 then .next (s.park (.paths 0))
  else
    match g.verdict s.clock false size (g.placed rs) with
    | .park w => .next (s.parkAccess performNow w fun _ => .load size)
    | .go good lost t =>
      let load : PendLoad :=
        { seq := g.seq, tag := g.gentag, size := size, signExt := signExt, dest := dest
          lanes := good.map fun x => { lane := x.1, va := x.2.1, loc := x.2.2 } }
      let s1 := ((s.qfenceDrain 0).fillLanes g .load vas).modGrp fun g =>
        { g with seq := g.seq + 1, pend := if good.isEmpty then g.pend else g.pend ++ [load] }
      let s2 := if performNow then s1.drainOwn else if g.remote.isSome then s1.performLoads else s1
      .next ((s2.loseLanes dest lost).finishAccess u t State.complete)

/-- A store whose lanes meet `rs` is issued (R185): one entry of the store queue holding all its lanes. `release` is
STREL's (R201): the queue drains first, and the store is performed after everything before it. -/
def State.startStore (s : State) (u release : Bool) (rs : LaneList) (vas : List GAddr) (bytes : Nat → List Byte) : Out :=
  let g := s.grp
  if g.held 0 then .next (s.park (.paths 0))
  else
    match g.verdict s.clock false 0 rs with
    | .park w => .next (s.park w)
    | .go good _ t =>
      let entry : StoreEntry :=
        { seq := g.seq, since := s.clock, vd := g.vd
          parts := good.map fun x => { lane := x.1, va := x.2.1, loc := x.2.2, bytes := bytes x.1 } }
      let s1 := s.fillLanes g .store vas
      let s2 := if release then s1.drainOwn else s1
      let s3 := s2.modGrp fun g =>
        { g with seq := g.seq + 1, storeQ := if good.isEmpty then g.storeQ else g.storeQ ++ [entry] }
      .next (s3.finishAccess u t State.complete)

/-- R198-R200: an M-format load is issued. -/
def State.issueLoad (s : State) (u : Bool) (sp : Space) (d a off size : Nat) (signExt performNow : Bool) : Out :=
  let g := s.grp
  let n := runLen size
  let k : AccessKind := { size := size, write := false }
  match g.memFault u sp [{ f := d, k := n, write := true }, sp.opnd a] with
  | some c => .next (s.trapAll c)
  | none =>
    let ls := g.memLanes u
    s.startLoad u (g.destOf u d n) size signExt performNow (s.laneResults g u sp a off k ls) (g.accessVas u sp a off k ls)

/-- R198-R200: an M-format store is issued. -/
def State.issueStore (s : State) (u : Bool) (sp : Space) (d a off size : Nat) (release : Bool) : Out :=
  let g := s.grp
  let n := runLen size
  let k : AccessKind := { size := size, write := true }
  match g.memFault u sp [{ f := d, k := n, write := false }, sp.opnd a] with
  | some c => .next (s.trapAll c)
  | none =>
    let ls := g.memLanes u
    s.startStore u release (s.laneResults g u sp a off k ls) (g.accessVas u sp a off k ls) (g.storeBytes u d size)

/-! Single reads by an instruction at a uniform virtual address (trampoline entries, descriptors). -/

/-- What such a read gives. -/
inductive Fetched where
  /-- what stands at this physical address -/
  | value (pa w : Nat)
  | fault (cause detail : Nat)
  | park (w : Wait)
  deriving DecidableEq, Repr

/-- Where the answered read number `k` of an instruction was translated to, and how it failed, if it did. -/
def Group.answered (g : Group) (k : Nat) (va : DWord) : Option (Nat × Option Nat) :=
  g.remote.bind fun r => (r.places.find? fun p => p.lane = k && p.va = va).bind fun p => match p.loc with
    | .phys pa => some (pa, if hasLane r.failed k then some r.detail else none)
    | .scratch _ _ => none

/-- Read `n` bytes at a virtual address as a load of the group (number `k` of its instruction), which reads its own queued stores
(R182, R185) and waits for the queues that a QFENCE joins to the ordinary path (R195). At the host or a peer it waits for its
answer. -/
def State.readVa (s : State) (g : Group) (k : Nat) (va : DWord) (n : Nat) : Fetched :=
  let value := fun (pa : Nat) => ofBytes (s.loadBytes g g.seq (.phys pa) n)
  if g.held 0 then .park (.paths 0)
  else match g.answered k va with
  | some (_, some d) => .fault causeRemote d
  | some (pa, none) => .value pa (value pa)
  | none => match s.translate g.agent g.vd .load va with
    | .fault d => .fault causePage d
    | .stall => .park (.pages [va])
    | .ok pa =>
      if s.badRange pa n then .fault causePage 4
      else if s.isRemote pa then
        .park (.remote false n ((g.remote.getD {}).places ++ [{ lane := k, va := va, loc := .phys (s.alias pa) }]) s.clock)
      else .value (s.alias pa) (value (s.alias pa))

/-- R346: the group waits for such a read; a request leaves for a peer, once: those of the reads before it are answered. -/
def State.parkRead (s : State) (w : Wait) : State :=
  match w with
  | .remote _ n ps _ =>
    ((s.sendPlaces s.grp.vd (ps.filter fun p => !(s.grp.remote.getD {}).places.contains p) fun _ => .load n).modGrp fun g =>
      { g with remote := none }).park w
  | _ => s.park w

/-- The physical address of a record of the group's device, where it is mapped. -/
def State.physOf (s : State) (g : Group) (acc : Access) (va : DWord) : Option Nat :=
  match s.translate g.agent g.vd acc va with
  | .ok pa => some pa
  | _ => none

/-! Confirming invalidations (R179, R322). -/

/-- R179: every draining entry of the device that a range names is removed. -/
def State.dropDraining (s : State) (vd : Nat) (rs : List DrainRange) : State :=
  { s with tlb := s.tlb.filter fun e => !(e.vd = vd && e.draining && rs.any fun r => r.overlaps e.page e.size) }

/-- R179: the writes of the device that were translated before are performed at SYS. -/
def State.drainDevice (s : State) (vd : Nat) : State :=
  ((s.groups.filter fun g => g.vd = vd).map fun g => g.id).foldl State.drain s

/-- R179: a CONFIRM of ranges of a device waits: an atomic of the device that a DRAIN found translated is unanswered at the host or a
peer, or is answered and has not issued again (log 39). -/
def State.confirmWaits (s : State) (vd : Nat) (rs : List DrainRange) : Bool :=
  !rs.isEmpty && s.groups.any fun g => g.id ≠ 0 && g.vd = vd && !g.saved && g.drained && match g.wait with
    | some (.remote true _ _ _) => true
    | some _ => false
    | none => g.remote.isSome

/-- R322: CONFIRM for the ranges the group has drained. -/
def State.confirmOwn (s : State) : State :=
  if s.grp.drains.isEmpty then s
  else ((s.drainDevice s.grp.vd).dropDraining s.grp.vd s.grp.drains).modGrp fun g => { g with drains := [] }

end Sys2Proof.Machine
end

