-- ==== Sys2Proof/Machine/MemInstr.lean ====
section
/-! DEFINITION. Loads, stores, spills, prefetch, atomics and XLAT (11 R152, 13 R174, 15 R198-R205). -/

namespace Sys2Proof.Machine

/-- R198: bytes of a size code. -/
def sizeBytes {n : Nat} (s : BitVec n) : Nat := 2 ^ s.toNat

/-- R198: a size code the opcode does not allow is an illegal instruction. -/
def State.sized (s : State) (legal : Bool) (f : State → Out) : Out :=
  if legal then f s else .next (s.trapAll causeIllegal)

/-- LD (R200). -/
def execLd (u : Bool) (x : BitVec 3) (d a : BitVec 7) (z : BitVec 3) (c : BitVec 5) (s : State) : Out :=
  s.sized (z.toNat ≤ 4) fun s =>
    s.issueLoad u (.global x.toNat) d.toNat a.toNat (c.toNat * sizeBytes z) (sizeBytes z) false false

/-- LDS (R200): sign-extended bytes or halfwords. -/
def execLds (u : Bool) (x : BitVec 3) (d a : BitVec 7) (z : BitVec 1) (c : BitVec 5) (s : State) : Out :=
  s.issueLoad u (.global x.toNat) d.toNat a.toNat (c.toNat * sizeBytes z) (sizeBytes z) true false

/-- ST (R200). -/
def execSt (u : Bool) (x : BitVec 3) (d a : BitVec 7) (z : BitVec 3) (c : BitVec 5) (s : State) : Out :=
  s.sized (z.toNat ≤ 4) fun s =>
    s.issueStore u (.global x.toNat) d.toNat a.toNat (c.toNat * sizeBytes z) (sizeBytes z) false

/-- SLD (R200). -/
def execSld (u : Bool) (d a : BitVec 7) (z : BitVec 3) (c : BitVec 5) (s : State) : Out :=
  s.sized (z.toNat ≤ 4) fun s =>
    s.issueLoad u .scratch d.toNat a.toNat (c.toNat * sizeBytes z) (sizeBytes z) false false

/-- SLDS (R200). -/
def execSlds (u : Bool) (d a : BitVec 7) (z : BitVec 1) (c : BitVec 5) (s : State) : Out :=
  s.issueLoad u .scratch d.toNat a.toNat (c.toNat * sizeBytes z) (sizeBytes z) true false

/-- SST (R200). -/
def execSst (u : Bool) (d a : BitVec 7) (z : BitVec 3) (c : BitVec 5) (s : State) : Out :=
  s.sized (z.toNat ≤ 4) fun s =>
    s.issueStore u .scratch d.toNat a.toNat (c.toNat * sizeBytes z) (sizeBytes z) false

/-- LDA (R201): the store queue drains, the load is performed, and what follows comes after it. Every scope is served by
the same step: a performed access is seen by every agent at once (log 5). -/
def execLda (u : Bool) (x : BitVec 3) (d a : BitVec 7) (z : BitVec 3) (_e : BitVec 2) (s : State) : Out :=
  s.sized (z.toNat ≤ 4) fun s => s.issueLoad u (.global x.toNat) d.toNat a.toNat 0 (sizeBytes z) false true

/-- STREL (R201): the store queue drains first, and every earlier access is performed. -/
def execStrel (u : Bool) (x : BitVec 3) (d a : BitVec 7) (z : BitVec 3) (_e : BitVec 2) (s : State) : Out :=
  s.sized (z.toNat ≤ 4) fun s => s.issueStore u (.global x.toNat) d.toNat a.toNat 0 (sizeBytes z) true

/-- R202: the translations of these addresses come into the lookaside buffers, whatever accesses their pages permit. -/
def State.prefetch (s : State) (g : Group) (vas : List GAddr) : State :=
  vas.foldl (fun s v => if v.pa.isNone && s.hasPage g.agent g.vd v.va then s.tlbLoad g.agent g.vd v.va else s) s

/-- PREF (R202): the translations of the lanes' addresses come into the lookaside buffers; no lane traps on its address,
and a lane inside its translation register does nothing. -/
def execPref (x : BitVec 3) (a : BitVec 7) (z : BitVec 3) (c : BitVec 5) (s : State) : Out :=
  s.sized (z.toNat ≤ 4) fun s =>
    let g := s.grp
    let sp := Space.global x.toNat
    match g.memFault false sp [sp.opnd a.toNat] with
    | some e => .next (s.trapAll e)
    | none =>
      let n := sizeBytes z
      let vas := (g.laneAddrs false x.toNat a.toNat (c.toNat * n) n false (lanesOf g.exec)).map fun p => p.2
      .next (s.prefetch g (vas.filter fun v => v.va.toNat % n = 0)).complete

/-! Spills (11 R152). -/

/-- R58: the address of lane i's word of spill slot k. -/
def Group.spillVa (g : Group) (k i : Nat) : DWord := BitVec.ofNat 64 (32768 * g.spb.toNat + 128 * k + 4 * i)

/-- R152: what the lanes of a spill access meet: ordinary translation, never a write range. -/
def State.spillLanes (s : State) (m : Mask) (k : Nat) (write : Bool) : LaneList :=
  (lanesOf m).map fun i =>
    (i, s.globalLane s.grp { size := 4, write := write, ranges := false } { va := s.grp.spillVa k i, pa := none })

/-- The addresses a spill access translates. -/
def Group.spillVas (g : Group) (m : Mask) (k : Nat) : List GAddr := (lanesOf m).map fun i => { va := g.spillVa k i, pa := none }

/-- LDSPILL (R152). -/
def execLdspill (g : BitVec 3) (d : BitVec 7) (k : BitVec 8) (s : State) : Out :=
  let m := s.grp.act g.toNat
  if m = 0 then .next s.complete
  else match s.grp.vecFault [wr d.toNat] with
    | some c => .next (s.trap c 0 m 0)
    | none => s.startLoad false (s.grp.destOf false d.toNat 1) 4 false false (s.spillLanes m k.toNat false)
        (s.grp.spillVas m k.toNat)

/-- STSPILL (R152): the data in d is a source. -/
def execStspill (g : BitVec 3) (d : BitVec 7) (k : BitVec 8) (s : State) : Out :=
  let m := s.grp.act g.toNat
  if m = 0 then .next s.complete
  else match s.grp.vecFault [rd d.toNat] with
    | some c => .next (s.trap c 0 m 0)
    | none => s.startStore false false (s.spillLanes m k.toNat true) (s.grp.spillVas m k.toNat)
        (s.grp.storeBytes false d.toNat 4)

/-! Atomics (R203, R204). -/

/-- R203: what an atomic step writes: `b` is the operand or CAS's cmp, `new` CAS's new value; w bits. -/
def atomicValue (w op old b new : Nat) : Nat :=
  match op with
  | 0 => (old + b) % 2 ^ w
  | 1 => if signed w old ≤ signed w b then old else b
  | 2 => if signed w old ≤ signed w b then b else old
  | 3 => old &&& b
  | 4 => old ||| b
  | 5 => old ^^^ b
  | 6 => b
  | 7 => if old = b then new else old
  | 8 => if b ≤ old then 0 else old + 1
  | _ => old

/-- One lane's read-modify-write (R193): the old value and the state after. -/
def State.atomicStep (s : State) (l : MemLoc) (size op b new : Nat) : Nat × State :=
  let old := ofBytes (s.locBytes l size)
  (old, s.putLoc l (toBytes size (atomicValue (8 * size) op old b new)))

/-- R203: the run of d that an atomic reads: the operand, or CAS's cmp and new. -/
def atomicRun (size op : Nat) : Nat := if op = 7 then size / 2 else size / 4

/-- The value of `n` registers from field f on, in a lane. -/
def Group.runNat (g : Group) (f n lane : Nat) : Nat := ofWords ((List.range n).map fun j => g.lane (f + j) lane)

/-- R193, R203: the lanes' steps in ascending order; ATOM and SATOM write the old values to `dest`. -/
def State.atomicLanes (s : State) (g : Group) (d size op : Nat) (dest : Dest) : List (Nat × DWord × MemLoc) → State
  | [] => s
  | (lane, _, loc) :: ls =>
    let n := size / 4
    let (old, s1) := s.atomicStep loc size op (g.runNat d n lane) (g.runNat (d + n) n lane)
    State.atomicLanes (s1.modGrp fun h => h.putWords dest lane 0 (toWords n old)) g d size op dest ls

/-- An atomic (R203, R204). `returns`: ATOM and SATOM; a RED's failure at a host or peer sets the sticky error (R323, R224), beside
another lane's trap too. -/
def State.issueAtomic (s : State) (returns : Bool) (sp : Space) (d a size op : Nat) : Out :=
  let g := s.grp
  let k : AccessKind := { size := size, write := true, atomic := true, op := op }
  if 8 < op || (!returns && op = 7) then .next (s.trapAll causeIllegal)
  else match g.memFault false sp [{ f := d, k := atomicRun size op, write := returns }, sp.opnd a] with
  | some c => .next (s.trapAll c)
  | none =>
    if g.held 0 then .next (s.park (.paths 0))
    else
      let ls := lanesOf g.exec
      let rs := g.placed (s.laneResults g false sp a 0 k ls)
      match g.verdict s.clock true size rs with
      | .park w => .next (s.parkAccess true w fun i =>
          .atomic size op (BitVec.ofNat 64 (g.runNat d (size / 4) i))
            (if op = 7 then BitVec.ofNat 64 (g.runNat (d + size / 4) (size / 4) i) else 0))
      | .go good lost t =>
        let s1 := (s.fillLanes g .store (g.accessVas false sp a 0 k ls)).drainOwn
        let dest := if returns then g.destOf false d (size / 4) else .none
        let s2 := (s1.atomicLanes g d size op dest good).loseLanes dest lost
        let lostErr := if returns || lost = 0 then none else g.remote.map fun r => FaultRec.mk r.detail (remoteAddr lost rs)
        let s3 := s2.modGrp fun h => { h with sticky := h.sticky.or lostErr }
        match t with
        | some x =>
          if !returns && x.cause = causeRemote then
            .next (s3.modGrp fun h => { h with remote := none, sticky := h.sticky.or (some ⟨x.detail, x.addr⟩) }).complete
          else .next (s3.finishAccess false t State.complete)
        | none => .next (s3.finishAccess false none State.complete)

/-- ATOM (R203). -/
def execAtom (x : BitVec 3) (d a : BitVec 7) (z : BitVec 1) (o : BitVec 4) (_e : BitVec 1) (s : State) : Out :=
  s.issueAtomic true (.global x.toNat) d.toNat a.toNat (4 * sizeBytes z) o.toNat

/-- RED (R203). -/
def execRed (x : BitVec 3) (d a : BitVec 7) (z : BitVec 1) (o : BitVec 4) (_e : BitVec 1) (s : State) : Out :=
  s.issueAtomic false (.global x.toNat) d.toNat a.toNat (4 * sizeBytes z) o.toNat

/-- SATOM (R203). -/
def execSatom (d a : BitVec 7) (z : BitVec 1) (o : BitVec 4) (s : State) : Out :=
  s.issueAtomic true .scratch d.toNat a.toNat (4 * sizeBytes z) o.toNat

/-! XLAT (13 R174, 15 R205). -/

/-- R174: what a page of a run must be: readable, WRITE as given, sound, not scrub-pending and restored, at this physical
address. The end of the page where it is. -/
def State.runPage (s : State) (vd va pa : Nat) (write : Bool) : Option Nat :=
  if 2 ^ 57 ≤ va then none
  else match s.walk vd va with
    | .leaf e sh =>
      if s.leafRes .load e sh va = .ok pa && (field e 3 1 = 1) = write then some (va / 2 ^ sh * 2 ^ sh + 2 ^ sh) else none
    | _ => none

/-- R174: bytes of the run from `va`, counted page by page. -/
def State.runLength (s : State) (vd : Nat) (write : Bool) (base pa0 : Nat) : Nat → Nat → Nat
  | 0, va => va - base
  | n + 1, va =>
    match s.runPage vd va (pa0 + (va - base)) write with
    | some e => if 0xFFFFFFFF ≤ e - base then e - base else State.runLength s vd write base pa0 n e
    | none => va - base

/-- R174: the translation register XLAT makes. -/
def State.makeX (s : State) (vd : Nat) (va : DWord) (pa : Nat) : XReg :=
  let write := match s.walk vd va.toNat with | .leaf e _ => field e 3 1 = 1 | _ => false
  { valid := true
    wr := write
    limit := BitVec.ofNat 32 (min 0xFFFFFFFF (s.runLength vd write va.toNat pa 65537 va.toNat))
    base := BitVec.ofNat 64 pa
    vbase := va }

/-- XLAT (R205): the walk as a load, and as a store too under .W. Where .W fails as a load and as a store alike, the detail is the load's,
its write bit clear: R205 names neither (DESIGN CHOICE, log 58). -/
def execXlat (d a : BitVec 7) (w : BitVec 1) (s : State) : Out :=
  let g := s.grp
  let k := d.toNat
  if k = 0 || 7 < k || a.toNat < 112 || 125 < a.toNat then .next (s.trapAll causeOperand)
  else
    let va := g.spairSrc (a.toNat - 112)
    match s.devTranslate g.vd .load va, (if w = 1 then s.devTranslate g.vd .store va else .ok 0) with
    | .fault e, _ => .next (s.trap causePage e g.exec va)
    | _, .fault e => .next (s.trap causePage (0x10 + e) g.exec va)
    | .ok pa, .ok _ => .next (s.modGrp fun g => g.setX k (s.makeX g.vd va pa)).complete
    | _, _ => .next (s.park (.pages [va]))

end Sys2Proof.Machine
end

