-- ==== Sys2Proof/Machine/Control.lean ====
section
/-! DEFINITION. Paths and the reconvergence stack (11 R154-R162), trampolines and probes (07 R91-R93), and the instructions
that enter and leave handlers (25 R318, R319). -/

namespace Sys2Proof.Machine

/-- R89: PC + 4·off for a signed word offset. -/
def target (pc : DWord) {n : Nat} (off : BitVec n) : DWord := pc + 4 * off.signExtend 64

/-- R89: does an address fall on a frame header? -/
def onHeader (a : DWord) : Bool := a.extractLsb' 0 5 == 0

/-- The group goes on at `pc` with this mask and stack; a retry is over (R318: a control instruction re-executes whole). -/
def State.goTo (s : State) (pc : DWord) : State := s.modGrp fun g => { g with pc := pc, retry := none }

/-- The link (R89): bits [31:0] of the address of the slot after the branch. -/
def State.link (s : State) : Word := lo32 (nextSlot s.grp.pc)

/-- R155: a divergent branch of the lanes `t` to `tgt`, after its checks: `link` is the uniform register that takes the
link, if any. -/
def State.diverge (s : State) (t : Mask) (tgt : DWord) (linkReg : Option Nat) : State :=
  let f := minus s.grp.exec t
  let l := s.link
  let s := match linkReg with | some n => s.modGrp fun g => g.setS n l | none => s
  if t = 0 then s.goTo (nextSlot s.grp.pc)
  else if f = 0 then s.goTo tgt
  else (s.modGrp fun g => { g.push { pending := true, pc := tgt, mask := t } with exec := f }).goTo (nextSlot s.grp.pc)

/-- R155, R156: BRA and CALL. A uniform branch whose guard does not hold does nothing at all (R51, R126), the link
included (log 21). -/
def State.branch (s : State) (u : Bool) (guard : Nat) (tgt : DWord) (linkReg : Option Nat) : Out :=
  if u then
    match s.grp.uniGuard guard with
    | none => .next (s.trapAll causeOperand)
    | some holds =>
      if !holds then .next (s.goTo (nextSlot s.grp.pc))
      else if onHeader tgt then .next (s.trapAll causeTarget)
      else .next (s.diverge s.grp.exec tgt linkReg)
  else
    let t := s.grp.act guard
    let f := minus s.grp.exec t
    if t ≠ 0 && onHeader tgt then .next (s.trap causeTarget 0 t 0)
    else if t ≠ 0 && f ≠ 0 && s.grp.stackFull then .next (s.trapAll causeOverflow)
    else .next (s.diverge t tgt linkReg)

/-- BRA (R155, R156). -/
def execBra (u : Bool) (g : BitVec 3) (o : BitVec 23) (s : State) : Out := s.branch u g.toNat (target s.grp.pc o) none

/-- CALL (R155, R156): the link goes to s126. -/
def execCall (u : Bool) (g : BitVec 3) (o : BitVec 23) (s : State) : Out :=
  s.branch u g.toNat (target s.grp.pc o) (some 126)

/-- MARK (R157): pushes REJOIN(tgt, EXECMASK). -/
def execMark (o : BitVec 23) (s : State) : Out :=
  let tgt := target s.grp.pc o
  if onHeader tgt then .next (s.trapAll causeTarget)
  else if s.grp.stackFull then .next (s.trapAll causeOverflow)
  else .next ((s.modGrp fun g => g.push { pending := false, pc := tgt, mask := g.exec }).goTo (nextSlot s.grp.pc))

/-- JOIN (R158). Where it leaves no lane, resume() runs (R73, R154). -/
def execJoin (s : State) : Out :=
  if s.grp.stackEmpty then .next (s.goTo (nextSlot s.grp.pc))
  else match s.grp.stack with
    | [] => .next (s.goTo (nextSlot s.grp.pc))
    | e :: rest =>
      let m := if e.pending then e.mask else minus e.mask s.grp.retired
      let pc := if e.pending then e.pc else nextSlot s.grp.pc
      let s := (s.modGrp fun g => { g with stack := rest, exec := m }).goTo pc
      .next (if m = 0 then s.resume else s)

/-- R159: does the stack that the group sees hold a REJOIN entry? -/
def Group.hasRejoin (g : Group) : Bool := (g.stack.take (g.stack.length - g.hidden)).any fun e => !e.pending

/-- BRK (R159): the guarded lanes leave the mask until the nearest REJOIN is popped. -/
def execBrk (g : BitVec 3) (s : State) : Out :=
  let b := s.grp.act g.toNat
  if b = 0 then .next (s.goTo (nextSlot s.grp.pc))
  else if !s.grp.hasRejoin then .next (s.trap causeOverflow 0 b 0)
  else
    let m := minus s.grp.exec b
    let s := (s.modGrp fun g => { g with exec := m }).goTo (nextSlot s.grp.pc)
    .next (if m = 0 then s.resume else s)

/-- RET (R161): to the link in s126 or s125, within the 4 GiB region of the RET. -/
def execRet (l : BitVec 1) (s : State) : Out :=
  let tgt := pair (hi32 s.grp.pc) (s.grp.ssrc (if l = 1 then 125 else 126))
  if tgt.extractLsb' 0 2 ≠ 0 || onHeader tgt then .next (s.trapAll causeTarget) else .next (s.goTo tgt)

/-- JMPI (R161): to S[a+1] ‖ S[a]. -/
def execJmpi (a : BitVec 7) (s : State) : Out :=
  let tgt := s.grp.spairSrc a.toNat
  if 126 ≤ a.toNat then .next (s.trapAll causeOperand)
  else if tgt.extractLsb' 0 2 ≠ 0 || onHeader tgt then .next (s.trapAll causeTarget)
  else .next (s.goTo tgt)

/-- TRAMP (R92): the entry is read as a load is (log 49), whether or not a lane takes it. A TARGET that is no slot for bits [1:0] is a misaligned
target where it is fetched (log 20). -/
def execTramp (g : BitVec 3) (k : BitVec 16) (s : State) : Out :=
  let va := BitVec.ofNat 64 (0x10000 * s.grp.trb.toNat + 16 * k.toNat)
  let t := s.grp.act g.toNat
  let f := minus s.grp.exec t
  let s := s.loadsFirst
  match s.readVa s.grp 0 va 16 with
  | .fault c d => .next (s.trap c d s.grp.exec va)
  | .park w => .next (s.parkRead w)
  | .value _ e =>
    let s := (s.tlbFill s.grp.agent s.grp.vd .load va).modGrp fun g => { g with remote := none }
    let tgt := BitVec.ofNat 64 (field e 0 64)
    if field e 64 1 = 0 || field e 65 63 ≠ 0 then
      .next (if t = 0 then s.goTo (nextSlot s.grp.pc) else s.trap causeIllegal 0 t 0)
    else if onHeader tgt then
      .next (if t = 0 then s.goTo (nextSlot s.grp.pc) else s.trap causeTarget 0 t 0)
    else if t ≠ 0 && f ≠ 0 && s.grp.stackFull then .next (s.trapAll causeOverflow)
    else .next (s.diverge t tgt (some 125))

/-- PROBE (R93). -/
def execProbe (n : BitVec 26) (s : State) : Out := .next (s.trap 0x01 n.toNat s.grp.exec 0)

/-- TRAP (R319). -/
def execTrap (n : BitVec 23) (s : State) : Out := .next (s.trap 0x02 n.toNat s.grp.exec 0)

/-- SYS (R319). -/
def execSys (n : BitVec 23) (s : State) : Out := .next (s.trap causeSys n.toNat s.grp.exec 0)

/-- R337, R153: a group halts for the debugger: the fixed-latency and special-function work it has issued is complete. -/
def Group.stop (g : Group) : Group := { g with stopped := true, prods := [], hz := {}, due := [] }

/-- R337: the team of a group stops: every group of it. -/
def State.stopTeam (s : State) (team : Nat) : State := s.modGroups (fun g => g.team = team && g.live) Group.stop

/-- BKPT (R319): with a debugger attached, a debugger stop of the team and no trap. -/
def execBkpt (n : BitVec 23) (s : State) : Out :=
  if s.debugger then .next (s.complete.stopTeam s.grp.team)
  else .next (s.trap 0x03 n.toNat s.grp.exec 0)

/-- R318: what the handler level being left saved. -/
def Group.savedHere (g : Group) : Saved := if g.level = .supervisor then g.super else g.user

/-- R318, R316: the handler is left: the stack restored to SDEPTH, and, whenever the supervisor handler is left, the user level's
trap registers. -/
def Group.leave (g : Group) : Group :=
  let r := g.savedHere
  { g with
    level := r.fromLevel
    trap := if g.level = .supervisor then g.trapUser else g.trap
    stack := g.stack.drop (g.stack.length - g.hidden)
    hidden := if r.fromLevel = .program then 0 else if r.fromLevel = .user then g.user.sdepth else g.super.sdepth }

/-- The slot after the instruction at SPC, counting an L-form's literal (R318). -/
def Saved.after (r : Saved) : DWord := nextSlot (if r.long then r.spc + 4 else r.spc)

/-- TRET 1 (R318): execution goes on after the instruction at SPC, with SMASK − RETIRED. -/
def State.tretSkip (s : State) : State :=
  let r := s.grp.savedHere
  let m := minus r.smask s.grp.retired
  let s := s.modGrp fun g => { g.leave with exec := m, pc := r.after, retry := none }
  if m = 0 then s.resume else s

/-- TRET 0 (R318): the instruction at SPC is to re-execute in the lanes of TRAPMASK − RETIRED; a control instruction takes
SMASK − RETIRED when it issues (Issue.lean). Where no lane is left at all, resume() runs. -/
def State.tretRetry (s : State) : State :=
  let r := s.grp.savedHere
  let tm := minus s.grp.trap.mask s.grp.retired
  let s := s.modGrp fun g =>
    { g.leave with exec := tm, pc := r.spc, retry := some { tmask := tm, smask := r.smask, sdepth := r.sdepth } }
  if minus r.smask s.grp.retired = 0 then (s.modGrp fun g => { g with retry := none, exec := 0 }).resume else s

/-- R318: a replay divergence is being handled: TRET 0 and TRET 1 act as TRET.HALT. -/
def Group.diverging (g : Group) : Bool := field g.trap.cause.toNat 26 6 = causeReplay

/-- TRET (R318): confirms what the group drained (R322), then leaves the handler by m. -/
def execTret (m : BitVec 2) (s : State) : Out :=
  if m = 3 then .next (s.trapAll causeIllegal)
  else if s.grp.level = .program then .next (s.trapAll causeOperand)
  else if s.confirmWaits s.grp.vd s.grp.drains then .next (s.park .confirm)
  else
    let s := s.confirmOwn
    if m = 2 || s.grp.diverging then .next (s.halt s.grp.id)
    else if m = 1 then .next s.tretSkip
    else .next s.tretRetry

/-- EXIT (R160, R318): the lanes of the mask retire; in a handler, it then leaves as TRET 1 does. -/
def execExit (s : State) : Out :=
  if s.grp.level ≠ .program && s.confirmWaits s.grp.vd s.grp.drains then .next (s.park .confirm) else
  let s := s.modGrp fun g => { g with retired := g.retired ||| g.exec, exec := 0, retry := none }
  if s.grp.level = .program then .next s.resume
  else
    let s := s.confirmOwn
    if s.grp.diverging then .next (s.halt s.grp.id) else .next s.tretSkip

end Sys2Proof.Machine
end

