-- ==== Sys2Proof/Machine/Sync.lean ====
section
/-! DEFINITION. Barriers (15 R215-R219), fences, pauses and yields (15 R220-R223). -/

namespace Sys2Proof.Machine

/-! Results written into a group that may be parked. -/

/-- The destination that a single vector field names: a register, or nowhere (R46). -/
def Group.vdest (g : Group) (f : Nat) : Dest := if f ≤ 111 then .vec (g.phys f) 1 else .none

/-- Write register j of a destination in the lanes of `m`. -/
def Group.writeDest (g : Group) (d : Dest) (j : Nat) (m : Mask) (val : Nat → Word) : Group :=
  match d with
  | .vec first _ =>
    let old := g.vreg (first + j)
    g.setV (first + j) (lanes fun i => if hasLane m i then val i else old.lane i)
  | .uni first _ => g.setS (first + j) (val 0)
  | .none => g

/-- A parked instruction is over: the wait ends, the next slot is `next`, and a retry restores SMASK − RETIRED (R318). -/
def Group.finishAt (g : Group) (next : DWord) : Group :=
  { g with
    pc := next, wait := none, retry := none, noted := false
    exec := match g.retry with | some r => minus r.smask g.retired | none => g.exec }

/-- A parked instruction is over; execution goes on at the slot after it. -/
def Group.finish (g : Group) : Group := g.finishAt (nextSlot g.pc)

/-! Barrier objects (R215). -/

/-- ACC. -/
def bAcc (o : Nat) : Word := BitVec.ofNat 32 (field o 0 32)
/-- ARRIVED. -/
def bArrived (o : Nat) : Nat := field o 32 16
/-- EXPECTED. -/
def bExpected (o : Nat) : Nat := field o 48 16
/-- PHASE. -/
def bPhase (o : Nat) : Bool := field o 64 1 = 1
/-- PENDING. -/
def bPending (o : Nat) : Nat := field o 65 15
/-- R216: is a phase complete? -/
def bReady (o : Nat) : Bool := bArrived o = bExpected o && bPending o = 0
/-- R216: the object after its phase has completed. -/
def bFlip (o : Nat) : Nat := setField (setField o 32 16 0) 64 1 (if bPhase o then 0 else 1)

/-- The object at a scratchpad address. -/
def Team.obj (t : Team) (a : Nat) : Nat := ofBytes ((List.range 16).map fun i => t.byte (a + i))

/-- R215: the scratchpad address of object b. -/
def Group.objAddr (g : Group) (b : Nat) : Nat := g.barbase.toNat / 16 * 16 + 16 * b

/-- Is a group parked on the object in this phase (R217, R218)? -/
def Group.parkedOn (g : Group) (a : Nat) (phase : Bool) : Bool :=
  match g.wait with
  | some (.bar b p _ _) | some (.barwait b p _) => b = a && p = phase
  | _ => false

/-- A parked group is woken with r: BAR writes it (R217), BARWAIT only goes on (R218). -/
def Group.wakePhase (g : Group) (r : Word) : Group :=
  match g.wait with
  | some (.bar _ _ d m) => (g.writeDest d 0 m fun _ => r).finish
  | some (.barwait _ _ next) => g.finishAt next
  | _ => g

/-- R216: the object takes the value `o`; where its phase is complete it flips, and every group of the team parked on it
in the old phase is woken with ACC. Nothing else wakes a group parked on an object (R219). -/
def State.setObj (s : State) (team a o : Nat) : State :=
  if bReady o then
    (s.putScratch team a (toBytes 16 (bFlip o))).modGroups (fun g => g.team = team && g.parkedOn a (bPhase o))
      fun g => g.wakePhase (bAcc o)
  else s.putScratch team a (toBytes 16 o)

/-- R208: a copy arrival: PENDING falls by 1, not below 0, and may complete the phase. -/
def State.copyArrival (s : State) (team a : Nat) : State :=
  match s.team team with
  | none => s
  | some t => let o := t.obj a; s.setObj team a (setField o 65 15 (bPending o - 1))

/-- What a barrier instruction meets at its object: the team, or a wait, or a trap. -/
inductive ObjRes where
  | ok (t : Team)
  | stop (s : State)

/-- R217, R218, R168, R170: the checks at the object: its range, then its line's state. -/
def State.objCheck (s : State) (a : Nat) (write : Bool) : ObjRes :=
  match s.team s.grp.team with
  | none => .stop (s.trap causePage (if write then 0x15 else 5) s.grp.exec (BitVec.ofNat 64 a))
  | some t =>
    if t.alloc < a + 16 then .stop (s.trap causePage (if write then 0x15 else 5) s.grp.exec (BitVec.ofNat 64 a))
    else match t.worst a 16 with
      | .full => .ok t
      | .empty => .stop (s.park (.lines [a]))
      | .poisoned =>
        match t.poison with
        | some r => .stop (s.trap causeCopy r.detail s.grp.exec r.addr)
        | none => .stop (s.trap causeCopy 0 s.grp.exec 0)

/-- R217: the value of an arrival: AND, OR, sum, or the count of non-zero payloads. -/
def arrivalValue (op : Nat) (payload : List Word) : Word :=
  match op with
  | 0 => payload.foldl (· &&& ·) (BitVec.allOnes 32)
  | 1 => payload.foldl (· ||| ·) 0
  | 2 => payload.foldl (· + ·) 0
  | _ => payload.foldl (fun n w => if w = 0 then n else n + 1) 0

/-- R217: ACC with a further arrival. -/
def arrivalCombine (op : Nat) (acc v : Word) : Word :=
  match op with
  | 0 => acc &&& v
  | 1 => acc ||| v
  | _ => acc + v

/-- R217: an arrival at object b: the object after it and the token, or none where R216 traps. -/
def arrive (op : Nat) (o : Nat) (v : Word) : Option (Nat × Bool) :=
  if bExpected o ≤ bArrived o || field o 80 48 ≠ 0 then none
  else
    let acc := if bArrived o = 0 then v else arrivalCombine op (bAcc o) v
    some (setField (setField o 0 32 acc.toNat) 32 16 (bArrived o + 1), bPhase o)

/-- R217: the shared body of BAR and BARARR: the checks, the release (the group's accesses are performed first, R187; after a
QFENCE that names the ordinary path the queues it names too, R195), and the arrival. That its earlier stores land before its later
engine operations is the model's choice (log 5); `fin` goes on with the object before, the object after and the token. -/
def State.arrival (s : State) (d a : BitVec 7) (o : BitVec 2) (n : BitVec 6) (fin : Nat → Nat → Bool → State → State) : Out :=
  let g := s.grp
  let addr := g.objAddr n.toNat
  match g.vecFault [wr d.toNat, rd a.toNat] with
  | some c => .next (s.trapAll c)
  | none => match s.objCheck addr true with
    | .stop t => .next t
    | .ok _ =>
      if g.held 0 then .next (s.park (.paths 0)) else
      let s := s.drainOwn
      match s.team g.team with
      | none => .next s
      | some t =>
        let v := arrivalValue o.toNat ((lanesOf g.exec).map fun i => g.lane a.toNat i)
        match arrive o.toNat (t.obj addr) v with
        | none => .next (s.trapAll causeOperand)
        | some (o1, tok) => .next (fin addr o1 tok s)

/-- BAR (R217): arrives, and parks until the phase ends. -/
def execBar (d a : BitVec 7) (o : BitVec 2) (n : BitVec 6) (s : State) : Out :=
  s.arrival d a o n fun addr o1 tok s =>
    let g := s.grp
    (s.park (.bar addr tok (g.vdest d.toNat) g.exec)).setObj g.team addr o1

/-- BARARR (R217): arrives, and returns the token. -/
def execBararr (d a : BitVec 7) (o : BitVec 2) (n : BitVec 6) (s : State) : Out :=
  s.arrival d a o n fun addr o1 tok s =>
    let g := s.grp
    ((s.modGrp fun g => g.putLanes d.toNat g.exec fun _ => if tok then 1 else 0).setObj g.team addr o1).complete

/-- R181, R182, R185: PHASE of the object at a scratchpad address as a group reads it: as a load, with its own queued stores. -/
def State.phaseOf (s : State) (g : Group) (t : Team) (a : Nat) : Bool := bPhase (ofBytes (s.loadBytes g g.seq (.scratch t.id a) 16))

/-- PHASE as the group whose turn it is reads it. -/
def State.phaseRead (s : State) (t : Team) (a : Nat) : Bool := s.phaseOf s.grp t a

/-- BARWAIT (R218): goes on once PHASE, read after the group's earlier loads (R181; `loadsFirst`), differs from the token. -/
def execBarwait (a : BitVec 7) (n : BitVec 6) (s : State) : Out :=
  let g := s.grp
  let addr := g.objAddr n.toNat
  match g.vecFault [rd a.toNat] with
  | some c => .next (s.trapAll c)
  | none => match s.objCheck addr false with
    | .stop t => .next t
    | .ok t =>
      let tok := (g.lane a.toNat ((lowestLane g.exec).getD 0)).getLsbD 0
      let s := s.loadsFirst
      if g.held 0 then .next (s.park (.paths 0))
      else if s.phaseRead t addr ≠ tok then .next s.complete
      else .next (s.park (.barwait addr tok (nextSlot g.pc)))

/-! Fences (R220, R221). -/

/-- R323: the sticky error is raised: the remote-fault trap with bit 4, and the error cleared. -/
def State.raiseSticky (s : State) (r : FaultRec) : State :=
  (s.modGrp fun g => { g with sticky := none }).trap causeRemote (0x10 + r.detail) s.grp.exec r.addr

/-- FENCE (R220): the store queue drains and the earlier accesses are performed; at SYS the sticky error is raised. -/
def execFence (z : BitVec 2) (s : State) : Out :=
  let s := s.drainOwn
  match s.grp.sticky with
  | some r => if z = 3 then .next (s.raiseSticky r) else .next s.complete
  | none => .next s.complete

/-- R221: the queues of a QFENCE mask whose records it raises, in order: cq0-cq3, gather/scatter, post. -/
def qfenceQueues (m : BitVec 8) : List Nat := [0, 1, 2, 3, gatherQ, postQ].filter fun q => m.getLsbD (q + 1)

/-- QFENCE (R221, R195). It joins the paths of its mask from here on; a mask of 0 joins nothing. -/
def execQfence (z : BitVec 2) (m : BitVec 8) (s : State) : Out :=
  let g := s.grp
  match (qfenceQueues m).findSome? fun q => (g.record q).map fun r => (q, r) with
  | some (q, r) =>
    .next ((s.modGrp fun g => { g with records := nset none g.records q none }).trap causeCopy r.detail g.exec r.addr)
  | none =>
    match (if z = 3 then g.sticky else none) with
    | some r => .next (s.raiseSticky r)
    | none =>
      .next (s.modGrp fun g =>
        { g with
          seq := g.seq + 1
          qfences := (g.qfences.filter fun f => (List.range 8).any fun p => f.mask.getLsbD p && g.olderOn f.seq p) ++
            (if m = 0 then [] else [{ seq := g.seq, mask := m }]) }).complete

/-! Pauses and yields (R222, R223). -/

/-- PAUSE (R222): for n clk the group is the youngest; a pause that lasts longer goes on. -/
def execPause (n : BitVec 16) (s : State) : Out :=
  .next (s.modGrp fun g =>
    { g with pausedUntil := if n = 0 then g.pausedUntil else max g.pausedUntil (s.clock + n.toNat) }).complete

/-- YIELD (R223): goes to the continuation when its condition holds, at once or on waking. A .LINE register of 127 is an
illegal operand (log 22), and a .BAR object beyond the allocation a scratchpad-range fault (R168). PHASE is read as BARWAIT reads it. -/
def execYield (o : BitVec 11) (k : BitVec 2) (r : BitVec 10) (s : State) : Out :=
  let g := s.grp
  let tgt := target g.pc o
  let q := (r.extractLsb' 0 2).toNat
  let obj := g.objAddr (r.extractLsb' 0 6).toNat
  let tok := r.getLsbD 6
  let n := (r.extractLsb' 0 7).toNat
  if k = 3 then .next (s.trapAll causeIllegal)
  else if k = 2 && n = 127 then .next (s.trapAll causeOperand)
  else if onHeader tgt then .next (s.trapAll causeTarget)
  else if k = 0 then
    .next (if (g.queue q).isEmpty then s.goTo tgt else s.park (.drained q tgt))
  else
    let a := if k = 1 then obj else (g.ssrc n).toNat
    match s.team g.team with
    | none => .next (s.trap causePage 5 g.exec (BitVec.ofNat 64 a))
    | some t =>
      if t.alloc < a + (if k = 1 then 16 else 1) then .next (s.trap causePage 5 g.exec (BitVec.ofNat 64 a))
      else if k = 1 then
        let s := s.loadsFirst
        .next (if g.held 0 then s.park (.paths 0) else if s.phaseRead t a ≠ tok then s.goTo tgt else s.park (.phase a tok tgt))
      else .next (if t.worst a 1 ≠ .empty then s.goTo tgt else s.park (.filled a tgt))

end Sys2Proof.Machine
end

