-- ==== Sys2Proof/Machine/Copies.lean ====
section
/-! DEFINITION. The issue of copies and table commands (15 R206-R214): CPY, LDTS, GATH, SCAT and MCAST check their operands,
alignment and scratchpad ranges, and hand their work to an engine queue. What the engines then do is Engines.lean's. -/

namespace Sys2Proof.Machine

/-- R194: an operation enters an engine queue, in program order. -/
def State.enqueue (s : State) (q : Nat) (kind : OpKind) : State :=
  s.modGrp fun g => { g.setQueue q (g.queue q ++ [{ seq := g.seq, kind := kind }]) with seq := g.seq + 1 }

/-- One end of a lane's copy: what it meets at issue (R206): alignment, then scratchpad range. -/
def State.endCheck (s : State) (e : CopyEnd) (size : Nat) (write : Bool) : Option LaneRes :=
  match e with
  | .scratch off =>
    if off % size ≠ 0 then some (.trap 0 causeMisaligned 0 (BitVec.ofNat 64 off))
    else match s.team s.grp.team with
      | some t => if t.alloc < off + size then some (.trap 1 causePage (if write then 0x15 else 5) (BitVec.ofNat 64 off)) else none
      | none => some (.trap 1 causePage (if write then 0x15 else 5) (BitVec.ofNat 64 off))
  | .global a => if a.va.toNat % size ≠ 0 then some (.trap 0 causeMisaligned 0 a.va) else none

/-- The earlier of two conditions in R176's order; the first where they are equal. -/
def earlier (a b : LaneRes) : LaneRes :=
  match a, b with
  | .trap r _ _ _, .trap q _ _ _ => if r ≤ q then a else b
  | _, _ => a

/-- A lane's copy: its condition at issue, the first of both ends' in R176's order (the source's where they are equal), or its
part. -/
def State.laneCopy (s : State) (lane : Nat) (src dst : CopyEnd) (size : Nat) : (Nat × LaneRes) ⊕ CopyPart :=
  match s.endCheck src size false, s.endCheck dst size true with
  | some a, some b => .inl (lane, earlier a b)
  | some r, none | none, some r => .inl (lane, r)
  | none, none => .inr { src := src, dst := dst, size := size }

/-- A part with a scratchpad destination makes its line EMPTY (R169). -/
def State.issueParts (s : State) (ps : List CopyPart) : State :=
  ps.foldl (fun s p => match p.dst with | .scratch off => s.issuePart s.grp.team off p.size | .global _ => s) s

/-- The lanes of a copy instruction whose checks failed trap; the others' parts are queued as one operation (R206). -/
def State.issueCopy (s : State) (q : Nat) (barrier : Option Nat) (ls : List ((Nat × LaneRes) ⊕ CopyPart)) : Out :=
  let bad := ls.filterMap fun x => match x with | .inl r => some r | .inr _ => none
  let parts := ls.filterMap fun x => match x with | .inr p => some p | .inl _ => none
  let s := if parts.isEmpty then s
    else
      let s := s.qfenceDrain (q + 1)
      let s := match barrier with
        | some a => match s.team s.grp.team with
          | some t => let o := t.obj a; s.putScratch s.grp.team a (toBytes 16 (setField o 65 15 (bPending o + 1)))
          | none => s
        | none => s
      (s.issueParts parts).enqueue q (.copy parts barrier)
  .next (s.finishAccess false (accessTrap bad) State.complete)

/-- CPY (R207): direction r: 0 global to scratchpad, 1 scratchpad to global, 2 within scratchpad, 3 within global memory. -/
def execCpy (x : BitVec 3) (d a : BitVec 7) (z : BitVec 3) (r q : BitVec 2) (s : State) : Out :=
  let g := s.grp
  let sp := Space.global x.toNat
  let srcSp := if r = 0 || r = 3 then sp else Space.scratch
  let dstSp := if r = 1 || r = 3 then sp else Space.scratch
  let n := sizeBytes z
  if !(2 ≤ z.toNat && z.toNat ≤ 4 && (r != 2 || x == 0)) then .next (s.trapAll causeIllegal)
  else
    let fault := if (srcSp.opnd a.toNat).vecIllegal || (dstSp.opnd d.toNat).vecIllegal || g.badX srcSp || g.badX dstSp then
        some causeOperand
      else g.vecFault [srcSp.opnd a.toNat, dstSp.opnd d.toNat]
    match fault with
    | some c => .next (s.trapAll c)
    | none =>
      if g.held (q.toNat + 1) then .next (s.park (.paths (q.toNat + 1)))
      else
        let at_ := fun (sp : Space) (f : Nat) (write : Bool) (i : Nat) => match sp with
          | .scratch => CopyEnd.scratch (g.lane f i).toNat
          | .global x => .global (g.globalAddr x (fun k => g.lane (f + k) i) 0 n write)
        s.issueCopy q.toNat none ((lanesOf g.exec).map fun i =>
          s.laneCopy i (at_ srcSp a.toNat false i) (at_ dstSp d.toNat true i) n)

/-- LDTS (R208): copies into scratchpad that count as a pending completion of a barrier object. -/
def execLdts (x : BitVec 3) (d a : BitVec 7) (z : BitVec 3) (q : BitVec 2) (s : State) : Out :=
  let g := s.grp
  let sp := Space.global x.toNat
  let n := sizeBytes z
  let word := fun i => (g.lane d.toNat i).toNat
  let ls := lanesOf g.exec
  let b := match ls.head? with | some i => field (word i) 21 6 | none => 0
  if !(2 ≤ z.toNat && z.toNat ≤ 4) then .next (s.trapAll causeIllegal)
  else match g.memFault false sp [rd d.toNat, sp.opnd a.toNat] with
  | some c => .next (s.trapAll c)
  | none =>
    if ls.any fun i => field (word i) 27 5 ≠ 0 || field (word i) 21 6 ≠ b then .next (s.trapAll causeOperand)
    else if g.held (q.toNat + 1) then .next (s.park (.paths (q.toNat + 1)))
    else
      let obj := g.objAddr b
      match s.team g.team with
      | none => .next (s.trap causePage 0x15 g.exec (BitVec.ofNat 64 obj))
      | some t =>
        if t.alloc < obj + 16 then .next (s.trap causePage 0x15 g.exec (BitVec.ofNat 64 obj))
        else if bPending (t.obj obj) = 0x7FFF then .next (s.park (.pendingFull obj))
        else s.issueCopy q.toNat (some obj) (ls.map fun i =>
          s.laneCopy i (.global (g.globalAddr x.toNat (fun k => g.lane (a.toNat + k) i) 0 n false))
            (.scratch (field (word i) 0 21)) n)

/-! Table commands (R210-R212). -/

/-- R210: the block at S[k] with the scratchpad base in S[j]. -/
def Group.tableBlock (g : Group) (k j width : Nat) : TableBlock :=
  { list := g.spairSrc k, table := g.spairSrc (k + 2)
    rowBytes := (g.ssrc (k + 4)).toNat, rows := (g.ssrc (k + 5)).toNat, count := (g.ssrc (k + 6)).toNat
    width := width, base := (g.ssrc j).toNat }

/-- R210: is every value of the block within its limits? -/
def TableBlock.limits (b : TableBlock) : Bool :=
  16 ≤ b.rowBytes && b.rowBytes ≤ 32768 && b.rowBytes % 16 = 0 && 1 ≤ b.rows && 1 ≤ b.count && b.count ≤ 4096

/-- R210: the first misaligned address of the block. Its table gives the list's and the table's alignment alone; that the scratchpad
base must be a multiple of 16 too, as "a misaligned address or base" may say, is a DESIGN CHOICE (log 54). -/
def TableBlock.misaligned (b : TableBlock) : Option DWord :=
  if b.list.toNat % b.width ≠ 0 then some b.list
  else if b.table.toNat % 16 ≠ 0 then some b.table
  else if b.base % 16 ≠ 0 then some (BitVec.ofNat 64 b.base)
  else none

/-- R210: the shared issue of GATH and SCAT. -/
def State.issueTable (s : State) (d a : BitVec 7) (w : BitVec 1) (write : Bool) (fin : TableBlock → State → State) : Out :=
  let g := s.grp
  if a.toNat < 112 || 120 < a.toNat || d.toNat < 112 || 126 < d.toNat then .next (s.trapAll causeOperand)
  else
    let b := g.tableBlock (a.toNat - 112) (d.toNat - 112) (if w = 1 then 2 else 4)
    if !b.limits then .next (s.trapAll causeOperand)
    else match b.misaligned with
    | some x => .next (s.trap causeMisaligned 0 g.exec x)
    | none =>
      let alloc := match s.team g.team with | some t => t.alloc | none => 0
      if alloc < b.base + b.count * b.rowBytes then
        .next (s.trap causePage (if write then 0x15 else 5) g.exec (BitVec.ofNat 64 b.base))
      else if g.held 6 then .next (s.park (.paths 6))
      else .next (fin b (s.qfenceDrain 6)).complete

/-- GATH (R211): every line of the area becomes EMPTY, its count raised by its parts. -/
def execGath (d a : BitVec 7) (w : BitVec 1) (s : State) : Out :=
  s.issueTable d a w true fun b s =>
    let parts := b.count * b.perRow
    ((List.range parts).foldl (fun s k => s.issuePart s.grp.team (b.base + 16 * k) 16) s).enqueue gatherQ
      (.gather b (List.replicate b.count .unread) (List.replicate parts false))

/-- SCAT (R212): ordered (m = 0) or combining (m = 1) with element kind k. -/
def execScat (d a : BitVec 7) (k : BitVec 2) (m w : BitVec 1) (s : State) : Out :=
  if k = 3 || (m = 0 && k ≠ 0) then .next (s.trapAll causeIllegal)
  else s.issueTable d a w false fun b s =>
    s.enqueue gatherQ (.scatter b (m = 1) k.toNat false (List.replicate b.count .unread) [] [])

/-! Multicast (R213, R214). -/

/-- R213: the team t0 + m of the grid of a group, where it is resident. A combiner or node group's grid is its own team. -/
def State.gridTeam (s : State) (g : Group) (t : Nat) : Option Team :=
  s.teams.find? fun x => x.teamid = t && !x.saved &&
    (match g.launch with | some l => x.launch = some l | none => x.id = g.team)

/-- R214: the parts for one destination, or none where it is dropped at issue. -/
def State.mcastParts (s : State) (g : Group) (t0 m dst bytes : Nat) : List McastPart :=
  match s.gridTeam g (t0 + m) with
  | none => []
  | some t =>
    if t.alloc < dst + bytes || (g.nteams ≠ 0 && g.nteams.toNat ≤ t0 + m) then []
    else (List.range (bytes / 16)).map fun i => { m := m, team := t.id, gen := t.gen, off := dst + 16 * i }

/-- MCAST (R213). -/
def execMcast (d a : BitVec 7) (s : State) : Out :=
  let g := s.grp
  if a.toNat < 112 || 122 < a.toNat then .next (s.trapAll causeOperand)
  else match g.vecFault [wr d.toNat] with
  | some c => .next (s.trapAll c)
  | none =>
    let k := a.toNat - 112
    let src := (g.ssrc k).toNat
    let bytes := (g.ssrc (k + 1)).toNat
    let dst := (g.ssrc (k + 2)).toNat
    let t0 := (g.ssrc (k + 3)).toNat
    let mask := (g.ssrc (k + 4)).toNat
    let alloc := match s.team g.team with | some t => t.alloc | none => 0
    if bytes < 16 || 65536 < bytes || bytes % 16 ≠ 0 || mask = 0 || 0x10000 ≤ mask then .next (s.trapAll causeOperand)
    else if src % 16 ≠ 0 then .next (s.trap causeMisaligned 0 g.exec (BitVec.ofNat 64 src))
    else if dst % 16 ≠ 0 then .next (s.trap causeMisaligned 0 g.exec (BitVec.ofNat 64 dst))
    else if alloc < src + bytes then .next (s.trap causePage 5 g.exec (BitVec.ofNat 64 src))
    else if g.held 6 then .next (s.park (.paths 6))
    else
      let ms := (List.range 16).filter fun m => mask.testBit m
      let parts := ms.flatMap fun m => s.mcastParts g t0 m dst bytes
      let dropped := maskBelow (fun m => ms.contains m && !(parts.any fun p => p.m = m)) 16
      .next ((s.qfenceDrain 6).enqueue gatherQ
        (.mcast src bytes dst parts none dropped (g.vdest d.toNat) g.exec)).complete

end Sys2Proof.Machine
end

