-- ==== Sys2Proof/Machine/Matrix.lean ====
section
/-! DEFINITION. The matrix engine (17 R225-R243, 05 R65-R68): gangs and their latch, the needle, and the operations that
enter a unit: contributions, drains, stores and zeroes; batches. -/

namespace Sys2Proof.Machine

/-! Units (R225). -/

/-- Is the group's quadrant in split mode? -/
def State.isSplit (s : State) (g : Group) : Bool :=
  match nget .free s.quads (4 * g.core + g.part / 8) with | .halves _ _ => true | _ => false

/-- R225: tiles that the group's owner names. -/
def State.tileLimit (s : State) (g : Group) : Nat := if s.isSplit g then 4 else 8
/-- R225: rows of a tile. -/
def State.tileRows (s : State) (g : Group) : Nat := if s.isSplit g then 32 else 64

/-- The key of a tile element. -/
def tileKey (unit tile row col : Nat) : Nat := ((unit * 8 + tile) * 64 + row) * 64 + col
/-- A tile element. -/
def State.tile (s : State) (unit tile row col : Nat) : Word := nget 0 s.tiles (tileKey unit tile row col)

/-- Write `n` rows of 64 elements of a tile. -/
def State.putTile (s : State) (unit tile n : Nat) (val : Nat → Nat → Word) : State :=
  let put := fun (m : NMap Word) (k : Nat) => nset 0 m (tileKey unit tile (k / 64) (k % 64)) (val (k / 64) (k % 64))
  { s with tiles := (List.range (n * 64)).foldl put s.tiles }

/-! The gang register (R229, R230). -/

/-- R229: POS. -/
def gangPos (r : DWord) : Nat := field r.toNat 3 2

/-- The resident group of a team at a member byte of a unit's quadrant. -/
def State.memberGroup (s : State) (g : Group) (b : Nat) : Option Group :=
  s.groups.find? fun w => w.live && !w.saved && w.team = g.team && w.core = g.core && w.part / 8 = g.part / 8 && w.memberByte = b

/-- R230: is a gang register legal for the group? -/
def State.gangLegal (s : State) (g : Group) (r : DWord) : Bool :=
  let n := field r.toNat 0 3
  let ms := gangMembers r
  let nring := dNring (s.descOf g)
  field r.toNat 56 8 = 0 && field r.toNat 5 3 = 0 && 2 ≤ n && n ≤ 6 && field r.toNat (8 + 8 * n) (48 - 8 * n) = 0 &&
    ms.all (fun b => b < 128) && decide ms.Nodup && ms.contains g.memberByte &&
    ms.all (fun b => !s.isSplit g || b / 16 / 4 = g.part % 8 / 4) &&
    ms.all (fun b => (s.memberGroup g b).isSome) && (nring = 0 || gangPos r < nring)

/-- MGANG (R230). -/
def execMgang (a : BitVec 7) (s : State) : Out :=
  if a.toNat < 112 || 125 < a.toNat then .next (s.trapAll causeOperand)
  else
    let r := s.grp.spairSrc (a.toNat - 112)
    if s.gangLegal s.grp r then .next (s.modGrp fun g => { g with gang := some r }).complete
    else .next (s.trapAll causeOperand)

/-! The needle (R234-R237). -/

/-- The unit of a group, counted from its core's first: 2·quadrant, plus the half in split mode. -/
def State.unitIn (s : State) (g : Group) : Nat := s.unitOf g - 8 * g.core

/-- R235: the needle's position for a group's team on its unit. -/
def State.needleAt (s : State) (g : Group) : Nat :=
  match s.team g.team with | some t => nget 0 t.needles (s.unitIn g) | none => 0

/-- R234: does the gang hold the needle? -/
def State.holdsNeedle (s : State) (g : Group) : Bool :=
  match g.gang with | some r => s.needleAt g = gangPos r | none => false

/-- R237: has every MMA the group issued entered its unit? -/
def Group.mmasEntered (g : Group) : Bool :=
  (g.queue matrixQ).all fun o => match o.kind with | .gang _ => false | _ => true

/-- R235: the needle moves on. -/
def State.passNeedle (s : State) (g : Group) : State :=
  s.modTeam g.team fun t =>
    { t with needles := nset 0 t.needles (s.unitIn g) ((s.needleAt g + 1) % max 1 (dNring (s.descOf g))) }

/-- NTAKE (R236). -/
def execNtake (s : State) : Out :=
  let g := s.grp
  if g.gang = none then .next (s.trapAll causeOperand)
  else if dNring (s.descOf g) = 0 || s.holdsNeedle g then .next s.complete
  else .next (s.park .needle)

/-- NPASS (R237): passes the needle once the group's earlier MMAs have entered; at once where they have (log 23). -/
def execNpass (s : State) : Out :=
  let g := s.grp
  if g.gang = none then .next (s.trapAll causeOperand)
  else if dNring (s.descOf g) = 0 then .next s.complete
  else if !s.holdsNeedle g then .next (s.trapAll causeGang)
  else if g.mmasEntered then .next (s.passNeedle g).complete
  else .next (s.park .npass)

/-- NEEDLE_PASS (R235): a group waiting in NPASS passes the needle on. Where another member has passed it meanwhile, the
group takes the gang-mismatch trap. -/
def execNeedlePass (gid : Nat) (s : State) : Out :=
  match s.group gid with
  | none => .next s
  | some g =>
    if g.wait ≠ some .npass || !g.live || g.saved || !g.mmasEntered then .next s
    else if !s.holdsNeedle g then .next (s.trapGroup gid causeGang 0 g.exec 0)
    else .next ((s.passNeedle g).modGroup gid Group.finish)

/-! MMA (R231, R232). -/

/-- R232: is the latch of this group's gang list complete: every group it names waits at an MMA? The members, in list
order. -/
def State.latchMembers (s : State) (g : Group) : Option (List Group) :=
  match g.gang with
  | none => none
  | some r =>
    let ms := (gangMembers r).map (s.memberGroup g)
    if ms.all (fun m => match m with
        | some w => (match w.wait with | some (.latch _ _ _ _) => true | _ => false)
        | none => false)
    then some (ms.filterMap id) else none

/-- R66: is a format word legal? -/
def formatLegal (w : Word) : Bool :=
  let a := field w.toNat 0 4
  let b := field w.toNat 4 4
  let k := field w.toNat 8 2
  let width := fun c => if c = 0 then 32 else if c ≤ 2 then 16 else if c ≤ 6 then 8 else 4
  field w.toNat 10 22 = 0 && a ≤ 8 && b ≤ 8 && k ≠ 3 && width a = width b &&
    ((a ≤ 4 && b ≤ 4 && k = 0) || (5 ≤ a && 5 ≤ b && k ≠ 0))

/-- R66: the format words of a member's active lanes. -/
def Group.formatWords (g : Group) : List Word :=
  match g.wait with
  | some (.latch f _ _ _) => (lanesOf g.exec).map (g.lane f)
  | _ => []

/-- R232: the panel run of a member at the latch. Panels, and the format words of members that came before the last, are read when the
latch is complete, after their MMA's issue: with the scoreboard off and a count short they hold the producer's new value (DESIGN
CHOICE, log 6). -/
def Group.panels (g : Group) : List LaneVec :=
  match g.wait with
  | some (.latch _ p _ _) => (List.range 32).map fun i => g.vreg (g.phys (p + i))
  | _ => []

/-- R241: an operation enters the matrix queue of a group and its open batch. -/
def Group.enqueueMatrix (g : Group) (kind : OpKind) : Group :=
  { g.setQueue matrixQ (g.queue matrixQ ++ [{ seq := g.seq, kind := kind }]) with
    openOps := g.openOps ++ [g.seq], seq := g.seq + 1 }

/-- R232: every member takes the same trap, in every lane of its own mask. -/
def State.trapMembers (s : State) (ms : List Group) (cause : Nat) : State :=
  ms.foldl (fun s m => s.trapGroup m.id cause 0 m.exec 0) s

/-- R232: what a complete latch does. -/
def State.closeLatch (s : State) (ms : List Group) : State :=
  match ms with
  | [] => s
  | m0 :: _ =>
    let same := fun (m : Group) => m.gang = m0.gang && match m.wait, m0.wait with
      | some (.latch _ _ c t), some (.latch _ _ c0 t0) => c = c0 && t = t0
      | _, _ => false
    let words := ms.flatMap Group.formatWords
    let w := words.headD 0
    if !ms.all same then s.trapMembers ms causeGang
    else if !words.all (· = w) then s.trapMembers ms causeFormat
    else if !formatLegal w then s.trapMembers ms causeOperand
    else match m0.wait with
      | some (.latch _ _ clr tile) =>
        let op : GangOp :=
          { id := s.nextOp, unit := s.unitOf m0, split := s.isSplit m0, tile := tile, clr := clr, fmt := w, team := m0.team
            pos := match m0.gang with | some r => gangPos r | none => 0
            members := ms.map fun m => { gid := m.id, seq := m.seq, panels := m.panels } }
        let s := { s with gangOps := s.gangOps ++ [op], nextOp := s.nextOp + 1 }
        ms.foldl (fun s m => s.modGroup m.id fun g => (g.enqueueMatrix (.gang op.id)).finish) s
      | _ => s

/-- MMA (R232): arrives at the latch; the last member completes it. A list of a waiting group that this arrival completes
closes that group's latch. -/
def execMma (d a : BitVec 7) (c : BitVec 1) (t : BitVec 3) (s : State) : Out :=
  let g := s.grp
  if g.gang = none || s.tileLimit g ≤ t.toNat then .next (s.trapAll causeOperand)
  else match g.vecFault [rd d.toNat, rdRun a.toNat 32] with
  | some e => .next (s.trapAll e)
  | none =>
    if g.held 5 then .next (s.park (.paths 5))
    else
      let s := (s.qfenceDrain 5).park (.latch d.toNat a.toNat (c = 1) t.toNat)
      let waiting := s.grp :: (s.others.filter fun w => s.awaits w s.grp)
      match waiting.findSome? s.latchMembers with
      | some ms => .next (s.closeLatch ms)
      | none => .next s

/-! Queued tile operations. -/

/-- The shared issue of a tile operation: its operand and range checks, then the matrix queue. -/
def State.issueTile (s : State) (legal : Bool) (os : List Opnd) (kind : OpKind) : Out :=
  if !legal then .next (s.trapAll causeOperand)
  else match s.grp.vecFault os with
  | some c => .next (s.trapAll c)
  | none =>
    if s.grp.held 5 then .next (s.park (.paths 5))
    else .next ((s.qfenceDrain 5).modGrp fun g => g.enqueueMatrix kind).complete

/-- MDRAIN (R238). -/
def execMdrain (d : BitVec 7) (sl t : BitVec 3) (s : State) : Out :=
  s.issueTile (t.toNat < s.tileLimit s.grp && 8 * sl.toNat < s.tileRows s.grp) [wrRun d.toNat 16]
    (.mdrain (s.grp.phys d.toNat) t.toNat sl.toNat)

/-- MZERO (R240). -/
def execMzero (l : BitVec 1) (t : BitVec 3) (s : State) : Out :=
  if l = 1 && t ≠ 0 then .next (s.trapAll causeIllegal)
  else s.issueTile (l = 1 || t.toNat < s.tileLimit s.grp) [] (.mzero (l = 1) t.toNat)

/-- MSTORE (R239). FADDR of its misaligned trap and of its scratchpad-range trap is the start address, also where the pitch or a later row
is at fault: R239 names none (DESIGN CHOICE, log 58). -/
def execMstore (a : BitVec 7) (k sp : BitVec 1) (c : BitVec 2) (n : BitVec 1) (t : BitVec 3) (s : State) : Out :=
  let g := s.grp
  let j := a.toNat - 112
  let addr := g.spairSrc j
  let pitch := (g.ssrc (j + 2)).toNat
  let rows := s.tileRows g
  let width := if c = 1 then 128 else 256
  if a.toNat < 112 || 124 < a.toNat || s.tileLimit g ≤ t.toNat || c = 3 || (k = 1 && !(n = 1 && c = 0)) ||
      (sp = 1 && hi32 addr ≠ 0) then .next (s.trapAll causeOperand)
  else if addr.toNat % 16 ≠ 0 || pitch % 16 ≠ 0 || pitch < width then .next (s.trap causeMisaligned 0 g.exec addr)
  else
    let alloc := match s.team g.team with | some t => t.alloc | none => 0
    if sp = 1 && alloc < addr.toNat + (rows - 1) * pitch + width then .next (s.trap causePage 0x15 g.exec addr)
    else s.issueTile true []
      (.mstore { addr := addr, pitch := pitch, tile := t.toNat, add := n = 1, conv := c.toNat, scratch := sp = 1, i32 := k = 1 })

/-! Batches (R241, R242). -/

/-- R241: is a batch closed no later than the c-th still outstanding? -/
def Group.batchOpen (g : Group) (c : Nat) : Bool := g.batches.any fun b => b.num ≤ c

/-- MFENCE (R241): closes what the matrix queue got since the last one into the next batch; S[j] takes its number. -/
def execMfence (d : BitVec 7) (s : State) : Out :=
  let g := s.grp
  if d.toNat < 112 || 126 < d.toNat then .next (s.trapAll causeOperand)
  else if 16 ≤ g.nextBatch && g.batchOpen (g.nextBatch - 16) then .next (s.park (.batch (g.nextBatch - 16)))
  else
    let ops := g.openOps.filter fun o => (g.queue matrixQ).any fun e => e.seq = o
    .next (s.modGrp fun g =>
      { g.setS (d.toNat - 112) (BitVec.ofNat 32 (g.nextBatch % 16)) with
        nextBatch := g.nextBatch + 1, openOps := []
        batches := if ops.isEmpty then g.batches else g.batches ++ [{ num := g.nextBatch, ops := ops }] }).complete

/-- R242: the most recent batch closed with number n. -/
def Group.latestBatch (g : Group) (n : Nat) : Option Nat :=
  if g.nextBatch ≤ n then none else some (g.nextBatch - 1 - (g.nextBatch - 1 - n) % 16)

/-- MWAIT (R242): waits for the batch and those before it, then raises the matrix queue's record. One whose number no closed batch has
does not wait, and raises the record too (DEDUCED, log 34). -/
def execMwait (n : BitVec 4) (s : State) : Out :=
  let g := s.grp
  let after := match g.record matrixQ with
    | some r => (s.modGrp fun g => { g with records := nset none g.records matrixQ none }).trap causeCopy r.detail g.exec r.addr
    | none => s.complete
  match g.latestBatch n.toNat with
  | none => .next after
  | some c => if g.batchOpen c then .next (s.park (.batch c)) else .next after

/-- R241: a queued operation of a group is complete: it leaves its queue, and its batch. -/
def Group.opDone (g : Group) (q seq : Nat) : Group :=
  { g.setQueue q ((g.queue q).filter fun o => o.seq ≠ seq) with
    openOps := if q = matrixQ then g.openOps.filter (· ≠ seq) else g.openOps
    batches := if q = matrixQ then
        (g.batches.map fun b => { b with ops := b.ops.filter (· ≠ seq) }).filter fun b => !b.ops.isEmpty
      else g.batches }

/-! Entry of operations (R227). -/

/-- R231: bits of element (row or column r, k) of width w in a panel whose first register is `base`. -/
def panelBits (ps : List LaneVec) (base w r k : Nat) : Nat :=
  let v := ps.getD (base + r / 4) zeroVec
  (v.lane (8 * (r % 4) + w * k / 32)).toNat / 2 ^ (w * k % 32) % 2 ^ w

/-- R65: width of an element code. -/
def elementWidth (code : Nat) : Nat := if code = 0 then 32 else if code ≤ 2 then 16 else if code ≤ 6 then 8 else 4

/-- R65: the value of a floating-point element. -/
def elementFloat (code bits : Nat) : FVal :=
  match code with
  | 0 => fp32.decode bits
  | 1 => fp16.decode bits
  | 2 => bf16.decode bits
  | 3 => f8.decode8 bits
  | _ => g8.decode8 bits

/-- R65: the value of an integer element. -/
def elementInt (code bits : Nat) : Int :=
  match code with
  | 5 => signed 8 bits
  | 7 => signed 4 bits
  | _ => (bits : Int)

/-- R67: the exact sum of products of one element, floating-point. The manual gives a sum of products that are all −0 no sign; the
sum starts from +0 (DESIGN CHOICE, log 48). -/
def dotFloat (as bs : List FVal) : FVal := (List.zipWith FVal.mul as bs).foldl (FVal.add .rn) (.fin false 0 0)
/-- R67: the exact sum of products of one element, integer. -/
def dotInt (as bs : List Int) : Int := (List.zipWith (· * ·) as bs).foldl (· + ·) 0

/-- R67: one element after a member's contribution. -/
def applyFloat (t : Word) (x : FVal) : Word :=
  BitVec.ofNat 32 (fp32.round .rn ((fp32.decode t.toNat).add .rn (fp32.decode (fp32.round .rn x))))
/-- R67: wrapping or saturating accumulation. -/
def applyInt (sat : Bool) (t : Word) (x : Int) : Word :=
  BitVec.ofInt 32 (if sat then clampInt (t.toInt + x) (-(2 ^ 31)) (2 ^ 31 - 1) else t.toInt + x)

/-- R67: one member's contribution to a tile of `rows` rows; `clr` takes the old elements as 0. -/
def contribute (fmt : Word) (ps : List LaneVec) (rows : Nat) (clr : Bool) (old : Nat → Nat → Word) : Nat → Nat → Word :=
  let ca := field fmt.toNat 0 4
  let cb := field fmt.toNat 4 4
  let acck := field fmt.toNat 8 2
  let w := elementWidth ca
  let ks := List.range (256 / w)
  let prev := fun m n => if clr then 0 else old m n
  if acck = 0 then
    let a := (List.range rows).map fun m => ks.map fun k => elementFloat ca (panelBits ps 0 w m k)
    let b := (List.range 64).map fun n => ks.map fun k => elementFloat cb (panelBits ps 16 w n k)
    fun m n => applyFloat (prev m n) (dotFloat (a.getD m []) (b.getD n []))
  else
    let a := (List.range rows).map fun m => ks.map fun k => elementInt ca (panelBits ps 0 w m k)
    let b := (List.range 64).map fun n => ks.map fun k => elementInt cb (panelBits ps 16 w n k)
    fun m n => applyInt (acck = 2) (prev m n) (dotInt (a.getD m []) (b.getD n []))

/-- R232, R233: a gang operation's members are applied in gang-list order. -/
def State.applyGang (s : State) (op : GangOp) : Bool → List GangMember → State
  | _, [] => s
  | first, m :: ms =>
    let rows := if op.split then 32 else 64
    let new := contribute op.fmt m.panels rows (op.clr && first) (s.tile op.unit op.tile)
    State.applyGang (s.putTile op.unit op.tile rows new) op false ms

/-- R68: a team's operation has read or written a tile of a unit. -/
def State.useTile (s : State) (team unit tile : Nat) : State :=
  s.modTeam team fun t =>
    let k := 8 * (unit - 8 * t.core) + tile
    { t with tileUse := if t.tileUse.contains k then t.tileUse else t.tileUse ++ [k] }

/-- R227: may a gang operation enter: is it at the head of every member's matrix queue, and does its gang hold the needle
where its team has one? -/
def State.gangReady (s : State) (op : GangOp) : Bool :=
  (op.members.all fun m => match s.group m.gid with
    | some g => !g.saved && (match g.queue matrixQ with | ⟨_, .gang i⟩ :: _ => i = op.id | _ => false)
    | none => false) &&
  (match op.members with
    | m :: _ => match s.group m.gid with
      | some g => dNring (s.descOf g) = 0 || s.needleAt g = op.pos
      | none => false
    | [] => false)

/-- GANG_OPERATION_ENTRY (R227, R232): the operation enters its unit and is applied whole. -/
def execGangOperationEntry (op : Nat) (s : State) : Out :=
  match s.gangOps.find? fun o => o.id = op with
  | none => .next s
  | some o =>
    if !s.gangReady o then .next s
    else
      let s := (s.applyGang o true o.members).useTile o.team o.unit o.tile
      let s := o.members.foldl (fun s m => s.modGroup m.gid fun g => g.opDone matrixQ m.seq) s
      .next { s with gangOps := s.gangOps.filter fun x => x.id ≠ op }

/-- MDRAIN_ENTRY (R238): eight tile rows go to sixteen registers, in every lane. -/
def execMdrainEntry (gid : Nat) (s : State) : Out :=
  match s.group gid with
  | none => .next s
  | some g => match g.queue matrixQ with
    | ⟨seq, .mdrain first tile slice⟩ :: _ =>
      if g.saved then .next s
      else
        let u := s.unitOf g
        let vec := fun r (hi : Nat) => lanes fun i => s.tile u tile (8 * slice + r) (32 * hi + i)
        let write := fun (g : Group) => (List.range 8).foldl
          (fun g r => (g.setV (first + 2 * r) (vec r 0)).setV (first + 2 * r + 1) (vec r 1)) g
        .next ((s.useTile g.team u tile).modGroup gid fun g => (write g).opDone matrixQ seq)
    | _ => .next s

/-- MZERO_ENTRY (R240): the tile, or every tile the owner holds on the unit, becomes zero. -/
def execMzeroEntry (gid : Nat) (s : State) : Out :=
  match s.group gid with
  | none => .next s
  | some g => match g.queue matrixQ with
    | ⟨seq, .mzero all tile⟩ :: _ =>
      if g.saved then .next s
      else
        let ts := if all then List.range (s.tileLimit g) else [tile]
        let s := ts.foldl (fun s t => (s.putTile (s.unitOf g) t (s.tileRows g) fun _ _ => 0).useTile g.team (s.unitOf g) t) s
        .next (s.modGroup gid fun g => g.opDone matrixQ seq)
    | _ => .next s

/-! Tile stores (R239). -/

/-- R239: what MSTORE writes for one element, as the bytes' number: `old` is what memory holds. -/
def StoreTile.value (t : StoreTile) (old : Nat) (w : Word) : Nat :=
  match t.conv with
  | 1 =>
    let x := fp32.decode w.toNat
    bf16.round .rn (if t.add then (bf16.decode old).add .rn x else x)
  | 2 =>
    let i := BitVec.ofInt 32 ((fp32.decode w.toNat).toIntSat .rn (-(2 ^ 31)) (2 ^ 31 - 1))
    (if t.add then BitVec.ofNat 32 old + i else i).toNat
  | _ =>
    (if !t.add then w else if t.i32 then BitVec.ofNat 32 old + w else fadd32 .rn (BitVec.ofNat 32 old) w).toNat

/-- R239: bytes of an element. -/
def StoreTile.esize (t : StoreTile) : Nat := if t.conv = 1 then 2 else 4
/-- Parts of 16 bytes of a row. -/
def StoreTile.rowParts (t : StoreTile) : Nat := 4 * t.esize
/-- The address of part p of row m. -/
def StoreTile.partVa (t : StoreTile) (m p : Nat) : DWord := t.addr + BitVec.ofNat 64 (m * t.pitch + 16 * p)

/-- The parts of a tile store in ascending order: row and part of the row. -/
def StoreTile.parts (t : StoreTile) (rows : Nat) : List (Nat × Nat) :=
  (List.range (rows * t.rowParts)).map fun k => (k / t.rowParts, k % t.rowParts)

/-- R239: where the parts of a tile store go: every place, a wait, or the first failing part's address. -/
inductive TilePlaces where
  | places (l : List (Nat × Nat × MemLoc))
  | wait
  | failed (addr : DWord)
  deriving DecidableEq, Repr

/-- R239: the checks of every part before any is written. -/
def State.tilePlaces (s : State) (g : Group) (t : StoreTile) : List (Nat × Nat) → List (Nat × Nat × MemLoc) → TilePlaces
  | [], acc => .places acc.reverse
  | (m, p) :: rest, acc =>
    if t.scratch then
      State.tilePlaces s g t rest ((m, p, .scratch g.team (t.addr.toNat + m * t.pitch + 16 * p)) :: acc)
    else match s.destPart g ⟨t.partVa m p, none⟩ 16 11 with
      | .inl .wait => .wait
      | .inl _ => .failed (t.partVa m p)
      | .inr pa =>
        if t.add && s.badRange pa 16 then .failed (t.partVa m p)
        else State.tilePlaces s g t rest ((m, p, .phys pa) :: acc)

/-- One part of a tile store is written. -/
def State.writeTilePart (s : State) (vd u : Nat) (t : StoreTile) (m p : Nat) (l : MemLoc) : State :=
  let e := t.esize
  let val := fun j => toBytes e (t.value (ofBytes (s.locBytes (l.plus (e * j)) e)) (s.tile u t.tile m (16 / e * p + j)))
  let bs := (List.range (16 / e)).flatMap val
  (if t.add then s.sendLoc vd l (.load 16) else s).storeLoc vd l bs

/-- MSTORE_ENTRY (R239): the tile is read and written as one update, or nothing is written and the matrix queue's record
takes detail 11. -/
def execMstoreEntry (gid : Nat) (s : State) : Out :=
  match s.group gid with
  | none => .next s
  | some g => match g.queue matrixQ with
    | ⟨seq, .mstore t⟩ :: _ =>
      if g.saved then .next s
      else
        let done := fun (s : State) => s.modGroup gid fun g => g.opDone matrixQ seq
        match s.tilePlaces g t (t.parts (s.tileRows g)) [] with
        | .wait => .next s
        | .failed a => .next (done (s.noteFault gid matrixQ 11 a))
        | .places ps =>
          .next (done ((ps.foldl (fun s x => s.writeTilePart g.vd (s.unitOf g) t x.1 x.2.1 x.2.2) s).useTile g.team (s.unitOf g) t.tile))
    | _ => .next s

end Sys2Proof.Machine
end

