-- ==== Sys2Proof/Machine/Anytime.lean ====
section
/-! DEFINITION. Anytime kernels and sealed versions (19 R244-R262): PASS, SEAL, VREAD, VWAIT, VDONE, the opening of passes,
and the limits that cut a launch (23 R296, 25 R324). -/

namespace Sys2Proof.Machine

/-- Clk in a µs (01 R9: the arithmetic clock). -/
def clkPerUs : Nat := 1500

/-- The header's value at launch start (R245): pins unchanged. -/
def headerReset (h : Nat) : Nat :=
  field h 192 48 * 2 ^ 192 + noVersion + noVersion * 2 ^ 256 + noVersion * 2 ^ 384 + noVersion * 2 ^ 416 + noVersion * 2 ^ 448

/-! Opening a pass (R248-R250). -/

/-- R248: the working slot: the candidate with the lowest VER, none lowest, ties to the lower number. -/
def workingSlot (o h : Nat) : Option Nat :=
  let cand := (List.range (vNslots o)).filter fun k => (hSealver h = noVersion || k ≠ hSealslot h) && hPin h k = 0
  let rank := fun k => (hVer h k + 1) % 2 ^ 32
  cand.foldl (fun m k => match m with | none => some k | some b => if rank k < rank b then some k else some b) none

/-- R250: does PLAN predict that the pass would exceed what remains of a limit? A limit of 0 is none. -/
def State.planExceeds (s : State) (x : Launch) : Bool :=
  let cost := x.sealEnergy
  let e := cost.num * x.openEnergy.den - x.openEnergy.num * cost.den
  let left := dEnergylim x.desc * x.energy.den - x.energy.num
  let overE := dEnergylim x.desc ≠ 0 && left * (cost.den * x.openEnergy.den) < e * x.energy.den
  let t := x.sealClk - x.openClk
  let used := s.clock - x.startClk.getD s.clock
  let overT := dTimelim x.desc ≠ 0 && dTimelim x.desc * clkPerUs - used < t
  overE || overT

/-- R250, R336: the "finish now" decision for pass n: the state after it, and whether the launch finishes, goes on, or waits
for the log. A decision not to finish makes no entry. -/
inductive PlanVerdict where
  | finish (s : State)
  | goOn
  | waits (s : State)
  | diverges (s : State)

/-- R250, R334, R336: PLAN at the opening of pass n, decided once. In replay the log decides: the launch's entry for this pass finishes
it, one for a later pass lets it go on, and any other is a divergence. -/
def State.plan (s : State) (x : Launch) (n : Nat) : PlanVerdict :=
  let entry := logEntry x.seqno (dVobj x.desc).toNat 0 n 0 0 2
  if !dPlan x.desc || n = 0 || x.planned = n + 1 then .goOn
  else if (s.vd x.vd).replay then
    match s.replayFor x.vd entry with
    | some (_, e) =>
      if e = entry then .finish (s.modLaunch x.id fun x => { x with finishNow := true, early := true })
      else if n < field e 32 32 then .goOn
      else .diverges s
    | none => .goOn
  else if !s.planExceeds x then .goOn
  else match s.logDecision (.plan x.id) x.vd entry (dLogmark x.desc) with
    | (s1, .proceed, unlogged) =>
      .finish (s1.modLaunch x.id fun x => { x with finishNow := true, early := true, unrepl := x.unrepl || unlogged })
    | (s1, .waits, _) => .waits s1
    | (s1, .diverges, _) => .diverges s1

/-- R248, R249: the next pass of a launch opens, where version n − 1 is sealed and a slot is free; or the launch finishes. PLAN
decides first, once, and the wait for a slot follows (R249). -/
def State.openPass (s : State) (l : Nat) : State :=
  match s.launch l with
  | none => s
  | some x =>
    let o := s.devRead x.vd (dVobj x.desc) 64
    let h := s.devRead x.vd (vHdraddr o) 64
    let n := x.passes.length
    if !dAnytime x.desc || x.cut.isSome || x.finishNow || s.headerStalls x.vd (dVobj x.desc) || hState h ≠ 0 || hPasscur h ≠ noVersion ||
        !(n = 0 || hSealver h = n - 1) then s
    else match s.plan x n with
      | .finish s1 => s1
      | .waits s1 => s1
      | .diverges s1 => s1.replayDiverges l 2
      | .goOn => match workingSlot o h with
        | none => s.modLaunch l fun x => { x with planned := n + 1 }
        | some k =>
          let h1 := setField (setField (setField (setField h 256 32 n) 240 2 k) 288 32 0) 320 16 0
          let sealed := if hSealver h = noVersion then 0 else BitVec.ofNat 64 (vSlot o (hSealslot h))
          (s.putHeader x.vd o h1).modLaunch l fun x =>
            { x with
              passes := x.passes ++ [(BitVec.ofNat 64 (vSlot o k), sealed)]
              openClk := s.clock, openEnergy := x.energy }

/-- R249: what PASS for pass n gives a group: the slots, "finish now", or a wait. -/
inductive PassRes where
  | open (work sealed : DWord)
  | finish
  | wait
  deriving DecidableEq, Repr

/-- R249: the answer to PASS for pass n. -/
def Launch.passRes (x : Launch) (n : Nat) : PassRes :=
  match x.passes[n]? with
  | some (w, v) => .open w v
  | none => if x.finishNow then .finish else .wait

/-- PASS (R249): for the next pass; the first PASS of a pass opens it where it can be opened. -/
def execPass (a j : BitVec 7) (s : State) : Out :=
  let g := s.grp
  let n := (g.passno + 1).toNat
  let notSealed := match s.team g.team with
    | some t => (match t.sealed with | some k => k < n - 1 | none => true)
    | none => true
  if !s.isAnytime g || 15 < a.toNat || 123 < j.toNat || n = noVersion || (1 ≤ n && notSealed) then .next (s.trapAll causeOperand)
  else match g.launch with
  | none => .next (s.trapAll causeOperand)
  | some l =>
    let res : State → PassRes := fun s => match s.launch l with | some x => x.passRes n | none => .wait
    let s := if res s = .wait then s.openPass l else s
    match res s with
    | .open w v =>
      .next (s.modGrp fun g =>
        { ((g.setQ a.toNat false).setPair j.toNat w).setPair (j.toNat + 2) v with passno := BitVec.ofNat 32 n }).complete
    | .finish => .next (s.modGrp fun g => g.setQ a.toNat true).complete
    | .wait => .next (s.park .pass)

/-- PASS_OPEN (R248): a pass for which a group waits opens, or is decided "finish now". -/
def execPassOpen (l : Nat) (s : State) : Out :=
  if s.groups.any fun g => g.launch = some l && g.wait = some .pass then .next (s.openPass l) else .next s

/-! Sealing (R251-R253). -/

/-- R251: the quality with a further arrival: MIN, SUM, or LAST (the highest TEAMID's). -/
def combineQuality (rule acc q : Nat) (later : Bool) : Nat :=
  match rule with
  | 0 => min acc q
  | 1 => min (acc + q) 0xFFFF
  | _ => if later then q else acc

/-- R336: in replay, a launch is cut when its logged SEALVER has sealed (none: at once), with the status of the entry's
CUTCAUSE. The entry is the launch's own (log 24). -/
def State.replayCut (s : State) (l : Nat) : State :=
  match s.launch l with
  | none => s
  | some x =>
    if !dAnytime x.desc || x.cut.isSome || x.waitCut.isSome || x.diverged.isSome || !(s.vd x.vd).replay then s
    else match s.replayFor x.vd (logEntry x.seqno 0 0 0 0 0 1) with
      | some (_, e) =>
        let h := s.devPeek x.vd (vHdraddr (s.devPeek x.vd (dVobj x.desc) 64)) 64
        let logged := field e 32 32
        if hState h = 0 && (logged = noVersion || (hSealver h ≠ noVersion && logged ≤ hSealver h)) then
          s.cutLaunch l (match field e 8 2 with | 1 => 0x30 | 2 => 0x31 | _ => 0x32)
        else s
      | none => s

/-- R251, R252: the arrival of a team with quality q: one update of the header. -/
def State.sealArrival (s : State) (g : Group) (x : Launch) (q : Nat) : State :=
  let o := s.devRead x.vd (dVobj x.desc) 64
  let h := s.devRead x.vd (vHdraddr o) 64
  let first := hArrived h = 0
  let later := x.sealTeam < g.teamid
  let acc := if first then q else combineQuality (vCombine o) (hQacc h) q later
  let h1 := setField (setField h 320 16 acc) 288 32 (hArrived h + 1)
  let expected := if vExpect o = 0 then dTeams x.desc else vExpect o
  let s := (s.modTeam g.team fun t => { t with sealed := some (hPasscur h) }).modLaunch x.id fun x =>
    { x with sealTeam := if first || later then g.teamid else x.sealTeam }
  if hArrived h + 1 ≠ expected then s.putHeader x.vd o h1
  else
    let n := hPasscur h
    let w := hWorkslot h
    let h2 := setField (setField (setField h1 0 32 n) 32 16 acc) 48 2 w
    let h3 := setField (setField h2 (384 + 32 * w) 32 n) 64 64 s.clock
    let h4 := setField (setField h3 128 64 (x.energy.whole s.free)) 256 32 noVersion
    let s := ((s.bumpFree 1).putHeader x.vd o h4).modLaunch x.id fun x => { x with sealClk := s.clock, sealEnergy := x.energy }
    s.replayCut x.id

/-- SEAL (R251): the store queue drains, the release is made, and the team arrives. -/
def execSeal (a : BitVec 7) (s : State) : Out :=
  let g := s.grp
  let h := s.headerOf g
  let q := if a = 127 then 0 else field (g.ssrc (a.toNat - 112)).toNat 0 16
  let sealed := match s.team g.team with | some t => t.sealed | none => none
  if !s.isAnytime g || a.toNat ≤ 111 then .next (s.trapAll causeOperand)
  else match g.launch.bind s.launch with
  | none => .next (s.trapAll causeOperand)
  | some x =>
    if s.headerStalls g.vd (dVobj x.desc) then .next (s.park (.pages [dVobj x.desc, vHdraddr (s.devRead g.vd (dVobj x.desc) 64)]))
    else if hPasscur h = noVersion || g.passno.toNat ≠ hPasscur h || sealed = some (hPasscur h) then .next (s.trapAll causeOperand)
    else if g.held 0 then .next (s.park (.paths 0))
    else .next (s.drainOwn.sealArrival g x q).complete

/-! Readers (R255-R258). -/

/-- What reading a version object gives: descriptor, header and where the header stands; or a stop. -/
inductive VersionRes where
  | ok (o h pa : Nat)
  | stop (s : State)

/-- R256: the descriptor is read as a load, with the group's own queued stores (R182), once its earlier loads are performed (R181,
R185: `loadsFirst`). The header's place is translated for the access: under .PIN for a store, also where nothing turns out to be
readable and no pin is made (DESIGN CHOICE, log 58). -/
def State.readVersion (s : State) (va : DWord) (acc : Access) : VersionRes :=
  let g := s.grp
  let clear := fun (s : State) => s.modGrp fun g => { g with remote := none }
  match s.readVa g 0 va 64 with
  | .fault c d => .stop ((clear s).trap c d g.exec va)
  | .park w => .stop (s.parkRead w)
  | .value _ o =>
    let hva := vHdraddr o
    match s.readVa g 1 hva 64 with
    | .fault c d => .stop ((clear s).trap c d g.exec hva)
    | .park w => .stop (s.parkRead w)
    | .value pa h =>
      if acc ≠ .store then .ok o h pa
      else match s.translate g.agent g.vd acc hva with
      | .fault d => .stop ((clear s).trap causePage (0x10 + d) g.exec hva)
      | .stall => .stop (s.park (.pages [hva]))
      | .ok pa => .ok o h (s.alias pa)

/-- R256, R346: one update of a header's pin: a request leaves where the header lies at a peer. -/
def State.putPin (s : State) (pa h k pin : Nat) : State :=
  s.storeLoc s.grp.vd (.phys pa) (toBytes 64 (setField h (192 + 16 * k) 16 pin))

/-- R256: the header is read and, where asked and possible, the slot pinned: one update; S[j] … S[j+3] take the result. -/
def State.versionRead (s : State) (o h pa : Nat) (pin : Bool) (j : Nat) : State :=
  let r := readable o h
  let k := hSealslot h
  let pinned := r && pin && hPin h k < 0xFFFF
  let s := if pinned then s.putPin pa h k (hPin h k + 1) else s
  let v := if r then hSealver h else noVersion
  let w := (if r then hQuality h else 0) + hState h * 2 ^ 16 + hCutcause h * 2 ^ 18 + (if pinned then 2 ^ 20 else 0) + k * 2 ^ 21
  let addr := if r then vSlot o k else 0
  s.modGrp fun g =>
    { (((g.setS j (BitVec.ofNat 32 v)).setS (j + 1) (BitVec.ofNat 32 w)).setPair (j + 2) (BitVec.ofNat 64 addr)) with remote := none }

/-- R256: does VWAIT go on: a readable version of the demanded quality, or the producer no longer running? -/
def versionReady (o h demand : Nat) : Bool := (readable o h && demand ≤ hQuality h) || hState h ≠ 0

/-- VREAD (R256). -/
def execVread (a : BitVec 7) (p : BitVec 1) (j : BitVec 7) (s : State) : Out :=
  if a.toNat < 112 || 125 < a.toNat || 123 < j.toNat then .next (s.trapAll causeOperand)
  else
    let s := s.loadsFirst
    match s.readVersion (s.grp.spairSrc (a.toNat - 112)) (if p = 1 then .store else .load) with
    | .stop t => .next t
    | .ok o h pa => .next (s.versionRead o h pa (p = 1) j.toNat).complete

/-- VWAIT (R256): parks until a readable version of the demanded quality, or the end of the producer. -/
def execVwait (a : BitVec 7) (p : BitVec 1) (j : BitVec 7) (s : State) : Out :=
  if a.toNat < 112 || 124 < a.toNat || 123 < j.toNat then .next (s.trapAll causeOperand)
  else
    let s := s.loadsFirst
    let va := s.grp.spairSrc (a.toNat - 112)
    let demand := field (s.grp.ssrc (a.toNat - 110)).toNat 0 16
    match s.readVersion va (if p = 1 then .store else .load) with
    | .stop t => .next t
    | .ok o h pa =>
      if versionReady o h demand then .next (s.versionRead o h pa (p = 1) j.toNat).complete
      else .next (s.park (.version va demand))

/-- VDONE (R258): the group's accesses are performed, and the slot's pin falls by 1 in one update, a release. -/
def execVdone (a m : BitVec 7) (s : State) : Out :=
  if a.toNat < 112 || 125 < a.toNat || 126 < m.toNat then .next (s.trapAll causeOperand)
  else if s.grp.held 0 then .next (s.park (.paths 0))
  else
    let s := s.drainOwn
    match s.readVersion (s.grp.spairSrc (a.toNat - 112)) .store with
    | .stop t => .next t
    | .ok o h pa =>
      let k := field (s.grp.ssrc m.toNat).toNat 21 2
      let s := s.modGrp fun g => { g with remote := none }
      if vNslots o ≤ k || hPin h k = 0 then .next (s.trapAll causeOperand)
      else .next (s.putPin pa h k (hPin h k - 1)).complete

/-! Limits (R247, R260, R296, R324, R336). -/

/-- Has a launch's time limit run out (R247: real time from the first issue)? -/
def State.timeOver (s : State) (x : Launch) : Bool :=
  match x.startClk with
  | some c => dTimelim x.desc ≠ 0 && c + dTimelim x.desc * clkPerUs ≤ s.clock
  | none => false

/-- R296: has a launch's attributed energy reached its limit? -/
def Launch.energyOver (x : Launch) : Bool :=
  dEnergylim x.desc ≠ 0 && dEnergylim x.desc * x.energy.den ≤ x.energy.num

/-- TIME_LIMIT_EXPIRY (R324, R260): the launch is cut; ignored in replay (R336). -/
def execTimeLimitExpiry (l : Nat) (s : State) : Out :=
  match s.launch l with
  | some x => if s.timeOver x && !(s.vd x.vd).replay then .next (s.cutLaunch l 0x30) else .next s
  | none => .next s

/-- ENERGY_LIMIT_REACHED (R296, R324, R260): the launch is cut; ignored in replay (R336). -/
def execEnergyLimitReached (l : Nat) (s : State) : Out :=
  match s.launch l with
  | some x => if x.energyOver && !(s.vd x.vd).replay then .next (s.cutLaunch l 0x31) else .next s
  | none => .next s

end Sys2Proof.Machine
end

