-- ==== Sys2Proof/Machine/Skein.lean ====
section
/-! DEFINITION. Skeins, combiner groups, task nodes and dependences (21 R263-R279): POST, REPLY, CDONE, ENQ and SIGNAL, the
arrival of records at their home, the skein's states, and the groups skeins fire. -/

namespace Sys2Proof.Machine

/-! Owners and homes. -/

/-- R313: does the device own the partition of a core? -/
def State.ownsPart (s : State) (vd core part : Nat) : Bool :=
  match nget .free s.quads (4 * core + part / 8) with
  | .free => false
  | .whole v => v = vd
  | .halves a b => (if part % 8 < 4 then a else b) = some vd

/-- Does the device hold a quadrant or half-quadrant of the core? -/
def State.holdsCore (s : State) (vd core : Nat) : Bool := (List.range 8).any fun h => s.ownsPart vd core (4 * h)

/-- R329, R350: the physical core that serves as core `n`. -/
def State.coreAt (s : State) (n : Nat) : Nat := match nget 0 s.remap n with | 0 => n | k + 1 => k

/-- Does an entry of a ring of frame addresses name this frame? -/
def State.ringHolds (s : State) (r : Ring) (frame : Nat) : Bool :=
  r.enabled && (List.range r.used).any fun i => s.num (s.alias (r.entry 8 (r.cons + BitVec.ofNat 32 i))) 8 / 0x10000 = frame

/-- The devices that have a block with something in it. -/
def State.vdList (s : State) : List Nat := s.vds.map fun p => p.1

/-- R352: the owner of the frame of a local physical address. -/
def State.frameOwner (s : State) (a : Nat) : Option Nat :=
  if bulkBase ≤ a then s.vdList.find? fun v => (s.vd v).groups.contains ((a - bulkBase) / 0x800000000)
  else
    let f := a / 0x10000
    let streams := s.vdList.find? fun v =>
      s.ringHolds (s.vd v).vaults f || (s.vd v).vaultFree.contains (f * 0x10000) || s.ctxs.any fun c => c.vd = v && c.frames.any fun e => e.2.contains (f * 0x10000)
    streams.or (s.vdList.find? fun v => (s.vd v).vaultsHeld.contains (a / 0x4000000))

/-- R302: something wakes the device: a collapse stops where it stands. -/
def State.wakeDev (s : State) (vd : Nat) : State :=
  s.modVd vd fun d =>
    { d with idleSince := none, pstate := match d.pstate with | .collapsing => .waking | .collapsed => .waking | p => p }

/-! Object and node descriptors (R263, R264). -/

/-- VAULT: the home core's number. -/
def oVault (o : Nat) : Nat := field o 128 8
/-- DEV. -/
def oDev (o : Nat) : Nat := field o 136 10
/-- REMOTE. -/
def oRemote (o : Nat) : Bool := field o 146 1 = 1
/-- REQSIZE. -/
def oReq (o : Nat) : Nat := field o 160 5
/-- RPLSIZE. -/
def oRpl (o : Nat) : Nat := field o 165 5
/-- STATE: BROKEN. -/
def oBroken (o : Nat) : Bool := field o 193 1 = 1
/-- BATCHES. -/
def oBatches (o : Nat) : Nat := field o 224 32
/-- SELF. -/
def oSelf (o : Nat) : Nat := field o 288 64
/-- RECSIZE of a node. -/
def nRec (n : Nat) : Nat := field n 72 5
/-- HOME of a node. -/
def nHome (n : Nat) : Nat := field n 64 8

/-- COUNT of an object or a node. -/
def skCount (node : Bool) (d : Nat) : Nat := if node then field d 77 6 else field d 170 6
/-- TIMER. -/
def skTimer (node : Bool) (d : Nat) : Nat := if node then field d 96 16 else field d 176 16
/-- REGS. -/
def skRegs (node : Bool) (d : Nat) : Nat := if node then field d 83 5 else field d 196 5
/-- ENTRY. -/
def skEntry (node : Bool) (d : Nat) : DWord := BitVec.ofNat 64 (if node then field d 0 64 else field d 64 64)

/-- A size field: 0, 4, 8, 12 or 16. -/
def sizeLegal (n : Nat) : Bool := n % 4 = 0 && n ≤ 16
/-- COUNT, TIMER and REGS within their limits. -/
def skLegal (node : Bool) (d : Nat) : Bool :=
  1 ≤ skCount node d && skCount node d ≤ 32 && 1 ≤ skTimer node d && 1 ≤ skRegs node d && skRegs node d ≤ 16

/-- R263, R265: an object descriptor keeps its rules. -/
def objectLegal (o : Nat) : Bool :=
  field o 147 13 = 0 && field o 194 2 = 0 && field o 201 23 = 0 && field o 352 160 = 0 && sizeLegal (oReq o) &&
    sizeLegal (oRpl o) && skLegal false o && (oRemote o || oDev o = 0) && (!oRemote o || field o 192 1 = 1) &&
    oSelf o ≠ 0 && oSelf o % 64 = 0

/-- R264: a node descriptor keeps its rules. -/
def nodeLegal (n : Nat) : Bool :=
  field n 88 8 = 0 && field n 112 16 = 0 && field n 192 320 = 0 && sizeLegal (nRec n) && skLegal true n

/-! POST, ENQ and SIGNAL at issue (R265, R273, R274, R278, R279). -/

/-- A run whose size may be 0 (R273). -/
def sizedRun (f size : Nat) (write : Bool) : List Opnd := if size = 0 then [] else [{ f := f, k := size / 4, write := write }]

/-- The words of a lane's run of `size` bytes. -/
def Group.recordWords (g : Group) (f size lane : Nat) : List Word :=
  (List.range (size / 4)).map fun j => g.lane (f + j) lane

/-- What reading a descriptor at issue gives: its virtual and physical address and its content, or a stop. -/
inductive DescRes where
  | ok (va : DWord) (pa o : Nat)
  | stop (s : State)

/-- R265: POST and ENQ read the descriptor at S[n+1] ‖ S[n] as a load, once the group's earlier loads are performed (R181:
`loadsFirst`). One that does not lie at a multiple of 64 breaks R263 or R264. -/
def State.readDesc (s : State) (n : Nat) : DescRes :=
  let g := s.grp
  let va := g.spairSrc n
  if va.toNat % 64 ≠ 0 then .stop (s.trapAll causeOperand)
  else match s.readVa g 0 va 64 with
    | .fault c d => .stop ((s.modGrp fun g => { g with remote := none }).trap c d g.exec va)
    | .park w => .stop (s.parkRead w)
    | .value pa o => .ok va pa o

/-- R333: the identity of a lane's post: launch, team, group, lane, and how often the lane had posted. -/
def State.postIdent (s : State) (g : Group) (l : LaneRecord) : List Nat :=
  let seqno := match g.launch.bind s.launch with | some x => x.seqno | none => 0
  [seqno, g.teamid, g.groupid, l.lane, l.posts]

/-- POST (R274). -/
def execPost (d a : BitVec 7) (r : BitVec 1) (j : BitVec 7) (s : State) : Out :=
  let s := s.loadsFirst
  let g := s.grp
  let waits := r = 1
  if 125 < j.toNat then .next (s.trapAll causeOperand)
  else match s.readDesc j.toNat with
  | .stop t => .next t
  | .ok va pa o =>
    let s := s.tlbFill g.agent g.vd .load va
    let home := if inPeer pa then peerDevice pa else s.domid
    if inHost pa || !objectLegal o || (0 < oRpl o && !waits) || (if oRemote o then oDev o ≠ home else home ≠ s.domid) ||
        (oReq o = 0 && a ≠ 0) || (waits && oRpl o = 0 && d ≠ 0) then .next (s.trapAll causeOperand)
    else match g.vecFault (sizedRun a.toNat (oReq o) false ++ (if waits then sizedRun d.toNat (oRpl o) true else [])) with
    | some c => .next (s.trapAll c)
    | none =>
      let s := s.modGrp fun g => { g with remote := none }
      if s.isDet g && !g.committed then .next (s.trap causeWrite 1 g.exec va)
      else if oBroken o then .next (s.trap causeBroken 0 g.exec va)
      else if g.held (postQ + 1) then .next (s.park (.paths (postQ + 1)))
      else
        let rec_ := fun i => ({ lane := i, words := g.recordWords a.toNat (oReq o) i, posts := nget 0 g.posts i } : LaneRecord)
        let s := ((s.qfenceDrain (postQ + 1)).enqueue postQ (.post va pa waits s.clock ((lanesOf g.exec).map rec_))).modGrp fun h =>
          { h with posts := (lanesOf g.exec).foldl (fun m i => nset 0 m i (nget 0 m i + 1)) h.posts }
        if waits then
          .next (s.park (.reply va pa (if oRpl o = 0 then .none else g.destOf false d.toNat (oRpl o / 4)) (oRpl o) g.exec s.clock []))
        else .next s.complete

/-- R278: the address of each lane's block, and the lanes whose block is misaligned. -/
def Group.blockAddr (g : Group) (f lane : Nat) : DWord := pair (g.lane (f + 1) lane) (g.lane f lane)

/-- The trap of the lanes whose block is misaligned (R278). -/
def Group.blockTrap (g : Group) (f : Nat) : Option AccessTrap :=
  accessTrap ((lanesOf g.exec).filterMap fun i =>
    let b := g.blockAddr f i
    if b.toNat % 32 = 0 then none else some (i, .trap 0 causeMisaligned 0 b))

/-- The lanes whose block is aligned. -/
def Group.blockLanes (g : Group) (f : Nat) : List Nat := (lanesOf g.exec).filter fun i => (g.blockAddr f i).toNat % 32 = 0

/-- ENQ and ENQ.DEP (R278). -/
def execEnq (d a : BitVec 7) (e : BitVec 1) (j : BitVec 7) (s : State) : Out :=
  let s := s.loadsFirst
  let g := s.grp
  let dep := e = 1
  if (if dep then 124 else 125) < j.toNat then .next (s.trapAll causeOperand)
  else match s.readDesc j.toNat with
  | .stop t => .next t
  | .ok va pa o =>
    let s := s.tlbFill g.agent g.vd .load va
    if !nodeLegal o || !s.holdsCore g.vd (s.coreAt (nHome o)) || (nRec o = 0 && a ≠ 0) then .next (s.trapAll causeOperand)
    else match g.vecFault (sizedRun a.toNat (nRec o) false ++ (if dep then [rdRun d.toNat 2] else [])) with
    | some c => .next (s.trapAll c)
    | none =>
      let s := s.modGrp fun g => { g with remote := none }
      if g.held (postQ + 1) then .next (s.park (.paths (postQ + 1)))
      else if dep then
        let lane := fun i => ({ lane := i, block := g.blockAddr d.toNat i, words := g.recordWords a.toNat (nRec o) i } : DepLane)
        let ls := g.blockLanes d.toNat
        let s := if ls.isEmpty then s
          else (s.qfenceDrain (postQ + 1)).enqueue postQ (.enqDep va (g.ssrc (j.toNat + 2)) (ls.map lane))
        .next (s.finishAccess false (g.blockTrap d.toNat) State.complete)
      else
        let rec_ := fun i => ({ lane := i, words := g.recordWords a.toNat (nRec o) i } : LaneRecord)
        .next ((s.qfenceDrain (postQ + 1)).enqueue postQ (.enq va pa ((lanesOf g.exec).map rec_))).complete

/-- SIGNAL (R279). -/
def execSignal (a : BitVec 7) (z : BitVec 1) (s : State) : Out :=
  let g := s.grp
  match g.vecFault [rdRun a.toNat 2] with
  | some c => .next (s.trapAll c)
  | none =>
    if g.held (postQ + 1) then .next (s.park (.paths (postQ + 1)))
    else
      let lane := fun i => ({ lane := i, block := g.blockAddr a.toNat i, words := [] } : DepLane)
      let ls := g.blockLanes a.toNat
      let s := if ls.isEmpty then s else (s.qfenceDrain (postQ + 1)).enqueue postQ (.signal (z = 1) s.clock (ls.map lane))
      .next (s.finishAccess false (g.blockTrap a.toNat) State.complete)

/-! Skeins (R266, R267). -/

/-- The content of the descriptor a skein is bound to. -/
def State.skDesc (s : State) (x : Skein) : Nat := s.num x.desc 64

/-- R336, R40: is the skein's timer ignored: its device is in replay, unless the records are those of DET launches? -/
def State.skReplay (s : State) (x : Skein) : Bool := (s.vd x.vd).replay && !(x.held.all fun r => r.det)

/-- R267, R332: the batch that COUNT or the end of a DET launch's POST makes of the held records, if one does. -/
def Skein.fullBatch (x : Skein) (count : Nat) : Option Nat :=
  match (x.held.take count).findIdx? fun r => r.det && r.postEnd with
  | some i => some (i + 1)
  | none => if count ≤ x.held.length then some count else none

/-- R267, R332, R336: how many of the held records are to fire now, if any. In replay an object fires at the logged N; a node's batches
have no log entries (R333), so that a node then fires at COUNT alone (DEDUCED, log 24). -/
def State.skDue (s : State) (x : Skein) : Option Nat :=
  let full := x.fullBatch (max 1 (skCount x.node (s.skDesc x)))
  if x.held.isEmpty then none
  else if s.skReplay x then
    if x.node then full else
    match s.replayEntry x.vd 3 with
    | some (_, e) =>
      if field e 128 64 = oSelf (s.skDesc x) then
        (if field e 10 6 ≤ x.held.length then some (max 1 (field e 10 6)) else none)
      else none
    | none => full
  else full.or (if x.expired && !(x.held.any fun r => r.det) then some x.held.length else none)

/-- R267: a skein in FILL moves to FIRE where its batch is due. What it still holds gets the timer anew then, and `expired` falls: the
manual does not say which timer the rest has (DESIGN CHOICE, log 57). -/
def State.skTurn (s : State) (k : Nat) : State :=
  let x := s.skein k
  if x.state ≠ .fill then s
  else match s.skDue x with
    | none => s
    | some n =>
      let rest := x.held.drop n
      s.modSkein k fun x =>
        { x with
          state := .fire, batch := x.held.take n, held := rest, replies := [], unlogged := false
          expired := false
          deadline := if rest.isEmpty then none else some (s.clock + skTimer x.node (s.skDesc x)) }

/-- R267: a skein whose group is placed (a node's) or gone (a combiner's) goes on: FREE, FILL, or FIRE again. -/
def State.skAgain (s : State) (k : Nat) : State :=
  if (s.skein k).held.isEmpty then s.modSkein k fun _ => {}
  else (s.modSkein k fun x => { x with state := .fill, batch := [], gid := 0, firstIssue := none }).skTurn k

/-- The skein of a core bound to this descriptor, or else a free one. -/
def State.skFind (s : State) (core : Nat) (node : Bool) (desc : Nat) : Option Nat :=
  let ks := (List.range 64).map fun n => 64 * core + n
  (ks.find? fun k => let x := s.skein k; x.state ≠ .free && x.node = node && x.desc = desc).or
    (ks.find? fun k => (s.skein k).state = .free)

/-- R266, R264: may the skein take the record now? A node's skein is one device's until it has fired and is free again. -/
def Skein.takes (x : Skein) (r : SkRecord) : Bool :=
  x.state = .free || (x.held.length < 32 && (!x.node || x.vd = r.vd))

/-- R267: the skein takes the record. -/
def State.skAccept (s : State) (k : Nat) (node : Bool) (desc owner : Nat) (r : SkRecord) : State :=
  let timer := s.clock + skTimer node (s.num desc 64)
  let s := s.modSkein k fun x =>
    if x.state = .free then
      { state := .fill, node := node, desc := desc, vd := owner, held := [r], deadline := some timer }
    else
      { x with
        held := x.held ++ [r], vd := owner
        deadline := if x.held.isEmpty then some timer else x.deadline }
  (s.wakeDev owner).skTurn k

/-- What becomes of a record at its home: it is accepted, waits, or is answered with an error (R263, R264, R274). -/
inductive AdmitRes where
  | done (s : State)
  | wait

/-- R264, R266, R272, R274: a record at its home. -/
def State.tryAdmit (s : State) (w : Waiting) : AdmitRes :=
  if w.node then
    if !s.holdsCore w.item.vd (s.coreAt w.core) then .wait
    else match s.skFind w.core true w.desc with
      | some k => if (s.skein k).takes w.item then .done (s.skAccept k true w.desc w.item.vd w.item) else .wait
      | none => .wait
  else match s.frameOwner w.desc with
    | none => .done (s.answerError w.desc w.item 1 false)
    | some v =>
      if !s.holdsCore v (s.coreAt w.core) then .done (s.answerError w.desc w.item 1 false)
      else if oBroken (s.num w.desc 64) then .done (s.answerError w.desc w.item 0 false)
      else match s.skFind w.core false w.desc with
        | some k => if (s.skein k).takes w.item then .done (s.skAccept k false w.desc v w.item) else .wait
        | none => .wait

/-- R266, R268: does a record that still waits keep this later one waiting: for the same object, or the same node and device? -/
def Waiting.before (u w : Waiting) : Bool :=
  u.core = w.core && u.node = w.node && u.desc = w.desc && (!w.node || u.item.vd = w.item.vd)

/-- R266: the waiting records are looked at in arrival order; each that can be accepted is. -/
def admitFrom : List Waiting → State → State
  | [], s => s
  | w :: ws, s =>
    if s.waiting.any fun u => u.before w then admitFrom ws { s with waiting := s.waiting ++ [w] }
    else match s.tryAdmit w with
    | .done t => admitFrom ws t
    | .wait => admitFrom ws { s with waiting := s.waiting ++ [w] }

/-- Every waiting record is looked at again. -/
def State.admitAll (s : State) : State := admitFrom s.waiting { s with waiting := [] }

/-- R267, R336: skeins that wait for their turn in a replay are looked at again. -/
def State.skTurnAll (s : State) : State := (s.skeins.map fun p => p.1).foldl State.skTurn s

/-- A record arrives at its home on this device. -/
def State.arriveHome (s : State) (w : Waiting) : State := { s with waiting := s.waiting ++ [w] }.admitAll

/-- R325 step 5: the first lane of the post queue's head is done: the operation has begun, or is over. -/
def Group.postStep (g : Group) (seq : Nat) (rest : Option (List EngineOp)) : Group :=
  match rest with
  | none => { g.opDone postQ seq with postBegun := none }
  | some ops => { g.setQueue postQ ops with postBegun := some seq }

/-- R331, R268: does an earlier holder of the token still have posts of the launch queued, so that this group's wait? -/
def State.postWaits (s : State) (g : Group) (since : Nat) : Bool :=
  s.isDet g && s.groups.any fun h => h.id ≠ g.id && h.launch = g.launch && (h.queue postQ).any fun o => match o.kind with
    | .post _ _ _ t _ => t < since
    | _ => false

/-- R268: the head lane of a group's POST or ENQ leaves the post queue for its home. A post to a peer leaves the device with its
launch, team, group, lane and count of posts, the .R flag, the LOGMARK bit, DET and whether it ends its POST (R274, R332, R333, R335). A
node's HOME is read anew from its
descriptor as the record leaves, and COUNT, TIMER, REGS and ENTRY where its skein uses them (R265 has ENQ read the descriptor at issue
and names no later reading: DESIGN CHOICE, log 55). -/
def State.postArrival (s : State) (g : Group) : State :=
  match g.queue postQ with
  | ⟨seq, .post va pa reply since (l :: ls)⟩ :: rest =>
    let last := ls.isEmpty
    if s.postWaits g since then s
    else
    let s := s.modGroup g.id fun g => g.postStep seq (if last then none else some (⟨seq, .post va pa reply since ls⟩ :: rest))
    let d := s.descOf g
    let ident := s.postIdent g l
    if inPeer pa then
      s.sendPeer g.vd pa (.post [(l.lane, l.posts, l.words)] (ident.getD 0 0) (ident.getD 1 0) (ident.getD 2 0)
        { reply := reply, logMark := dLogmark d, det := dDet d, postEnd := last })
    else
      let item : SkRecord :=
        { words := l.words, vd := g.vd, gid := g.id, lane := l.lane, launch := g.launch, ident := ident
          reply := reply, logmark := dLogmark d, det := dDet d, postEnd := last }
      s.arriveHome { core := oVault (s.num pa 64), node := false, desc := pa, item := item }
  | ⟨seq, .enq va pa (l :: ls)⟩ :: rest =>
    let s := s.modGroup g.id fun g => g.postStep seq (if ls.isEmpty then none else some (⟨seq, .enq va pa ls⟩ :: rest))
    s.arriveHome
      { core := nHome (s.num pa 64), node := true, desc := pa
        item := { words := l.words, vd := g.vd, gid := g.id, lane := l.lane, addr := va } }
  | _ => s

/-- R278, R279: the oldest record of a dependence block whose NODE can be read goes to its home. -/
def State.dependenceArrival (s : State) : State :=
  let where_ := fun (w : Waiting) => match s.devTranslate w.item.vd .load w.item.addr with | .ok pa => some pa | _ => none
  match s.depRecords.find? fun w => (where_ w).isSome with
  | none => s
  | some w => match where_ w with
    | none => s
    | some pa =>
      let n := s.num pa 64
      let s := { s with depRecords := s.depRecords.erase w }
      s.arriveHome
        { core := nHome n, node := true, desc := pa, item := { w.item with words := w.item.words.take (nRec n / 4) } }

/-- SKEIN_RECORD_ARRIVAL (R267): a group's head record, or one that a dependence block has enqueued. A peer's posts arrive
with its request (PEER_REQUEST): what then still waits at the home is looked at again. -/
def execSkeinRecordArrival (src : RecordSource) (s : State) : Out :=
  match src with
  | .group gid => match s.group gid with
    | some g => if g.saved then .next s else .next (s.postArrival g)
    | none => .next s
  | .dependence => .next s.dependenceArrival
  | .peer => .next s.admitAll

/-- SKEIN_TIMER_EXPIRY (R267): not where the skein collects a DET launch's posts (R332), nor in replay (R336). -/
def execSkeinTimerExpiry (k : Nat) (s : State) : Out :=
  let x := s.skein k
  match x.deadline with
  | none => .next s
  | some c =>
    if s.clock < c || (x.held.any fun r => r.det) || s.skReplay x then .next s
    else .next ((s.modSkein k fun x => { x with deadline := none, expired := true }).skTurn k)

/-! Placing a group (R28, R40, R269). -/

/-- R28: the groups resident on a partition. -/
def State.residents (s : State) (core part : Nat) : List Group :=
  s.groups.filter fun g => g.live && !g.saved && g.core = core && g.part = part

/-- R28: the lowest run of `regs` free physical registers of a partition beside these runs (first register, length). Runs start at
multiples of 16, the unit of ALLOC (log 25). -/
def freeRun (runs : List (Nat × Nat)) (regs : Nat) : Option Nat :=
  ((List.range 16).map (16 * ·)).find? fun b => b + regs ≤ 256 && runs.all fun r => r.1 + r.2 ≤ b || b + regs ≤ r.1

/-- R28: the runs of a partition's residents. -/
def State.runsAt (s : State) (core part : Nat) : List (Nat × Nat) := (s.residents core part).map fun g => (g.base, g.alloc)

/-- R28: is there a free slot of this number on the partition, with one run of registers? -/
def State.roomAt (s : State) (core part slot regs : Nat) : Bool :=
  slot < 16 && ((s.residents core part).all fun g => g.slot ≠ slot) && (freeRun (s.runsAt core part) regs).isSome

/-- R269: the group a batch starts: a team of one group (R40), in no launch's grid, so that TEAMID reads 0 and NTEAMS 1 (DESIGN
CHOICE, log 48). A node descriptor has no SELF: s0 and s2 of a node's group hold the virtual address by which the batch's first record
named it (DESIGN CHOICE, log 57). -/
def State.batchGroup (s : State) (k core part slot : Nat) (x : Skein) (d : Nat) : Group :=
  let n := x.batch.length
  let word := fun j => lanes fun i => match x.batch[i]? with | some r => r.words.getD j 0 | none => 0
  let token := lanes fun i => match x.batch[i]? with | some r => r.token | none => 0
  let self := if x.node then (match x.batch with | r :: _ => r.addr | [] => 0) else BitVec.ofNat 64 (oSelf d)
  let g : Group :=
    { id := s.nextGid, live := true, kind := if x.node then .node else .combiner k, vd := x.vd, team := s.nextTeam
      ngroups := 1, nteams := 1, core := core, part := part, slot := slot, lcore := core, alloc := 16 * skRegs x.node d
      base := (freeRun (s.runsAt core part) (16 * skRegs x.node d)).getD 0
      exec := maskOf fun i => decide (i < n)
      pc := skEntry x.node d, stv := (s.vd x.vd).stv, readySince := s.clock }
  let g := (((g.setV 0 (word 0)).setV 1 (word 1)).setV 2 (word 2)).setV 3 (word 3)
  let g := if x.node then g else g.setV 4 token
  let g := ((g.setS 0 (lo32 self)).setS 2 (hi32 self)).setS 1 (BitVec.ofNat 32 n)
  if x.node then g else g.setS 3 (BitVec.ofNat 32 (oBatches d))

/-- R269: the tokens of a batch: opaque numbers, no two alike. -/
def tokenise (base : Word) : Nat → List SkRecord → List SkRecord
  | _, [] => []
  | i, r :: rs => { r with token := base + BitVec.ofNat 32 i } :: tokenise base (i + 1) rs

/-- R335: the launches whose posts in an unlogged batch do not wait for a reply get a notice each, here or at a peer. -/
def State.markBatch (s : State) (x : Skein) : State :=
  let mine := x.batch.filter fun r => !r.reply
  let ls := (mine.filter fun r => !r.peer).filterMap fun r => r.launch
  let far := ((mine.filter fun r => r.peer).map fun r => (r.domid, r.ident.headD 0)).eraseDups
  { s with marks := s.marks ++ ls.eraseDups, hostOut := s.hostOut ++ far.map fun p => .peerNotice p.1 p.2 }

/-- R268, R333-R336: the log entry of a batch boundary: none for a node, nor for a batch of DET launches' posts. -/
def State.logBatch (s : State) (k : Nat) (x : Skein) (d : Nat) : State × LogVerdict × Bool :=
  if x.node || (x.batch.all fun r => r.det) then (s, .proceed, false)
  else
    let sig := (Config.batchSignature (x.batch.map fun r => r.ident)).toNat
    s.logDecision (.batch k) x.vd (logEntry 0 (oSelf d) sig (oBatches d) x.batch.length 0 3) (x.batch.all fun r => r.logmark)

/-- R40, R269: the batch's group is placed. -/
def State.placeBatch (s : State) (k core part slot : Nat) : State :=
  let d := s.skDesc (s.skein k)
  let base := Config.requesterToken s.free
  let s := (s.bumpFree 1).modSkein k fun x => { x with batch := tokenise base 0 x.batch }
  let g := s.batchGroup k core part slot (s.skein k) d
  let desc := (s.skein k).desc
  let s := { s with others := s.others ++ [g], nextGid := s.nextGid + 1, nextTeam := s.nextTeam + 1 }
  if (s.skein k).node then (s.putAt (s.skein k).vd desc 64 (setField d 160 32 (field d 160 32 + 1))).skAgain k
  else s.modSkein k fun x => { x with state := .run, gid := g.id, firstIssue := none }

/-- SKEIN_FIRE (R40, R267-R269): the group of a firing skein is placed, where its home's partitions have room and its device
is awake. -/
def execSkeinFire (k part slot : Nat) (s : State) : Out :=
  let x := s.skein k
  let core := s.coreAt (k / 64)
  let d := s.skDesc x
  if x.state ≠ .fire || 32 ≤ part || !s.ownsPart x.vd core part || !s.roomAt core part slot (16 * skRegs x.node d) ||
      (s.vd x.vd).pstate ≠ .awake then .next s
  else match s.logBatch k x d with
    | (s1, .proceed, unlogged) =>
      let s2 := if unlogged then (s1.markBatch x).modSkein k fun x => { x with unlogged := true } else s1
      .next (s2.placeBatch k core part slot).skTurnAll
    | (s1, .waits, _) => .next s1
    | (s1, .diverges, _) => .next ((x.batch.filterMap fun r => r.launch).foldl (fun s l => s.replayDiverges l 3) s1)

/-! REPLY and CDONE (R275, R276). -/

/-- The position of a token in a batch. -/
def tokenAt (b : List SkRecord) (t : Word) : Option Nat := b.findIdx? fun r => r.token = t

/-- R95: do REPLY's fields, or the group it runs in, give its trap? -/
def State.replyFields (s : State) (d a : BitVec 7) : Bool :=
  match s.grp.kind with
  | .combiner k =>
    let rpl := oRpl (s.skDesc (s.skein k))
    (rpl = 0 && a ≠ 0) || (s.grp.vecFault (rd d.toNat :: sizedRun a.toNat rpl false)).isSome
  | _ => true

/-- REPLY (R275): records each lane's reply; the highest lane wins. -/
def execReply (d a : BitVec 7) (s : State) : Out :=
  let g := s.grp
  match g.kind with
  | .combiner k =>
    let x := s.skein k
    let rpl := oRpl (s.skDesc x)
    if rpl = 0 && a ≠ 0 then .next (s.trapAll causeOperand)
    else match g.vecFault (rd d.toNat :: sizedRun a.toNat rpl false) with
    | some c => .next (s.trapAll c)
    | none =>
      let pos := fun i => tokenAt x.batch (g.lane d.toNat i)
      let bad := maskOf fun i => hasLane g.exec i && (pos i).isNone
      let replies := (lanesOf g.exec).filterMap fun i => (pos i).map fun p => (p, g.recordWords a.toNat rpl i)
      let s := s.modSkein k fun x =>
        { x with replies := replies.foldl (fun l r => (l.filter fun e => e.1 ≠ r.1) ++ [r]) x.replies }
      .next (if bad = 0 then s.complete else s.trap causeOperand 0 bad 0)
  | _ => .next (s.trapAll causeOperand)

/-- R276: the replies of a batch are delivered, with the unlogged mark where the batch was not logged (R335). -/
def State.deliver (s : State) (x : Skein) (rpl : Nat) : Nat → List SkRecord → State
  | _, [] => s
  | i, r :: rs =>
    let words := match x.replies.find? fun e => e.1 = i with | some e => e.2 | none => List.replicate (rpl / 4) 0
    let s1 := if !r.reply then s
      else if r.peer then { s with hostOut := s.hostOut ++ [.peerReply (toBytes rpl (ofWords words)) x.unlogged] }
      else { s with replies := s.replies ++ [⟨r.gid, r.lane, .reply words, x.unlogged⟩] }
    State.deliver s1 x rpl (i + 1) rs

/-- CDONE (R276): the group's accesses are performed, BATCHES rises by 1, the replies are delivered, and the group ends. It
waits for what its engine queues still hold (R270). -/
def execCdone (s : State) : Out :=
  let g := s.grp
  match g.kind with
  | .combiner k =>
    if g.queues.any fun q => !q.2.isEmpty then .next (s.park .engines)
    else
      let s := s.drainOwn
      let x := s.skein k
      let d := s.skDesc x
      let s := s.putNum x.desc 64 (setField d 224 32 (oBatches d + 1))
      let s := s.deliver x (oRpl d) 0 x.batch
      let s := s.releasePins g.vd g.pins
      let s := s.modGrp fun g => { g.kill with retired := allLanes, pins := [] }
      .next (s.skAgain k)
  | _ => .next (s.trapAll causeOperand)

/-- WATCHDOG_EXPIRY (R272): 100,000 clk after its first issue, a combiner without CDONE is halted. -/
def execWatchdogExpiry (k : Nat) (s : State) : Out :=
  let x := s.skein k
  match x.state, x.firstIssue with
  | .run, some c => if c + 100000 ≤ s.clock then .next (s.halt x.gid) else .next s
  | _, _ => .next s

/-! Answers to POST.R (R274). -/

/-- R274, R323: the lanes of a POST.R have all been answered: the replies are written, and the others trap: the remote fault where one
timed out (detail 2) or ended as a fault at a peer (detail 1), else the broken object. -/
def State.finishReply (s : State) (gid : Nat) : State :=
  match s.group gid with
  | none => s
  | some g => match g.wait with
    | some (.reply va _ dest _ ls _ answers) =>
      if g.saved || !((lanesOf ls).all fun i => answers.any fun a => a.1 = i) then s
      else
        let s := s.modGroup gid fun g => answers.foldl (fun g a => match a.2 with
          | .reply words => g.putWords dest a.1 0 words
          | _ => g) g
        let failed := maskOf fun i => answers.any fun a => a.1 = i && match a.2 with | .reply _ => false | _ => true
        if failed = 0 then s.modGroup gid Group.finish
        else if answers.any fun a => a.2 == .timeout then s.trapGroup gid causeRemote 2 failed va
        else if answers.any fun a => a.2 == .fault then s.trapGroup gid causeRemote 1 failed va
        else
          let detail := match (lowestLane failed).bind fun i => answers.find? fun a => a.1 = i with
            | some (_, .broken d) => d
            | _ => 0
          s.trapGroup gid causeBroken detail failed va
    | _ => s

/-- R335: an unlogged mark reaches a launch. -/
def State.unloggedMark (s : State) (l : Nat) : State := s.modLaunch l fun x => { x with unrepl := true }

/-- Has the lane's request of the POST.R that a group waits in left its post queue? -/
def Group.postLeft (g : Group) (lane : Nat) : Bool :=
  !((g.queue postQ).any fun o => match o.kind with | .post _ _ true _ ls => ls.any fun l => l.lane = lane | _ => false)

/-- R323: the machine at the time the failure is found: at once at the target (1); a timeout (2) when the remote timeout of the
device has passed since the access issued. -/
def State.failTime (s : State) (vd detail since : Nat) : State :=
  if detail = 2 then { s with clock := max s.clock (since + (s.vd vd).rtimeout * clkPerUs) } else s

/-- R274, R323: an answer reaches a lane whose request has left for a home of this kind (a peer, or here), and that waits; a later one
is ignored. A lane at a peer times out when the remote timeout has passed since the POST issued. -/
def State.answerLane (s : State) (gid lane : Nat) (answer : Answer) (mark peer : Bool) : State :=
  match s.group gid with
  | none => s
  | some g =>
    let s := match g.launch with | some l => if mark then s.unloggedMark l else s | none => s
    match g.wait with
    | some (.reply va pa dest size ls since answers) =>
      if !hasLane ls lane || (answers.any fun a => a.1 = lane) || inPeer pa ≠ peer || !g.postLeft lane then s
      else ((s.failTime g.vd (if answer = .timeout then 2 else 0) since).modGroup gid fun g =>
        { g with wait := some (.reply va pa dest size ls since (answers ++ [(lane, answer)])) }).finishReply gid
    | _ => s

/-- POST_REPLY_ARRIVAL (R274, R326): a reply or error reaches its lane, or the saved context of its group. -/
def execPostReplyArrival (src : ReplySource) (s : State) : Out :=
  match src with
  | .peer gid lane answer mark => .next (s.answerLane gid lane answer mark true)
  | .local i => match s.replies[i]? with
    | none => .next s
    | some m => .next ({ s with replies := s.replies.eraseIdx i }.answerLane m.gid m.lane m.answer m.mark false)

/-- UNLOGGED_MARK_NOTICE (R335): the notice of an unlogged batch arrives at a launch, from a home of this package or of a peer. -/
def execUnloggedMarkNotice (n : MarkNotice) (s : State) : Out :=
  if n.peer then .next (s.unloggedMark n.launch)
  else if s.marks.contains n.launch then .next ({ s with marks := s.marks.erase n.launch }.unloggedMark n.launch)
  else .next s

/-! Dependence blocks (R277-R279). -/

/-- CNT, signed. -/
def bCnt (b : Nat) : Int := signed 32 (field b 0 32)
/-- PUB. -/
def bPub (b : Nat) : Bool := field b 63 1 = 1
/-- The bits that must be zero. -/
def bReserved (b : Nat) : Bool := field b 32 16 = 0 && field b 56 7 = 0

/-- R278, R279: the block's record is enqueued to its node, for the device that published it. -/
def State.enqueueBlock (s : State) (b : Nat) : State :=
  let item : SkRecord := { words := toWords 4 (field b 128 128), vd := field b 48 8, addr := BitVec.ofNat 64 (field b 64 64) }
  { s with depRecords := s.depRecords ++ [{ core := 0, node := true, desc := 0, item := item }] }

/-- R279: one step of a SIGNAL at a block: the block after it and whether its record is enqueued; none where reserved bits
are not zero. -/
def signalStep (b : Nat) : Option (Nat × Bool) :=
  if !bReserved b then none
  else
    let b1 := setField b 0 32 (field b 0 32 + 0xFFFFFFFF)
    some (b1, bPub b1 && field b1 0 32 = 0)

/-- R278: one publication at a block that holds NODE and RECORD already: the block after it and whether its record is
enqueued; none where reserved bits are not zero. -/
def publishStep (b vd : Nat) (c : Word) : Option (Nat × Bool) :=
  if !bReserved b then none
  else
    let b1 := setField (setField (setField b 0 32 (field b 0 32 + c.toNat)) 63 1 1) 48 8 vd
    some (b1, bCnt b1 ≤ 0)

/-- A block access of the post queue that writes its first `n` bytes: its place, a wait, or a failure (R278: detail 12). -/
def State.blockPlace (s : State) (g : Group) (b : DWord) (n : Nat) : PartRead ⊕ Nat :=
  match s.translate g.agent g.vd .store b with
  | .stall => .inl .wait
  | .fault _ => .inl (.failed 12 b)
  | .ok pa =>
    if !s.inRanges g b n || s.badRange pa n then .inl (.failed 12 b) else .inr (s.alias pa)

/-- R278: one lane's publication. `none`: it cannot be performed yet. A block on a peer or the host is none of the publishing
device's memory (R277): the part faults. -/
def State.publishLane (s : State) (g : Group) (desc : DWord) (c : Word) (l : DepLane) : Option State :=
  match s.blockPlace g l.block 32 with
  | .inl (.failed d a) => some (s.noteFault g.id postQ d a)
  | .inl _ => none
  | .inr pa =>
    let b := s.num pa 32
    if s.isRemote pa || !bReserved b then some (s.noteFault g.id postQ 12 l.block)
    else
      let b0 := setField (setField b 64 64 desc.toNat) 128 (32 * l.words.length) (ofWords l.words)
      if bPub b then match s.devTranslate g.vd .load desc with
        | .ok n => let s := s.putNum pa 32 b0; some (s.putAt g.vd n 64 (setField (s.num n 64) 128 32 (field (s.num n 64) 128 32 + 1)))
        | .stall => none
        | .fault _ => some (s.putNum pa 32 b0)
      else match publishStep b0 g.vd c with
        | some (b1, enq) => let s := s.putNum pa 32 b1; some (if enq then s.enqueueBlock b1 else s)
        | none => some (s.noteFault g.id postQ 12 l.block)

/-- R323: the sticky remote-store error, unless the group holds one. -/
def Group.setSticky (g : Group) (detail : Nat) (a : DWord) : Group := { g with sticky := g.sticky.or (some ⟨detail, a⟩) }

/-- R279: one lane's SIGNAL. A block on a peer is updated there, and the successor enqueued on that device; the host window
has no such operation (R204). -/
def State.signalLane (s : State) (g : Group) (l : DepLane) : Option State :=
  match s.blockPlace g l.block 8 with
  | .inl (.failed d a) => some (s.noteFault g.id postQ d a)
  | .inl _ => none
  | .inr pa =>
    let remote := s.isRemote pa
    if inHost pa then some (s.modGroup g.id fun g => g.setSticky 1 l.block)
    else match signalStep (s.num pa 32) with
      | some (b1, enq) =>
        if enq && s.badRange pa 32 then some (s.noteFault g.id postQ 12 l.block)
        else let s := (s.sendPeer g.vd pa .signal).putNum pa 32 b1; some (if enq && !remote then s.enqueueBlock b1 else s)
      | none =>
        some (if remote then (s.sendPeer g.vd pa .signal).modGroup g.id fun g => g.setSticky 1 l.block
          else s.noteFault g.id postQ 12 l.block)

/-- POST_QUEUE_PART_PERFORMED (R278, R279): the post queue performs the next lane's part. -/
def execPostQueuePartPerformed (gid : Nat) (s : State) : Out :=
  match s.group gid with
  | none => .next s
  | some g =>
    if g.saved then .next s
    else match g.queue postQ with
    | ⟨seq, .enqDep desc c (l :: ls)⟩ :: rest => match s.publishLane g desc c l with
      | none => .next s
      | some t => .next (t.modGroup gid fun g => g.postStep seq (if ls.isEmpty then none else some (⟨seq, .enqDep desc c ls⟩ :: rest)))
    | ⟨seq, .signal sys since (l :: ls)⟩ :: rest => match s.signalLane g l with
      | none => .next s
      | some t => .next (t.modGroup gid fun g => g.postStep seq (if ls.isEmpty then none else some (⟨seq, .signal sys since ls⟩ :: rest)))
    | _ => .next s

end Sys2Proof.Machine
end

