-- ==== Sys2Proof/Machine/Supervisor.lean ====
section
/-! DEFINITION. The privileged instructions PMAP and TLBI (25 R321, R322, 13 R178, R179), the commit token (25 R331), ENRD (23
R297) and the issue of LAUNCH (21 R280). -/

namespace Sys2Proof.Machine

/-! The level-4 entry of an address (R171, R321). -/

/-- Where the level-4 entry of an address stands: its physical address, or a table that is absent, or an entry on the way
that is malformed or a leaf. -/
inductive EntryRes where
  | at (addr : Nat)
  | absent
  | malformed
  deriving DecidableEq, Repr

/-- R171, R321: the walk down to the level-4 entry. -/
def entryFrom (rd : Nat → Nat) (ok : Nat → Bool) (va : Nat) : List (Nat × Nat × Nat) → Nat → EntryRes
  | [], _ => .malformed
  | (lvl, sh, bits) :: rest, base =>
    let a := base + 8 * field va sh bits
    let e := rd a
    if lvl = 4 then .at a
    else if e % 2 = 0 then .absent
    else if field e 5 1 = 1 || !entryReserved e || !ok (entryFrame e) then .malformed
    else entryFrom rd ok va rest (entryFrame e)

/-- R321: the level-4 entry of a device's address. -/
def State.entryOf (s : State) (vd va : Nat) : EntryRes :=
  let root := (s.vd vd).ptroot
  if field va 57 7 ≠ 0 || !s.physOk root then .malformed
  else entryFrom (fun a => s.num (s.alias a) 8) s.physOk va walkLevels root

/-- R171: a level-4 entry: the frame, LEAF, READ, WRITE and EXEC as given, VALID. -/
def leafEntry (frame : Nat) (write exec : Bool) : Nat :=
  frame / 0x10000 * 0x10000 + 0x25 + (if write then 8 else 0) + (if exec then 16 else 0)

/-! Invalidation (R178). -/

/-- R178: does a DRAIN cut a translation register: does its run overlap the range? -/
def XReg.cutBy (x : XReg) (r : DrainRange) : Bool := x.valid && r.overlaps x.vbase.toNat x.limit.toNat

/-- R178: does a DRAIN end the translation of an address: it lies in the range, or in the run of a register that the DRAIN cuts? -/
def Group.drainCuts (g : Group) (r : DrainRange) (va : Nat) : Bool :=
  r.overlaps va 16 || g.xs.any fun x => x.2.cutBy r && x.2.vbase.toNat ≤ va && va < x.2.vbase.toNat + x.2.limit.toNat

/-- R178: the parts of a queued copy whose translation a DRAIN ends are translated anew as they are performed. -/
def EngineOp.cutParts (o : EngineOp) (cut : Nat → Bool) : EngineOp :=
  let cutE := fun (e : CopyEnd) => match e with
    | .global a => .global (if cut a.va.toNat then { a with pa := none } else a)
    | e => e
  match o.kind with
  | .copy ps b => { o with kind := .copy (ps.map fun p => { p with src := cutE p.src, dst := cutE p.dst }) b }
  | _ => o

/-- R178: every lookaside entry of the device that overlaps the range is marked draining, and every translation register whose run
overlaps it is cut. An atomic translated through either that waits for the host or a peer is one that CONFIRM awaits (R179). -/
def State.drainRange (s : State) (vd : Nat) (r : DrainRange) : State :=
  let hit := s.tlb.filter fun e => e.vd = vd && r.overlaps e.page e.size
  let marked := s.tlb.map fun e => if e.vd = vd && r.overlaps e.page e.size then { e with draining := true } else e
  let under := fun (g : Group) (p : LaneLoad) =>
    g.drainCuts r p.va.toNat || hit.any fun e => e.page ≤ p.va.toNat && p.va.toNat < e.page + e.size
  let asked := fun (g : Group) => match g.wait with
    | some (.remote true _ ps _) => ps.any (under g)
    | some _ => false
    | none => g.remote.any fun (a : RemoteAns) => a.places.any (under g)
  { s with tlb := marked }.modGroups (fun g => g.vd = vd) fun g =>
    { g with
      xs := g.xs.map fun (x : Nat × XReg) => (x.1, if x.2.cutBy r then { x.2 with limit := 0 } else x.2)
      queues := g.queues.map fun (q : Nat × List EngineOp) => (q.1, q.2.map fun (o : EngineOp) => o.cutParts (g.drainCuts r))
      drained := g.drained || asked g }

/-- TLBI.DRAIN (R322). -/
def execTlbiDrain (j : BitVec 7) (s : State) : Out :=
  let g := s.grp
  let n := j.toNat
  if 124 < n then .next (s.trapAll causeOperand)
  else if g.level ≠ .supervisor then .next (s.trapAll causePrivilege)
  else
    let r : DrainRange := { base := BitVec.ofNat 64 ((g.spairSrc n).toNat / 0x10000 * 0x10000), pages := (g.ssrc (n + 2)).toNat }
    .next ((s.drainRange g.vd r).modGrp fun g => { g with drains := g.drains ++ [r] }).complete

/-- TLBI.CONFIRM (R322, R179). -/
def execTlbiConfirm (s : State) : Out :=
  if s.grp.level ≠ .supervisor then .next (s.trapAll causePrivilege)
  else if s.confirmWaits s.grp.vd s.grp.drains then .next (s.park .confirm)
  else .next s.confirmOwn.complete

/-! PMAP (R321). -/

/-- R321: PMAP ends with a status in every lane of its destination. -/
def State.pmapDone (s : State) (d : Nat) (status : Nat) : State :=
  (s.modGrp fun g => g.putLanes d g.exec fun _ => BitVec.ofNat 32 status).complete

/-- R321: a map request: a KIND 2 record with a new tag, and the wait for the host's answer. -/
def State.mapRequest (s : State) (va : DWord) (dest : Dest) : State :=
  let g := s.grp
  let tag := (Config.firstTag + BitVec.ofNat 32 (s.vd g.vd).nextTag).toNat
  let seqno := match g.launch.bind s.launch with | some x => x.seqno | none => 0
  let comb := if g.kind = .launch then 0 else 1
  let s := s.modVd g.vd fun d => { d with nextTag := d.nextTag + 1, tags := d.tags ++ [tag] }
  (s.postRecord g.vd (faultRecord va.toNat g.pc.toNat tag 0 2 g.vd g.core g.part comb g.slot seqno)).park
    (.map tag va none dest g.exec)

/-- PMAP (R321): status 0 mapped here, 3 mapped already, 4 not possible; 1 or 2 by the host's answer. -/
def execPmap (d a : BitVec 7) (e w : BitVec 1) (s : State) : Out :=
  let g := s.grp
  if a.toNat < 112 || 125 < a.toNat then .next (s.trapAll causeOperand)
  else match g.vecFault [wr d.toNat] with
  | some c => .next (s.trapAll c)
  | none =>
    if g.level ≠ .supervisor then .next (s.trapAll causePrivilege)
    else
      let va := (g.spairSrc (a.toNat - 112)).toNat / 0x10000 * 0x10000
      let pool := (s.vd g.vd).frames
      match s.entryOf g.vd va with
      | .malformed => .next (s.pmapDone d.toNat 4)
      | .absent => .next (s.mapRequest (BitVec.ofNat 64 va) (g.vdest d.toNat))
      | .at x =>
        if s.num (s.alias x) 8 % 2 = 1 then .next (s.pmapDone d.toNat 3)
        else if !pool.enabled || pool.used = 0 then .next (s.mapRequest (BitVec.ofNat 64 va) (g.vdest d.toNat))
        else
          let frame := s.num (s.alias (pool.entry 8 pool.cons)) 8
          let s := (s.engineGet g.vd (pool.entry 8 pool.cons) 8).modVd g.vd fun d =>
            { d with frames := { d.frames with cons := d.frames.cons + 1 } }
          .next ((s.putAt g.vd (s.alias x) 8 (leafEntry frame (w = 1) (e = 1))).pmapDone d.toNat 0)

/-- R321, R342: the host's answer to a tag reaches the group that waits for it: status 1 or 2. A saved group takes it when
it goes on (R326). -/
def State.finishMap (s : State) (gid : Nat) : State :=
  match s.group gid with
  | none => s
  | some g => match g.wait with
    | some (.map _ _ (some answer) dest m) =>
      if g.saved then s
      else s.modGroup gid fun g => (g.writeDest dest 0 m fun _ => BitVec.ofNat 32 answer).finish
    | _ => s

/-! The commit token (R331). -/

/-- COMMIT (R331). -/
def execCommit (s : State) : Out :=
  let g := s.grp
  if !s.isDet g then .next s.complete
  else if g.committed then .next (s.trapAll causeOperand)
  else match g.launch.bind s.launch with
  | none => .next s.complete
  | some x =>
    if x.token = (g.teamid, g.groupid) then
      .next ((s.modGrp fun g => { g with committed := true }).modLaunch x.id fun x => { x with taken := true }).complete
    else .next (s.park .token)

/-- TOKPASS (R331): the group's accesses are performed, and the token moves on. -/
def execTokpass (s : State) : Out :=
  let g := s.grp
  if !s.isDet g then .next s.complete
  else if !g.committed then .next (s.trapAll causeOperand)
  else if g.held 0 then .next (s.park (.paths 0))
  else
    let s := s.drainOwn.modGrp fun g => { g with committed := false }
    .next (match g.launch with | some l => s.passToken l | none => s).complete

/-! Energy (R295-R297). -/

/-- The gauge of a quadrant: both halves' growth. -/
def State.quadGauge (s : State) (q : Nat) : Nat := nget 0 s.gauges (2 * q) + nget 0 s.gauges (2 * q + 1)
/-- R295: a die's gauge includes its quadrants: 256 for its 64 cores. -/
def State.dieGauge (s : State) (die : Nat) : Nat :=
  (List.range 256).foldl (fun n q => n + s.quadGauge (256 * die + q)) (nget 0 s.dieExtra die)
/-- R295: the package gauge includes the dies. -/
def State.pkgGauge (s : State) : Nat := (List.range 4).foldl (fun n d => n + s.dieGauge d) s.pkgExtra

/-- R297: the value of a kind for the group whose turn it is. -/
def State.energyRead (s : State) (k : Nat) : Nat :=
  let g := s.grp
  let q := 4 * g.core + g.part / 8
  match k with
  | 0 => if s.isSplit g then nget 0 s.gauges (s.unitOf g) else s.quadGauge q
  | 1 => s.dieGauge (g.core / 64)
  | 2 => s.pkgGauge
  | 3 => match g.launch.bind s.launch with | some x => x.energy.whole s.free | none => 0
  | 4 => wrap 64 (s.vd g.vd).level
  | _ => match g.launch.bind s.launch with
    | some x => if dEnergylim x.desc = 0 then 2 ^ 64 - 1 else dEnergylim x.desc - x.energy.whole s.free
    | none => 2 ^ 64 - 1

/-- ENRD (R297). -/
def execEnrd (k j : BitVec 7) (s : State) : Out :=
  if 5 < k.toNat || 125 < j.toNat then .next (s.trapAll causeOperand)
  else .next ((s.modGrp fun g => g.setPair j.toNat (BitVec.ofNat 64 (s.energyRead k.toNat))).bumpFree 1).complete

/-! LAUNCH (R280). -/

/-- LAUNCH (R280): the launch enters the post queue, which performs it (`execQueueEntryTake`). -/
def execLaunch (d j : BitVec 7) (s : State) : Out :=
  let g := s.grp
  if 125 < j.toNat then .next (s.trapAll causeOperand)
  else match g.vecFault [wr d.toNat] with
  | some c => .next (s.trapAll c)
  | none =>
    if g.held (postQ + 1) then .next (s.park (.paths (postQ + 1)))
    else .next ((s.qfenceDrain (postQ + 1)).enqueue postQ (.launch (g.spairSrc j.toNat) (g.vdest d.toNat) g.exec)).complete

end Sys2Proof.Machine
end

