-- ==== Sys2Proof/Machine/Layers.lean ====
section
/-! DEFINITION. Model contexts and streamed layers (23 R281-R294): activation, the swap engine's choices, fetches, evictions,
and LWAIT, LDONE and LHINT. -/

namespace Sys2Proof.Machine

/-! Contexts and entries. -/

/-- The place of a device's context in the list, if it is known. -/
def State.ctxIndex (s : State) (vd : Nat) (va : DWord) : Option Nat := s.ctxs.findIdx? fun c => c.vd = vd && c.va = va

/-- Change the n-th context. -/
def State.modCtx (s : State) (n : Nat) (f : Ctx → Ctx) : State :=
  { s with ctxs := match s.ctxs[n]? with | some c => s.ctxs.set n (f c) | none => s.ctxs }

/-- The descriptor of a context. -/
def State.ctxDesc (s : State) (c : Ctx) : Nat := s.devRead c.vd c.va 64

/-- Virtual address of layer entry L (R282). -/
def entryVa (c L : Nat) : DWord := BitVec.ofNat 64 (cTable c + 32 * L)

/-- A layer's entry. -/
def State.layerEntry (s : State) (vd c L : Nat) : Nat := s.devRead vd (entryVa c L) 32

/-- The device writes bytes of an entry from byte `off` on. -/
def State.putEntry (s : State) (vd c L off n w : Nat) : State :=
  match s.devTranslate vd .load (entryVa c L) with
  | .ok pa => s.putAt vd (pa + off) n w
  | _ => s

/-- SIGCHK of an entry. -/
def lSigchk (e : Nat) : Bool := field e 32 1 = 1
/-- Pages of 64 KiB of a layer's window. -/
def lPages (e : Nat) : Nat := (lSize e + 65535) / 65536

/-- Streaming: the distance of layer x from the cursor. -/
def layerDist (c x : Nat) : Nat :=
  let n := max 1 (cLayers c)
  if cReverse c then (cCursor c + n - x % n) % n else (x + n - cCursor c % n) % n

/-- The device writes CURSOR. -/
def State.putCursor (s : State) (vd : Nat) (va : DWord) (L : Nat) : State :=
  match s.devTranslate vd .load va with
  | .ok pa => s.putAt vd pa 64 (setField (s.num pa 64) 48 16 L)
  | _ => s

/-- R283: the launch activates its context, or joins it. -/
def State.activate (s : State) (vd : Nat) (va : DWord) (l : Nat) : State :=
  let c := s.devRead vd va 64
  let active := match s.ctxIndex vd va with
    | some n => (match s.ctxs[n]? with | some x => !x.launches.isEmpty | none => false)
    | none => false
  let s1 := match s.ctxIndex vd va with
    | some n => s.modCtx n fun x => { x with launches := x.launches ++ [l] }
    | none => { s with ctxs := s.ctxs ++ [{ vd := vd, va := va, launches := [l] }] }
  if active then s1
  else match s.devTranslate vd .load va with
    | .ok pa => s1.putAt vd pa 64 (setField (setField c 6 1 1) 48 16 (if cReverse c then cLayers c - 1 else 0))
    | _ => s1

/-- R283: a launch naming the context has ended: ACTIVE falls with the last one. -/
def State.deactivate (s : State) (vd : Nat) (va : DWord) (l : Nat) : State :=
  match s.ctxIndex vd va with
  | none => s
  | some n =>
    let s1 := s.modCtx n fun x => { x with launches := x.launches.filter (· ≠ l) }
    match s1.ctxs[n]? with
    | some x =>
      if !x.launches.isEmpty then s1
      else
        let s2 := s1.modCtx n fun x => { x with hints := [], demand := [] }
        match s.devTranslate vd .load va with
        | .ok pa => s2.putAt vd pa 64 (setField (s2.num pa 64) 6 1 0)
        | _ => s2
    | none => s1

/-! The vault pool (R284). -/

/-- Frames in a device's vault pool. -/
def State.poolSize (s : State) (vd : Nat) : Nat :=
  let d := s.vd vd
  d.vaultFree.length + (if d.vaults.enabled then d.vaults.used else 0)

/-- Take one frame from the pool: a returned one, else the ring's next. -/
def State.takeVault (s : State) (vd : Nat) : Nat × State :=
  let d := s.vd vd
  match d.vaultFree with
  | f :: fs => (f, s.modVd vd fun d => { d with vaultFree := fs })
  | [] =>
    let a := d.vaults.entry 8 d.vaults.cons
    (s.num (s.alias a) 8 / 0x10000 * 0x10000,
      (s.engineGet vd a 8).modVd vd fun d => { d with vaults := { d.vaults with cons := d.vaults.cons + 1 } })

/-- Take `n` frames. -/
def takeVaults (vd : Nat) : Nat → State → List Nat × State
  | 0, s => ([], s)
  | n + 1, s =>
    let (f, s1) := s.takeVault vd
    let (fs, s2) := takeVaults vd n s1
    (f :: fs, s2)

/-! Windows (R284, R287). -/

/-- Frames of a layer's window. -/
def Ctx.window (c : Ctx) (L : Nat) : List Nat := match c.frames.find? fun e => e.1 = L with | some e => e.2 | none => []

/-- Pages of the context's budget in use. -/
def Ctx.pagesUsed (c : Ctx) : Nat := c.frames.foldl (fun n e => n + e.2.length) 0

/-- R171, R284: write the level-4 entries of a window: READ only for each frame, or invalid. -/
def mapPages (vd : Nat) : Nat → List (Option Nat) → State → State
  | _, [], s => s
  | va, f :: fs, s =>
    let s1 := match s.entryOf vd va with
      | .at x => s.putAt vd (s.alias x) 8 (match f with | some frame => leafEntry frame false false | none => 0)
      | _ => s
    mapPages vd (va + 0x10000) fs s1

/-- The range of a window. -/
def windowRange (e pages : Nat) : DrainRange := { base := BitVec.ofNat 64 (lWin e), pages := pages }

/-- A layer's window is unmapped: its level-4 entries invalid, its translations draining (R178). -/
def State.unmapWindow (s : State) (vd e : Nat) (frames : List Nat) : State :=
  if frames.isEmpty then s
  else (mapPages vd (lWin e) (frames.map fun _ => none) s).drainRange vd (windowRange e frames.length)

/-- R287: the window is gone: its draining translations removed (R179), its frames returned, WIN ← 0, and the entry's first
eight bytes as given. -/
def State.dropWindow (s : State) (n L : Nat) (low : Nat → Nat) : State :=
  match s.ctxs[n]? with
  | none => s
  | some c =>
    let d := s.ctxDesc c
    let e := s.layerEntry c.vd d L
    let fs := c.window L
    let s1 := if fs.isEmpty then s else s.dropDraining c.vd [windowRange e fs.length]
    let s2 := (s1.modVd c.vd fun v => { v with vaultFree := v.vaultFree ++ fs }).modCtx n fun c =>
      { c with frames := c.frames.filter fun x => x.1 ≠ L }
    (s2.putEntry c.vd d L 16 8 0).putEntry c.vd d L 0 8 (low (field e 0 64))

/-! Evictions (R286, R293). -/

/-- Lexicographic order of keys. -/
def keyLess : List Nat → List Nat → Bool
  | [], _ => false
  | _ :: _, [] => false
  | a :: as, b :: bs => a < b || (a = b && keyLess as bs)

/-- The candidate of least key. -/
def leastKey {α : Type} : List (List Nat × α) → Option (List Nat × α)
  | [] => none
  | x :: xs => match leastKey xs with
    | some y => if keyLess y.1 x.1 then some y else some x
    | none => some x

/-- R286: the layers that may be evicted for the arrival of layer L of the n-th context, with their keys: the step, then the
order within it. `own`: the budget is short, so only the context's own layers under step 3. `demand`: the fetch is for a
parked LWAIT (R293). -/
def State.victims (s : State) (n L : Nat) (own demand : Bool) : List (List Nat × (Nat × Nat)) :=
  match s.ctxs[n]? with
  | none => []
  | some me =>
    let mine := s.ctxDesc me
    (List.range s.ctxs.length).flatMap fun m => match s.ctxs[m]? with
      | none => []
      | some c =>
        if c.vd ≠ me.vd || (own && m ≠ n) then []
        else
          let d := s.ctxDesc c
          let big := 2 ^ 64
          (c.frames.map fun f => f.1).filterMap fun x =>
            let e := s.layerEntry c.vd d x
            let used := nget 0 c.used x
            if lState e ≠ 2 || lPin e ≠ 0 then none
            else if c.launches.isEmpty then some ([1, used, c.va.toNat, x], (m, x))
            else if cPrio d < cPrio mine then some ([2, cPrio d, used, c.va.toNat, x], (m, x))
            else if cPrio d = cPrio mine && (m ≠ n || demand || layerDist d L < layerDist d x) then
              some ([3, big - layerDist d x, c.va.toNat, x], (m, x))
            else none

/-- R287: a layer is chosen for eviction. -/
def State.startEviction (s : State) (n L : Nat) : State :=
  match s.ctxs[n]? with
  | none => s
  | some c =>
    let d := s.ctxDesc c
    let e := s.layerEntry c.vd d L
    ((s.putEntry c.vd d L 0 8 (setField (field e 0 64) 33 3 3)).unmapWindow c.vd e (c.window L)).modCtx n fun c =>
      { c with evicting := c.evicting ++ [L] }

/-- Pages that evictions under way will give back: all, or one context's. -/
def State.pagesComing (s : State) (vd : Nat) (only : Option Nat) : Nat :=
  (List.range s.ctxs.length).foldl (fun n m => match s.ctxs[m]? with
    | some c => if c.vd = vd && (match only with | some k => k = m | none => true) then
        c.evicting.foldl (fun n L => n + (c.window L).length) n else n
    | none => n) 0

/-! The choice of the next layer (R285). -/

/-- The groups parked in LWAIT on a layer of a context, oldest first. One that is saved is not parked: its LWAIT executes again when
the group resumes (R290), so that it takes no pin while saved (R326; DEDUCED, log 29). -/
def State.parkedOn (s : State) (c : Ctx) (L : Nat) : List Group :=
  (c.demand.filter fun p => p.2 = L).filterMap fun p => match s.group p.1 with
    | some g => (match g.wait with | some (.layer va i _ false) => if va = c.va && i = L && g.vd = c.vd && !g.saved then some g else none | _ => none)
    | none => none

/-- R285: the layer to fetch next and whether a parked LWAIT asks for it. -/
def State.nextLayer (s : State) (c : Ctx) : Option (Nat × Bool) :=
  let d := s.ctxDesc c
  let absent := fun L => lState (s.layerEntry c.vd d L) = 0
  let asked := (c.demand.find? fun p => absent p.2 && !(s.parkedOn c p.2).isEmpty).map fun p => (p.2, true)
  let hinted := (c.hints.find? absent).map fun L => (L, false)
  let near := (leastKey (((List.range (cLayers d)).filter absent).map fun L => ([layerDist d L], L))).map fun k => (k.2, false)
  (asked.or hinted).or near

/-- R287: the first place in the region where a window of `pages` fits: the region's start or the end of another window. -/
def State.windowPlace (s : State) (c : Ctx) (pages : Nat) : Option Nat :=
  let d := s.ctxDesc c
  let taken := c.frames.map fun f => (lWin (s.layerEntry c.vd d f.1), 0x10000 * f.2.length)
  let starts := cVwbase d :: taken.map fun w => w.1 + w.2
  let fits := fun a => a + 0x10000 * pages ≤ cVwbase d + 0x10000 * cVwsize d &&
    taken.all fun w => a + 0x10000 * pages ≤ w.1 || w.1 + w.2 ≤ a
  (leastKey ((starts.filter fits).map fun a => ([a], a))).map fun k => k.2

/-- R284: a window's bytes: the image, then zeros to the end of its last page. -/
def fillFrames : List Nat → List Byte → State → State
  | [], _, s => s
  | f :: fs, bs, s =>
    let page := bs.take 0x10000
    fillFrames fs (bs.drop 0x10000) (s.putMem f (page ++ List.replicate (0x10000 - page.length) 0))

/-- R287, R346: what the copy of a layer reads of memory: its image, and its digest where it is checked. -/
def fetchReads (d e L : Nat) : List (Nat × Nat) :=
  (List.range (lSize e / 128)).map (fun i => (lSrc e + 128 * i, 128)) ++ if lSigchk e then [(cDigests d + 48 * L, 48)] else []

/-- LAYER_FETCH_START (R285, R286): the swap engine chooses a layer; where space is short it evicts one layer under R286, or
waits for what it has evicted; otherwise the window is mapped, all zeros, so that it shows no earlier data (R284), and the copy
starts. -/
def execLayerFetchStart (n : Nat) (s : State) : Out :=
  match s.ctxs[n]? with
  | none => .next s
  | some c =>
    let d := s.ctxDesc c
    if c.launches.isEmpty || c.arriving.isSome || (s.vd c.vd).pstate ≠ .awake then .next s
    else match s.nextLayer c with
    | none => .next s
    | some (L, demand) =>
      let e := s.layerEntry c.vd d L
      let p := lPages e
      let place := s.windowPlace c p
      let evict := fun (own : Bool) => match leastKey (s.victims n L own demand) with
        | some (_, (m, x)) => s.startEviction m x
        | none => s
      if cVwsize d < c.pagesUsed + p || place.isNone then
        .next (if c.pagesUsed + p ≤ cVwsize d + s.pagesComing c.vd (some n) && !c.evicting.isEmpty then s else evict true)
      else if s.poolSize c.vd < p then
        .next (if p ≤ s.poolSize c.vd + s.pagesComing c.vd none then s else evict false)
      else
        let win := place.getD 0
        let (frames, s1) := takeVaults c.vd p s
        let s2 := mapPages c.vd win (frames.map some) (fillFrames frames [] s1)
        let s3 := (s2.putEntry c.vd d L 16 8 win).putEntry c.vd d L 0 8 (setField (field e 0 64) 33 3 1)
        .next ((s3.askFor c.vd (fetchReads d e L)).modCtx n fun c =>
          { c with arriving := some L, frames := c.frames ++ [(L, frames)], hints := c.hints.filter (· ≠ L) })

/-! Arrival (R287). -/

/-- What a fetch comes to: the image, a failure with its FCAUSE, or a wait. -/
inductive FetchRes where
  | image (bs : List Byte)
  | failed (cause : Nat)
  | wait

/-- Read `n` pieces of `w` bytes from a virtual address on: an untranslated piece gives `noMap`, an unreadable one `noRead`. -/
def State.readPieces (s : State) (vd w noMap noRead : Nat) : Nat → Nat → FetchRes
  | 0, _ => .image []
  | n + 1, va =>
    match s.devTranslate vd .load (BitVec.ofNat 64 va) with
    | .fault _ => .failed noMap
    | .stall => .wait
    | .ok pa =>
      if s.badRange pa w then .failed noRead
      else match State.readPieces s vd w noMap noRead n (va + w) with
        | .image bs => .image (s.bytes pa w ++ bs)
        | r => r

/-- R287, R282: the fetch of a layer as memory now stands. -/
def State.fetch (s : State) (vd d e L : Nat) : FetchRes :=
  match s.readPieces vd 128 2 1 (lSize e / 128) (lSrc e) with
  | .image bs =>
    if !lSigchk e then .image bs
    else match s.readPieces vd 1 4 4 48 (cDigests d + 48 * L) with
      | .image dg => if sha384 bs = dg then .image bs else .failed 3
      | r => r
  | r => r

/-- A list of pins with one more, or one fewer, on a layer. -/
def addPin (ps : List (DWord × Nat × Nat)) (va : DWord) (L : Nat) : List (DWord × Nat × Nat) :=
  if ps.any fun p => p.1 = va && p.2.1 = L then ps.map fun p => if p.1 = va && p.2.1 = L then (va, L, p.2.2 + 1) else p
  else ps ++ [(va, L, 1)]

/-- A list of pins with one fewer on a layer. -/
def subPin (ps : List (DWord × Nat × Nat)) (va : DWord) (L : Nat) : List (DWord × Nat × Nat) :=
  (ps.map fun p => if p.1 = va && p.2.1 = L then (va, L, p.2.2 - 1) else p).filter fun p => p.2.2 ≠ 0

/-- R290: change the pins of a group's owner: its launch, or a combiner or node group itself. -/
def State.modPins (s : State) (g : Group) (f : List (DWord × Nat × Nat) → List (DWord × Nat × Nat)) : State :=
  match g.launch with
  | some l => s.modLaunch l fun x => { x with pins := f x.pins }
  | none => s.modGroup g.id fun g => { g with pins := f g.pins }

/-- R291: does the owner hold a pin? -/
def State.holdsPin (s : State) (g : Group) (va : DWord) (L : Nat) : Bool :=
  let ps := match g.launch with
    | some l => (match s.launch l with | some x => x.pins | none => [])
    | none => g.pins
  ps.any fun p => p.1 = va && p.2.1 = L

/-- R287, R293: the groups parked on an arrived layer take their pins, up to PIN 0xFFFF. -/
def pinParked (va : DWord) (L : Nat) : List Group → Nat → State → Nat × State
  | [], pin, s => (pin, s)
  | g :: gs, pin, s =>
    if 0xFFFF ≤ pin then (pin, s)
    else
      let s1 := (s.modPins g fun ps => addPin ps va L).modGroup g.id fun g =>
        { g with wait := match g.wait with | some (.layer a i j _) => some (.layer a i j true) | w => w }
      pinParked va L gs (pin + 1) s1

/-- R290: a parked LWAIT whose pin has come ends: CURSOR ← L, S[j+1] ‖ S[j] ← WIN. -/
def State.finishLayer (s : State) (gid : Nat) : State :=
  match s.group gid with
  | none => s
  | some g => match g.wait with
    | some (.layer va L j true) =>
      if g.saved then s
      else
        let win := lWin (s.layerEntry g.vd (s.devRead g.vd va 64) L)
        let s := match s.ctxIndex g.vd va with
          | some n => s.modCtx n fun c => { c with demand := c.demand.filter fun p => p.1 ≠ gid }
          | none => s
        (s.putCursor g.vd va L).modGroup gid fun g => (g.setPair j (BitVec.ofNat 64 win)).finish
    | _ => s

/-- LAYER_ARRIVAL (R287): the image is in the window and sound: RESIDENT, SEQ + 1, and the parked groups take their pins. -/
def execLayerArrival (n : Nat) (s : State) : Out :=
  match s.ctxs[n]? with
  | none => .next s
  | some c => match c.arriving with
    | none => .next s
    | some L =>
      let d := s.ctxDesc c
      let e := s.layerEntry c.vd d L
      match s.fetch c.vd d e L with
      | .image bs =>
        let s1 := fillFrames (c.window L) bs s
        let low := setField (setField (field e 0 64) 33 3 2) 0 32 (lSeq e + 1)
        let parked := s1.parkedOn c L
        let (pin, s2) := pinParked c.va L parked (lPin e) (s1.modCtx n fun c => { c with arriving := none })
        let s3 := s2.putEntry c.vd d L 0 8 (setField low 48 16 pin)
        .next ((parked.map fun g => g.id).foldl State.finishLayer s3)
      | _ => .next s

/-- LAYER_FETCH_FAULT (R287): the fetch fails for this cause, as memory now stands; an image or digest on the host or a
peer may fail without the device seeing why (causes 1 and 4). -/
def execLayerFetchFault (n cause : Nat) (s : State) : Out :=
  match s.ctxs[n]? with
  | none => .next s
  | some c => match c.arriving with
    | none => .next s
    | some L =>
      let d := s.ctxDesc c
      let e := s.layerEntry c.vd d L
      let far := fun (va : Nat) => match s.devTranslate c.vd .load (BitVec.ofNat 64 va) with | .ok pa => s.isRemote pa | _ => false
      let fails := (match s.fetch c.vd d e L with | .failed k => k = cause | _ => false) ||
        (cause = 1 && far (lSrc e)) || (cause = 4 && lSigchk e && far (cDigests d + 48 * L))
      if !fails then .next s
      else
        let parked := s.parkedOn c L
        let s1 := (s.unmapWindow c.vd e (c.window L)).modCtx n fun c =>
          { c with arriving := none, demand := c.demand.filter fun p => !(parked.any fun g => g.id = p.1) }
        let s2 := s1.dropWindow n L fun low => setField (setField low 33 3 4) 36 4 cause
        .next (parked.foldl (fun s g => s.trapGroup g.id causeSwap cause g.exec (entryVa d L)) s2)

/-- EVICTION_COMPLETE (R287): the unmapping is complete: ABSENT, WIN ← 0, frames returned. -/
def execEvictionComplete (n L : Nat) (s : State) : Out :=
  match s.ctxs[n]? with
  | none => .next s
  | some c =>
    if !c.evicting.contains L then .next s
    else .next ((s.dropWindow n L fun low => setField low 33 3 0).modCtx n fun c => { c with evicting := c.evicting.erase L })

/-! LWAIT, LDONE and LHINT (R289-R292). -/

/-- R289: the context and layer an instruction names: the place of an ACTIVE context of the device, its address, and a layer
below NLAYERS. -/
def State.layerNamed (s : State) (k : Nat) : Option (Nat × DWord × Nat) :=
  let g := s.grp
  let va := g.spairSrc k
  let L := (g.ssrc (k + 2)).toNat
  match s.ctxIndex g.vd va with
  | none => none
  | some n => match s.ctxs[n]? with
    | some c => if !c.launches.isEmpty && L < cLayers (s.ctxDesc c) then some (n, va, L) else none
    | none => none

/-- R286: a layer is used. -/
def State.useLayer (s : State) (n L : Nat) : State := s.modCtx n fun c => { c with used := nset 0 c.used L s.clock }

/-- LWAIT (R290). -/
def execLwait (a j : BitVec 7) (s : State) : Out :=
  let s := s.loadsFirst
  let g := s.grp
  if a.toNat < 112 || 124 < a.toNat || 125 < j.toNat then .next (s.trapAll causeOperand)
  else match s.layerNamed (a.toNat - 112) with
  | none => .next (s.trapAll causeOperand)
  | some (n, va, L) =>
    let d := s.devRead g.vd va 64
    let ea := entryVa d L
    match s.readVa g 0 ea 32 with
    | .fault c x => .next ((s.modGrp fun g => { g with remote := none }).trap c x g.exec ea)
    | .park w => .next (s.parkRead w)
    | .value _ e =>
      let s := (s.useLayer n L).modGrp fun g => { g with remote := none }
      let mine := fun (s : State) => s.modCtx n fun c => { c with demand := c.demand.filter fun p => p.1 ≠ g.id }
      let asked := fun (s : State) => s.modCtx n fun c =>
        { c with demand := if c.demand.contains (g.id, L) then c.demand else c.demand ++ [(g.id, L)] }
      if lState e = 4 then .next ((mine s).trap causeSwap (lCause e) g.exec ea)
      else if lState e = 2 && lPin e < 0xFFFF then
        let s := ((mine s).putEntry g.vd d L 0 8 (setField (field e 0 64) 48 16 (lPin e + 1))).modPins g fun ps => addPin ps va L
        .next ((s.putCursor g.vd va L).modGrp fun g => g.setPair j.toNat (BitVec.ofNat 64 (lWin e))).complete
      else .next ((asked s).park (.layer va L j.toNat false))

/-- LDONE (R291): the group's accesses are performed, and PIN falls by 1. -/
def execLdone (a : BitVec 7) (s : State) : Out :=
  let g := s.grp
  if a.toNat < 112 || 124 < a.toNat then .next (s.trapAll causeOperand)
  else match s.layerNamed (a.toNat - 112) with
  | none => .next (s.trapAll causeOperand)
  | some (n, va, L) =>
    if !s.holdsPin g va L then .next (s.trapAll causeOperand)
    else if g.held 0 then .next (s.park (.paths 0))
    else
      let d := s.devRead g.vd va 64
      let ea := entryVa d L
      match s.readVa g 0 ea 32 with
      | .fault c x => .next ((s.modGrp fun g => { g with remote := none }).trap c x g.exec ea)
      | .park w => .next (s.parkRead w)
      | .value _ _ =>
        let s := ((s.useLayer n L).modGrp fun g => { g with remote := none }).drainOwn
        let e := s.layerEntry g.vd d L
        .next ((s.putEntry g.vd d L 0 8 (setField (field e 0 64) 48 16 (lPin e - 1))).modPins g fun ps => subPin ps va L).complete

/-- LHINT (R292): a request for an ABSENT layer of an ACTIVE context; otherwise nothing. -/
def execLhint (a : BitVec 7) (s : State) : Out :=
  let ask := if a.toNat < 112 || 124 < a.toNat then none else s.layerNamed (a.toNat - 112)
  match ask with
  | none => .next s.complete
  | some (n, va, L) =>
    if lState (s.layerEntry s.grp.vd (s.devRead s.grp.vd va 64) L) ≠ 0 then .next s.complete
    else .next (s.modCtx n fun c => { c with hints := if c.hints.contains L then c.hints else c.hints ++ [L] }).complete

/-! Collapse (R287, R301): the windows of a device's layers are dropped. -/

/-- Every layer of a context becomes ABSENT, unless FAULTED. -/
def State.dropLayers (s : State) (n : Nat) : State :=
  match s.ctxs[n]? with
  | none => s
  | some c =>
    let drop := fun (s : State) (L : Nat) =>
      (s.unmapWindow c.vd (s.layerEntry c.vd (s.ctxDesc c) L) (c.window L)).dropWindow n L fun low => setField low 33 3 0
    ((c.frames.map fun f => f.1).foldl drop s).modCtx n fun c => { c with arriving := none, evicting := [] }

end Sys2Proof.Machine
end

