-- ==== Sys2Proof/Machine/Launches.lean ====
section
/-! DEFINITION. Launches (25 R304-R310, 03 R26-R30, R41): the checks of a descriptor, its acceptance, the placing and the end
of teams, and the end of a launch with its completion record. -/

namespace Sys2Proof.Machine

/-! The checks (R307, R309), each a condition that fails the launch. -/

/-- The 256 bytes of a launch descriptor, read in aligned pieces of 64. -/
def State.readLaunchDesc (s : State) (vd : Nat) (va : DWord) : Nat :=
  (List.range 4).foldl (fun n i => n + s.devRead vd (va + BitVec.ofNat 64 (64 * i)) 64 * 2 ^ (512 * i)) 0

/-- R306: the fields that must be zero. -/
def dReserved (d : Nat) : Bool :=
  field d 198 2 = 0 && field d 219 1 = 0 && field d 223 1 = 0 && field d 232 8 = 0 && field d 272 16 = 0 &&
    field d 976 16 = 0 && field d 1056 992 = 0

/-- The role words in use. -/
def dRoleList (d : Nat) : List (Nat × Nat) := (List.range (dRoles d)).map fun r => (field (dRole d r) 0 8, field (dRole d r) 8 8)
/-- Groups of a team. -/
def dGroups (d : Nat) : Nat := (dRoleList d).foldl (fun n r => n + r.1) 0
/-- R27: the budget, in 16 registers, role and index within it of each group of a team. -/
def dBudgets (d : Nat) : List (Nat × Nat × Nat) :=
  (List.range (dRoles d)).flatMap fun r =>
    (List.range (field (dRole d r) 0 8)).map fun i => (field (dRole d r) 8 8, r, i)
/-- R29: banks of 32 KiB of a team. -/
def dBanks (d : Nat) : Nat := (dScratch d + 32767) / 32768

/-- Status 0x11. -/
def State.badAddress (s : State) (vd d : Nat) : Bool :=
  let unmapped := fun (va n : Nat) => !s.devMapped vd .load (BitVec.ofNat 64 va) n
  let bad := fun (va align n : Nat) => va ≠ 0 && (va % align ≠ 0 || (n ≠ 0 && unmapped va n))
  bad (dRanges d) 128 (128 * dRngblks d) || bad (dShared d) 16 (16 * min 16 (dNshared d)) || bad (dMctx d).toNat 64 64 ||
    bad (dVobj d).toNat 64 64 ||
    (dSpillbase d ≠ 0 && (dSpillbase d % 32768 ≠ 0 || 2 ^ 47 < dSpillbase d + 0x100000 * dSpillteams d))

/-- Status 0x12 (R26). -/
def badRoles (d : Nat) : Bool :=
  let n := dRoles d
  !(1 ≤ n && n ≤ 4) || ((List.range 4).any fun r => field (dRole d r) 16 16 ≠ 0) ||
    ((List.range 4).any fun r => n ≤ r && dRole d r ≠ 0) ||
    ((dRoleList d).any fun r => r.1 < 1 || r.2 < 1 || 16 < r.2) || 32 < dGroups d

/-- Status 0x13. -/
def badSizes (d : Nat) : Bool :=
  2 ^ 21 < dScratch d || 64 < dBarriers d || 4 < dNring d || (dBarbase d).toNat % 16 ≠ 0 ||
    (dBarriers d ≠ 0 && dScratch d < (dBarbase d).toNat + 16 * dBarriers d) ||
    (dSpillbase d = 0) ≠ (dSpillteams d = 0) || ((dCores d || dDet d) && dSpillbase d ≠ 0 && dSpillteams d < dTeams d)

/-- Status 0x14. -/
def badFlags (d : Nat) : Bool :=
  (dPlan d && !dAnytime d) || dAnytime d ≠ (dVobj d ≠ 0) || dDet d ≠ (dLcores d ≠ 0) || 256 < dLcores d

/-- Do two ranges of bytes overlap? -/
def rangesMeet (a n b m : Nat) : Bool := n ≠ 0 && m ≠ 0 && a < b + m && b < a + n

/-- Status 0x15 (R244). -/
def State.badVersion (s : State) (vd d : Nat) : Bool :=
  if !dAnytime d then false
  else
    let o := s.devRead vd (dVobj d) 64
    let hdr := vHdraddr o
    let entries := (List.range (8 * dRngblks d)).map fun i => s.devRead vd (BitVec.ofNat 64 (dRanges d + 16 * i)) 16
    let meets := fun e => rangesMeet (field e 0 64) (field e 64 64) (vSlotbase o) (vNslots o * vSlotsize o) ||
      rangesMeet (field e 0 64) (field e 64 64) hdr.toNat 64
    field o 214 298 ≠ 0 || vCombine o = 3 || vNslots o < 2 || vSlotsize o = 0 || vSlotsize o % 128 ≠ 0 || hdr.toNat % 64 ≠ 0 ||
      vSlotbase o % 128 ≠ 0 || (vExpect o ≠ 0 && vExpect o ≠ dTeams d) || (dRanges d ≠ 0 && entries.any meets) ||
      !s.devMapped vd .load hdr 64 || !s.devMapped vd .store hdr 64

/-- R348: does a digest table verify, by a listed signer or unsigned where the device accepts that? -/
def State.tableVerifies (s : State) (vd tbl n : Nat) : Bool :=
  let dv := s.vd vd
  match s.readPieces vd 1 0 0 (48 * n + 48 + 64 + 3309) tbl with
  | .image bs =>
    let ident := ofBytes ((bs.drop (48 * n)).take 48)
    let ed := (bs.drop (48 * n + 48)).take 64
    let ml := bs.drop (48 * n + 112)
    let listed := ident ≠ 0 && (List.range 4).any fun i => field dv.signers (384 * i) 384 = ident
    let digest := BitVec.ofNat 384 (ofBytes (sha384 (bs.take (48 * n))))
    listed && Config.signatureVerifies (BitVec.ofNat 384 ident) digest ed ml
  | _ => false

/-- R348: an unsigned digest table: TRUSTCTL[0] and a zero identifier. -/
def State.tableUnsigned (s : State) (vd tbl n : Nat) : Bool :=
  (s.vd vd).trustctl.getLsbD 0 &&
    (match s.readPieces vd 1 0 0 48 (tbl + 48 * n) with | .image bs => ofBytes bs = 0 | _ => false)

/-- R282, R283: an entry of a layer table keeps its rules. -/
def entryLegal (vwsize digests e : Nat) : Bool :=
  lState e ≤ 4 && lCause e ≤ 4 && field e 40 8 = 0 && field e 64 32 = 0 && lSrc e % 128 = 0 && lSize e ≠ 0 &&
    lSize e % 128 = 0 && lPages e ≤ vwsize && !(lSigchk e && digests = 0)

/-- R284: the level-4 entries of the region stand in tables, and are invalid but for the windows of layers. -/
def State.regionBuilt (s : State) (vd base pages : Nat) (windows : List (Nat × Nat)) : Bool :=
  (List.range pages).all fun i =>
    let va := base + 0x10000 * i
    match s.entryOf vd va with
    | .at a => s.num (s.alias a) 8 % 2 = 0 || windows.any fun w => w.1 ≤ va && va < w.1 + w.2
    | _ => false

/-- Status 0x16 (R283): the checks of a context that is not ACTIVE. -/
def State.badContext (s : State) (vd d : Nat) : Bool :=
  let va := dMctx d
  let known := (s.ctxIndex vd va).bind fun n => s.ctxs[n]?
  if va = 0 || (match known with | some c => !c.launches.isEmpty | none => false) then false
  else
    let c := s.devRead vd va 64
    let n := cLayers c
    let entries := (List.range n).map fun L => s.layerEntry vd c L
    let windows := match known with
      | some k => k.frames.map fun f => (lWin (s.layerEntry vd c f.1), 0x10000 * f.2.length)
      | none => []
    field c 3 2 ≠ 0 || field c 7 25 ≠ 0 || field c 64 192 ≠ 0 || field c 320 32 ≠ 0 || !(1 ≤ n && n ≤ 4096) ||
      !(1 ≤ cVwsize c && cVwsize c ≤ 262144) || cTable c % 32 ≠ 0 || cVwbase c % 0x10000 ≠ 0 ||
      ((List.range n).any fun L => !s.devMapped vd .load (entryVa c L) 32) ||
      !(entries.all fun e => entryLegal (cVwsize c) (cDigests c) e) ||
      (cDigests c ≠ 0 && !s.tableUnsigned vd (cDigests c) n && !s.tableVerifies vd (cDigests c) n) ||
      !s.regionBuilt vd (cVwbase c) (cVwsize c) windows

/-- Status 0x17 (R306, R330). -/
def State.badRanges (s : State) (vd d : Nat) : Bool :=
  let entry := fun (tbl i : Nat) => s.devRead vd (BitVec.ofNat 64 (tbl + 16 * i)) 16
  let off := fun (m e : Nat) => field e 0 64 % m ≠ 0 || field e 64 64 % m ≠ 0
  (dRanges d = 0) ≠ (dRngblks d = 0) || 16 < dNshared d || (dNshared d ≠ 0 && dShared d = 0) ||
    (dRanges d ≠ 0 && 65536 < dTeams d) ||
    (dRanges d ≠ 0 && (List.range (8 * dRngblks d)).any fun i => off 16 (entry (dRanges d) i)) ||
    (dShared d ≠ 0 && (List.range (dNshared d)).any fun i => off 128 (entry (dShared d) i))

/-! Room (R28, R29, R41). A core's room for a device: of each owned partition the free runs of registers (in 16) and the slots
left, and the banks left. -/

/-- Room of a core. -/
structure Room where
  parts : List (List Nat × Nat)
  banks : Nat
  deriving DecidableEq, Repr

/-- Banks of a core that a device owns (R313): 16 for a quadrant, 8 for a half. -/
def State.ownedBanks (s : State) (vd core : Nat) : Nat :=
  (List.range 8).foldl (fun n h => if s.ownsPart vd core (4 * h) then n + 8 else n) 0

/-- R28: the lengths, in 16 registers, of the free runs of a partition beside these runs. -/
def gapSizes (runs : List (Nat × Nat)) : List Nat :=
  let taken := fun (u : Nat) => runs.any fun r => r.1 ≤ 16 * u && 16 * u < r.1 + r.2
  ((List.range 16).foldl (fun (acc : List Nat) u =>
    if taken u then 0 :: acc else match acc with | x :: xs => (x + 1) :: xs | [] => [1]) []).filter (· ≠ 0)

/-- R28, R29: a core's room for a device, empty (`whole`) or as it now stands. -/
def State.coreRoom (s : State) (vd core : Nat) (whole : Bool) : Room :=
  let mine := (List.range 32).filter fun p => s.ownsPart vd core p
  let used := if whole then 0 else (s.teams.filter fun t => t.vd = vd && t.core = core && !t.saved).foldl (fun n t => n + t.banks) 0
  { parts := mine.map fun p => if whole then ([16], 16) else (gapSizes (s.runsAt core p), 16 - (s.residents core p).length)
    banks := s.ownedBanks vd core - used }

/-- The ways to take a budget from one of the free runs. -/
def takeGap (b : Nat) : List Nat → List (List Nat)
  | [] => []
  | x :: xs => (if b ≤ x then [(x - b) :: xs] else []) ++ (takeGap b xs).map (x :: ·)

/-- The ways to place a group in one of the partitions; of partitions that are alike, one. -/
def placements (b : Nat) : List (List Nat × Nat) → List (List (List Nat × Nat))
  | [] => []
  | p :: ps =>
    (if 1 ≤ p.2 && !ps.contains p then (takeGap b p.1).map fun gs => (gs, p.2 - 1) :: ps else []) ++ (placements b ps).map (p :: ·)

/-- Is there a way to place groups of all these budgets? -/
def fitsInto : List Nat → List (List Nat × Nat) → Bool
  | [], _ => true
  | b :: bs, ps => (placements b ps).any (fitsInto bs)

/-- R41: can `n` teams of a launch stand in a core's room together? -/
def Room.holds (r : Room) (d n : Nat) : Bool :=
  let bs := (List.range 17).reverse.flatMap fun b => List.replicate (n * ((dBudgets d).filter fun x => x.1 = b).length) b
  n * max 1 (dGroups d) ≤ 512 && n * dBanks d ≤ r.banks && fitsInto bs r.parts

/-- How many of at most `n` more teams than `k` fit into a core's room. -/
def Room.count (r : Room) (d : Nat) : Nat → Nat → Nat
  | 0, k => k
  | n + 1, k => if r.holds d (k + 1) then r.count d n (k + 1) else k

/-- Cores in service. -/
def State.coresUp (s : State) : List Nat := (List.range 256).filter fun c => !s.retiredCores.contains c

/-- R329: the physical cores a device can use: in service, with a quadrant or half of its own. -/
def State.usableCores (s : State) (vd : Nat) : List Nat := s.coresUp.filter fun c => s.holdsCore vd c

/-- Teams of a launch that the device's cores take together, counted up to `n`. -/
def State.teamsFitting (s : State) (vd d : Nat) (whole : Bool) (n : Nat) : Nat :=
  (s.usableCores vd).foldl (fun k c => if n ≤ k then k else k + (s.coreRoom vd c whole).count d (min 512 (n - k)) 0) 0

/-- R329: is a DET launch time-sliced: more logical cores than usable physical ones? Never with CORES, whose teams stay co-resident
(R41). -/
def State.sliced (s : State) (vd d : Nat) : Bool := dDet d && !dCores d && (s.usableCores vd).length < dLcores d

/-- R329: can a DET grid be placed: a core of its own for every logical core that has a team or, where it is time-sliced, a core for each?
Logical cores below NTEAMS mod LCORES have one team more than the others. -/
def State.detFits (s : State) (vd d : Nat) (whole : Bool) : Bool :=
  let q := dTeams d / max 1 (dLcores d)
  let r := dTeams d % max 1 (dLcores d)
  let can := fun (n : Nat) => ((s.usableCores vd).filter fun c => (s.coreRoom vd c whole).holds d n).length
  if s.sliced vd d then (r = 0 || can (q + 1) ≠ 0) && (q = 0 || can q ≠ 0)
  else (r = 0 || r ≤ can (q + 1)) && (q = 0 || dLcores d ≤ can q)

/-- Status 0x20: a CORES or DET grid that cannot be resident at once, even with every quadrant of the device free (R41, R329,
log 25). -/
def State.gridTooLarge (s : State) (vd d : Nat) : Bool :=
  if dDet d then !s.detFits vd d true
  else if dCores d then s.teamsFitting vd d true (dTeams d) < dTeams d
  else false

/-- Status 0x21. -/
def State.teamTooLarge (s : State) (vd d : Nat) : Bool := !((s.usableCores vd).any fun c => (s.coreRoom vd c true).holds d 1)

/-- Status 0x22 (R247). -/
def State.versionBusy (s : State) (vd d : Nat) : Bool :=
  if !dAnytime d then false
  else
    let hdr := vHdraddr (s.devRead vd (dVobj d) 64)
    let h := s.devRead vd hdr 64
    let place := s.devTranslate vd .load hdr
    let live := s.launches.any fun x =>
      dAnytime x.desc && s.devTranslate x.vd .load (vHdraddr (s.devRead x.vd (dVobj x.desc) 64)) = place
    (hState h = 0 && live) || hPin h 0 ≠ 0 || hPin h 1 ≠ 0 || hPin h 2 ≠ 0

/-- R302, R177: does a page that the checks of a launch read stall: the descriptor, its tables, its version object and header,
its context with layer and digest tables? The launch then waits. -/
def State.launchStalls (s : State) (vd : Nat) (va : DWord) : Bool :=
  let d := s.readLaunchDesc vd va
  let at_ := fun (a n : Nat) => a ≠ 0 && s.devStalls vd (BitVec.ofNat 64 a) n
  let c := s.devRead vd (dMctx d) 64
  s.devStalls vd va 256 || at_ (dRanges d) (128 * dRngblks d) || at_ (dShared d) (16 * min 16 (dNshared d)) ||
    at_ (dMctx d).toNat 64 || (dMctx d ≠ 0 && (at_ (cTable c) (32 * cLayers c) || at_ (cDigests c) (48 * cLayers c + 3421))) ||
    (dAnytime d && s.headerStalls vd (dVobj d))

/-- R307, R309: the status of a launch of a device: the first check that fails, in the order of the codes. A descriptor that
cannot be read has no reserved fields to check. -/
def State.launchStatus (s : State) (vd : Nat) (va : DWord) : Nat :=
  let d := s.readLaunchDesc vd va
  if !s.devMapped vd .load va 256 then 0x11
  else if !dReserved d then 0x10
  else if va.toNat % 64 ≠ 0 || s.badAddress vd d then 0x11
  else if badRoles d then 0x12
  else if badSizes d then 0x13
  else if badFlags d then 0x14
  else if s.badVersion vd d then 0x15
  else if s.badContext vd d then 0x16
  else if s.badRanges vd d then 0x17
  else if s.gridTooLarge vd d then 0x20
  else if s.teamTooLarge vd d then 0x21
  else if s.versionBusy vd d then 0x22
  else 0

/-- R307, R346: what the device reads for the checks of a launch (address, bytes): the descriptor, its tables, its version object and
header, and its context with the layer and digest tables. Where these lie at a peer they are asked for once, as the entry is taken,
whatever the checks then say (DESIGN CHOICE, log 51). -/
def State.launchReads (s : State) (vd : Nat) (va : DWord) : List (Nat × Nat) :=
  let d := s.readLaunchDesc vd va
  let o := s.devRead vd (dVobj d) 64
  let c := s.devRead vd (dMctx d) 64
  let pieces := fun (a n k : Nat) => (List.range k).map fun i => (a + n * i, n)
  pieces va.toNat 64 4 ++ (if dRanges d = 0 then [] else pieces (dRanges d) 16 (8 * dRngblks d)) ++
    (if dShared d = 0 then [] else pieces (dShared d) 16 (dNshared d)) ++
    (if dAnytime d then [((dVobj d).toNat, 64), ((vHdraddr o).toNat, 64)] else []) ++
    (if dMctx d = 0 then [] else ((dMctx d).toNat, 64) :: pieces (cTable c) 32 (cLayers c) ++
      (if cDigests c = 0 then [] else pieces (cDigests c) 48 (cLayers c + 1)))

/-! Acceptance (R307) and completion (R305). -/

/-- R307, R247, R283: a launch is accepted: numbered, its context activated, its header reset. -/
def State.acceptLaunch (s : State) (vd : Nat) (va : DWord) (entry : Option (Word × DWord × Bool × Nat)) (queue : Option Nat) :
    State :=
  let d := s.readLaunchDesc vd va
  let id := s.nextLaunch
  let x : Launch := { id := id, seqno := id, vd := vd, desc := d, descVa := va, entry := entry, queue := queue }
  let s := { s with launches := s.launches ++ [x], nextLaunch := id + 1 }
  let s := if dMctx d = 0 then s else s.activate vd (dMctx d) id
  let s := if !dAnytime d then s
    else
      let o := s.devRead vd (dVobj d) 64
      s.putHeader vd o (headerReset (s.devRead vd (vHdraddr o) 64))
  (s.modVd vd fun d => { d with save := if d.save = .idle then .running else d.save }).wakeDev vd

/-- R305: the completion record of a queue entry is written, or a KIND 6 record posted in its place; then the interrupt. -/
def State.complete16 (s : State) (vd seqno status energy : Nat) (early unrepl : Bool) (e : Word × DWord × Bool × Nat) : State :=
  let (tag, compl, irq, vec) := e
  let bit := fun (b : Bool) (n : Nat) => if b then 2 ^ n else 0
  let rec_ := energy % 2 ^ 64 * 2 ^ 64 + bit early 41 + bit unrepl 40 + status * 2 ^ 32 + tag.toNat
  let s1 := if compl = 0 then s
    else match (if compl.toNat % 16 ≠ 0 then XRes.fault 0 else s.devTranslate vd .store compl) with
      | .ok pa => s.putAt vd pa 16 rec_
      | _ => s.postRecord vd (faultRecord compl.toNat energy tag.toNat (status + bit unrepl 8 + bit early 9) 6 vd 0 0 0 0 seqno)
  if irq then s1.signalVec vd vec else s1

/-- The completion record's page is scrub-pending or not yet restored: its write waits (R177). -/
def State.complStalls (s : State) (vd : Nat) (e : Option (Word × DWord × Bool × Nat)) : Bool :=
  match e with
  | some (_, compl, _, _) => compl ≠ 0 && s.devTranslate vd .store compl == .stall
  | none => false

/-- May a queue's next entry be taken: entries announced, the queue enabled, its device created and awake, and the launch
before it placed (R310, R343)? -/
def State.queueWaits (s : State) (q : Nat) : Bool :=
  let c := nget {} s.queues q
  let d := s.vd c.owner
  c.enable && c.head ≠ c.tail && d.created && d.pstate = .awake && (d.save = .running || d.save = .idle) &&
    !(s.launches.any fun x => x.queue = some q && x.cut.isNone && x.nextTeam < dTeams x.desc)

/-- R311: how an entry stands at the queue arbiter: its age t·T, then the device's turn after the last one served. -/
def State.queueRank (s : State) (q : Nat) : Nat × Nat :=
  let c := nget {} s.queues q
  ((s.clock - c.since) * (s.vd c.owner).tension, (s.lastServed + 256 - c.owner) % 256)

/-- R311: may the queue's entry be taken next: no entry of another device is older, or as old and before it in turn? -/
def State.queueReady (s : State) (q : Nat) : Bool :=
  s.queueWaits q && s.queues.all fun e =>
    let mine := s.queueRank q
    let other := s.queueRank e.1
    e.2.owner = (nget {} s.queues q).owner || !s.queueWaits e.1 ||
      other.1 < mine.1 || (other.1 = mine.1 && other.2 < mine.2)

/-- R304, R307: the head entry of a work queue is taken. -/
def State.takeQueue (s : State) (q : Nat) : State :=
  let c := nget {} s.queues q
  let a := c.base + 64 * (c.head.toNat % 2 ^ c.log2n)
  let e := s.num (s.alias a) 64
  let vd := c.owner
  let desc := BitVec.ofNat 64 (field e 0 64)
  let entry := (BitVec.ofNat 32 (field e 128 32), BitVec.ofNat 64 (field e 64 64), decide (field e 169 1 = 1), c.vec)
  let status := if field e 160 9 ≠ 0 || field e 170 342 ≠ 0 then 0x10 else s.launchStatus vd desc
  if s.complStalls vd (some entry) || s.launchStalls vd desc then s
  else
    let s := ((s.engineGet vd a 64).askFor vd (s.launchReads vd desc)).modVd vd fun d => { d with idleSince := none }
    let s := { s with queues := nset {} s.queues q { c with head := c.head + 1, since := s.clock }, lastServed := vd }
    if status = 0 then s.acceptLaunch vd desc (some entry) (some q) else s.complete16 vd 0 status 0 false false entry

/-- R280: the LAUNCH at the head of a group's post queue is performed; its status goes to the issuing group. -/
def State.takeLaunch (s : State) (g : Group) : State :=
  match g.queue postQ with
  | ⟨seq, .launch desc dest m⟩ :: _ =>
    if g.saved || s.launchStalls g.vd desc then s
    else
      let status := s.launchStatus g.vd desc
      let s := (s.askFor g.vd (s.launchReads g.vd desc)).modGroup g.id fun g =>
        (g.writeDest dest 0 m fun _ => BitVec.ofNat 32 status).opDone postQ seq
      if status = 0 then s.acceptLaunch g.vd desc none none else s
  | _ => s

/-- QUEUE_ENTRY_TAKE (R307, R280). -/
def execQueueEntryTake (src : TakeSource) (s : State) : Out :=
  match src with
  | .queue q => if s.queueReady q then .next (s.takeQueue q) else .next s
  | .group gid => match s.group gid with
    | some g => .next (s.takeLaunch g)
    | none => .next s

/-! Placing teams (R29, R308, R310). -/

/-- R300: does the launch fit the reservoir: its estimate, else the mean of the device's history for the entry PC? -/
def State.fitsReservoir (s : State) (x : Launch) : Bool :=
  let d := s.vd x.vd
  if dEstimate x.desc ≠ 0 then (dEstimate x.desc : Int) ≤ d.level
  else match d.history.find? fun h => h.1 = (dEntry x.desc).toNat with
    | some h => h.2.isEmpty || ((h.2.foldl (· + ·) 0 : Nat) : Int) ≤ d.level * (h.2.length : Int)
    | none => 0 ≤ d.level

/-- May the launch start now: its teams fit as they stand (the first one; all of a CORES or DET grid)? -/
def State.fitsNow (s : State) (x : Launch) : Bool :=
  if dDet x.desc then s.detFits x.vd x.desc false
  else if dCores x.desc then dTeams x.desc ≤ s.teamsFitting x.vd x.desc false (dTeams x.desc)
  else (s.usableCores x.vd).any fun c => (s.coreRoom x.vd c false).holds x.desc 1

/-- R310: does another launch of the device that could start now come first: a higher priority, or the same and older? -/
def State.outranked (s : State) (x : Launch) : Bool :=
  s.launches.any fun y => y.vd = x.vd && y.id ≠ x.id && y.nextTeam = 0 && y.ahead.isEmpty && y.cut.isNone &&
    (dPrio x.desc < dPrio y.desc || (dPrio x.desc = dPrio y.desc && y.id < x.id)) && s.fitsReservoir y && s.fitsNow y

/-- The team's number is placed. -/
def Launch.mark (x : Launch) (t : Nat) : Launch :=
  let all := t :: x.ahead
  let next := (List.range (all.length + 1)).foldl (fun n _ => if all.contains n then n + 1 else n) x.nextTeam
  { x with nextTeam := next, ahead := all.filter fun k => next ≤ k }

/-- R329: the logical core of a team, and whether this core may hold it: the one that holds its logical core's teams, or one
that holds none of the launch. -/
def State.lcoreOk (s : State) (x : Launch) (t core : Nat) : Bool :=
  if !dDet x.desc then true
  else
    let k := t % dLcores x.desc
    (s.teams.filter fun u => u.launch = some x.id && !u.saved).all fun u => (u.core = core) = decide (u.teamid % dLcores x.desc = k)

/-- R308: SPB of a group. -/
def spillUnits (d t groupid : Nat) : Word :=
  if dSpillbase d = 0 then 0 else BitVec.ofNat 32 (dSpillbase d / 32768 + 32 * (t % dSpillteams d) + groupid)

/-- R308: may the team start: its number not placed, its spill area in no other team's use? -/
def State.teamFree (s : State) (x : Launch) (t : Nat) : Bool :=
  t < dTeams x.desc && x.nextTeam ≤ t && !x.ahead.contains t &&
    (dSpillbase x.desc = 0 || (s.teams.filter fun u => u.launch = some x.id).all fun u =>
      u.teamid % dSpillteams x.desc ≠ t % dSpillteams x.desc)

/-- R215: a team's scratchpad at placement: zero but for EXPECTED of its barrier objects. -/
def startScratch (d n : Nat) : NMap Byte :=
  (List.range (dBarriers d)).foldl (fun m b => putBytes m ((dBarbase d).toNat + 16 * b + 6) (toBytes 2 n)) []

/-- R44, R308: group number `i` of a team at placement, not seated yet. -/
def State.newGroup (s : State) (x : Launch) (team t core i : Nat) (place : Nat × Nat) (b : Nat × Nat × Nat) : Group :=
  let d := x.desc
  { id := s.nextGid + i, live := true, saved := true, vd := x.vd, launch := some x.id, team := team
    groupid := i, ngroups := dGroups d, teamid := t, nteams := BitVec.ofNat 32 (dTeams d)
    role := b.2.1, roleidx := b.2.2, core := core, part := place.1, slot := place.2
    lcore := if dDet d then t % dLcores d else core
    alloc := 16 * b.1, exec := allLanes, pc := dEntry d, checkmode := dCheck d, arg := dArgs d
    utv := dUtv d, trb := dTrb d, barbase := dBarbase d, stv := (s.vd x.vd).stv, spb := spillUnits d t i }

/-- R29, R168: a team comes to be, its scratchpad and all its groups, saved until it is seated. -/
def State.createTeam (s : State) (x : Launch) (t core : Nat) (places : List (Nat × Nat)) : State :=
  let d := x.desc
  let id := s.nextTeam
  let team : Team :=
    { id := id, launch := some x.id, vd := x.vd, teamid := t, core := core, alloc := 32768 * dBanks d, banks := dBanks d
      scratch := startScratch d (dGroups d), groups := dGroups d, saved := true }
  let gs := (List.range (dGroups d)).map fun i =>
    s.newGroup x id t core i (places.getD i (0, 0)) ((dBudgets d).getD i (1, 0, 0))
  { s with
    teams := s.teams ++ [team], others := s.others ++ gs, nextTeam := id + 1, nextGid := s.nextGid + dGroups d }.modLaunch x.id
      fun x => x.mark t

/-! Seating a team (R28, R29, R327). -/

/-- The groups of a team that have not ended, in the order of GROUPID. -/
def State.teamGroups (s : State) (team : Nat) : List Group :=
  ((List.range 32).filterMap fun i => s.groups.find? fun g => g.id ≠ 0 && g.team = team && g.live && g.groupid = i)

/-- R28: a saved group takes a slot and a run of registers. -/
def State.seatGroup (s : State) (vd gid core part slot : Nat) : Option State :=
  match s.group gid with
  | none => none
  | some g =>
    if 32 ≤ part || !s.ownsPart vd core part || !s.roomAt core part slot g.alloc then none
    else
      let base := (freeRun (s.runsAt core part) g.alloc).getD 0
      some (s.modGroup gid fun g =>
        { g with saved := false, core := core, part := part, slot := slot, base := base, readySince := s.clock })

/-- The groups of a team take their places. -/
def seatGroups (vd core : Nat) : List (Nat × (Nat × Nat)) → State → Option State
  | [], s => some s
  | (gid, p) :: ps, s => (s.seatGroup vd gid core p.1 p.2).bind (seatGroups vd core ps)

/-- R229: a team that comes back keeps each group's slot and its partition's number within the quadrant, and which groups share
a quadrant, since gang registers and lists name them; the quadrants themselves may be others (R327). -/
def sameSeats (gs : List Group) (places : List (Nat × Nat)) : Bool :=
  (gs.zip places).all fun a =>
    a.1.part % 8 = a.2.1 % 8 && a.1.slot = a.2.2 && (gs.zip places).all fun b =>
      decide (a.1.part / 8 = b.1.part / 8) = decide (a.2.1 / 8 = b.2.1 / 8)

/-- The engine operations of a group that has ended are over. -/
def Group.over (g : Group) : Bool := !g.live && g.queues.all fun q => q.2.isEmpty

/-- The units of the package that a team's groups use, and those that have ended with operations still queued (R44). -/
def State.teamUnits (s : State) (team : Nat) : List Nat :=
  ((s.groups.filter fun g => g.id ≠ 0 && g.team = team && !g.over).map s.unitOf).eraseDups

/-- R225: is a unit of a core (counted from its first) a half of a quadrant? -/
def State.halfAt (s : State) (core u : Nat) : Bool := match nget .free s.quads (4 * core + u / 2) with | .halves _ _ => true | _ => false

/-- R225, R313: is this a unit of a core (counted from its first) that the device owns? -/
def State.ownsUnit (s : State) (vd core u : Nat) : Bool := s.ownsPart vd core (4 * u) && (s.halfAt core u || u % 2 = 0)

/-- R44, R243: the units that take the place of a saved team's units, as far as they are paired; each other one, which only ended groups
use, takes its own number or else the first that `fits` and is free. None where one finds no unit. -/
def unitPairs (fits : Nat → Nat → Bool) : List Nat → List (Nat × Nat) → Option (List (Nat × Nat))
  | [], ps => some ps
  | u :: us, ps =>
    if ps.any fun p => p.1 = u then unitPairs fits us ps
    else match (u :: List.range 8).find? fun v => fits u v && !ps.any fun p => p.2 = v with
      | some v => unitPairs fits us (ps ++ [(u, v)])
      | none => none

/-- The unit that took the place of a saved team's unit, both counted from their core's first, if one did. -/
def unitMap (ps : List (Nat × Nat)) (u : Nat) : Option Nat := (ps.find? fun p => p.1 = u).map fun p => p.2

/-- R243: may a unit take the place of a saved team's unit: owned by the device, whole for a whole one, and the same half for a half? -/
def State.unitFits (s : State) (t : Team) (core u v : Nat) : Bool :=
  s.ownsUnit t.vd core v && s.halfAt core v = t.halves.contains u && v % 2 = u % 2

/-- Has the team used a tile of a unit of the package? -/
def Team.uses (t : Team) (unit tile : Nat) : Bool := t.tileUse.contains (8 * (unit - 8 * t.core) + tile)

/-- The unit of the package that a team's unit was saved from. -/
def Team.home (t : Team) (unit : Nat) : Nat := match t.homes.find? fun h => h.2 = unit with | some h => h.1 | none => unit

/-- The elements of one tile (8·unit + tile), by their place in it. -/
def tileOf (m : NMap Word) (k : Nat) : NMap Word := (m.filter fun e => e.1 / 4096 = k).map fun e => (e.1 % 4096, e.2)

/-- R68, R243: would a saved team, its units placed so, find or change tiles that are another team's? It would where a team that came from
another unit stands there, and both have used a tile, or what was saved differs from what that team needs; or where a team with which
it shared a tile stands on another unit. -/
def State.unitsClash (s : State) (t : Team) (core : Nat) (ps : List (Nat × Nat)) : Bool :=
  ps.any fun p =>
    let old := 8 * t.core + p.1
    let new := 8 * core + p.2
    (s.teams.filter fun w => w.id ≠ t.id && w.vd = t.vd && !w.saved).any fun w =>
      let there := (s.teamUnits w.id).contains new && w.home new ≠ old
      (List.range 8).any fun k =>
        let mine := t.tileUse.contains (8 * p.1 + k)
        let differs := tileOf t.tiles (8 * p.1 + k) ≠ tileOf s.tiles (8 * new + k)
        (there && ((mine && w.uses new k) || (differs && (w.uses new k || w.gen ≠ 0)))) ||
          w.homes.any fun h => h.1 = old && h.2 ≠ new && mine && w.uses h.2 k

/-- The partition of a unit that has the same place in its quadrant or half as another. -/
def State.partIn (s : State) (core u part : Nat) : Nat :=
  if s.halfAt core u then 4 * u + part % 4 else 8 * (u / 2) + part % 8

/-- R325: a replay packet's lane is translated anew as it is issued again; one that now faults or stalls keeps its place (log 29). -/
def State.replayLane (s : State) (g : Group) (l : LaneLoad) : LaneLoad :=
  match l.loc, s.translate g.agent g.vd .load l.va with
  | .phys _, .ok pa => { l with loc := .phys (s.alias pa) }
  | _, _ => l

/-- R325: on resumption the replay packets of a group are issued again, before any group issues: requests to peers leave anew, and the
remote timeout starts again. -/
def State.replayLoads (s : State) (gid : Nat) : State :=
  match s.group gid with
  | none => s
  | some g =>
    let again := fun (ls : List LaneLoad) => ls.map (s.replayLane g)
    let s := s.modGroup gid fun g => { g with pend := g.pend.map fun p => { p with lanes := again p.lanes } }
    match g.wait, g.remote with
    | some (.remote false n ls _), none =>
      (s.sendPlaces g.vd (again ls) fun _ => .load n).modGroup gid fun g => { g with wait := some (.remote false n (again ls) s.clock) }
    | _, _ => s

/-- R243, R68: every tile of a saved team's units comes back on the units that take their place. A tile that another team of the owner
has used there keeps what it holds. -/
def State.restoreTiles (s : State) (t : Team) (core : Nat) (ps : List (Nat × Nat)) : State :=
  let kept := fun (k : Nat) => s.teams.any fun u => u.id ≠ t.id && u.vd = t.vd && u.core = core && !u.saved && u.uses (k / 8) (k % 8)
  let back := (t.tiles.filterMap fun e => (unitMap ps (e.1 / 32768)).map fun u => (32768 * (8 * core + u) + e.1 % 32768, e.2)).filter
    fun e => !kept (e.1 / 4096)
  let old := s.tiles.filter fun e => !(ps.any fun p => e.1 / 32768 = 8 * core + p.2) || kept (e.1 / 4096)
  { s with tiles := back.foldl (fun (m : NMap Word) (e : Nat × Word) => nset 0 m e.1 e.2) old }

/-- R243, R44: the matrix state of a team that comes back goes to the units that take the place of its own: its tiles, its needles, its
queued gang operations, and the queues of groups that have ended. -/
def State.restoreUnits (s : State) (t : Team) (core : Nat) (ps : List (Nat × Nat)) : State :=
  let s := s.modGroups (fun g => g.id ≠ 0 && g.team = t.id && !g.live) fun g =>
    { g with part := match unitMap ps g.unitSaved with | some u => s.partIn core u g.part | none => g.part }
  let s := { s with gangOps := s.gangOps.map fun (o : GangOp) =>
    if o.team = t.id then { o with unit := match unitMap ps (o.unit - 8 * t.core) with | some u => 8 * core + u | none => o.unit } else o }
  (s.restoreTiles t core ps).modTeam t.id fun t =>
    { t with
      tiles := [], halves := [], homes := ps.map fun (p : Nat × Nat) => (8 * t.core + p.1, 8 * core + p.2)
      needles := t.needles.foldl (fun (m : NMap Nat) (e : Nat × Nat) => match unitMap ps e.1 with | some u => nset 0 m u e.2 | none => m) []
      tileUse := t.tileUse.filterMap fun k => (unitMap ps (k / 8)).map fun u => 8 * u + k % 8 }

/-- R326: the wait a group goes on with when it resumes: an LWAIT executes again (R290; DEDUCED, log 29), every other wait is entered
again as it was. -/
def Group.resumedWait (g : Group) : Option Wait := match g.wait with | some (.layer _ _ _ _) => none | w => w

/-- R29, R325-R327: a saved team is seated on a core, all its groups together; none where there is no room. One that comes back (its
generation has advanced, R214) takes its matrix state along, and its replay packets are issued again (R325); it is not seated where
that state would not be restored exactly (R44, R68, R243; log 29). -/
def State.seatTeam (s : State) (team core : Nat) (places : List (Nat × Nat)) : Option State :=
  match s.team team with
  | none => none
  | some t =>
    let gs := s.teamGroups team
    let det := match t.launch.bind s.launch with | some x => dDet x.desc && s.lcoreOk x t.teamid core | none => true
    let isDet := match t.launch.bind s.launch with | some x => dDet x.desc | none => false
    let back := t.gen ≠ 0
    if !t.saved || places.length ≠ gs.length || (isDet && !det) || !s.coresUp.contains core ||
        (s.coreRoom t.vd core false).banks < t.banks || (back && !sameSeats gs places) then none
    else match seatGroups t.vd core ((gs.map fun g => g.id).zip places) s with
    | none => none
    | some s1 =>
      let s1 := s1.modGroups (fun g => g.id ≠ 0 && g.team = team) fun g =>
        { g with saved := false, core := core, lcore := (if isDet then g.lcore else core), wait := g.resumedWait }
      let ended := (s1.groups.filter fun g => g.id ≠ 0 && g.team = team && !g.live && !g.over).map fun g => g.unitSaved
      let live := ((gs.map fun g => g.unitSaved).zip ((s1.teamGroups team).map fun g => s1.unitOf g - 8 * core)).eraseDups
      match (if back then unitPairs (s1.unitFits t core) ended live else some []) with
      | none => none
      | some ps =>
        if !(ps.all fun p => s1.unitFits t core p.1 p.2) || s1.unitsClash t core ps then none
        else
          let s2 := (if back then s1.restoreUnits t core ps else s1).modTeam team fun t =>
            { t with saved := false, core := core, placedAt := s.clock }
          some ((gs.map fun g => g.id).foldl State.replayLoads s2)

/-- R29, R41, R329: a team of a launch is placed as the spot says; none where it cannot be. A team of a time-sliced DET grid whose
core serves another logical core first waits, saved, for its turn. -/
def State.placeSpot (s : State) (l : Nat) (p : TeamSpot) : Option State :=
  match s.launch l with
  | none => none
  | some x =>
    if !s.teamFree x p.team || p.places.length ≠ dGroups x.desc || !(p.places.all fun q => s.ownsPart x.vd p.core q.1 && q.2 < 16) then none
    else
      let id := s.nextTeam
      let t := s.createTeam x p.team p.core p.places
      if !s.lcoreOk x p.team p.core && s.sliced x.vd x.desc then some t else t.seatTeam id p.core p.places

/-- Teams of a launch, one after the other. -/
def placeSpots (l : Nat) : List TeamSpot → State → Option State
  | [], s => some s
  | p :: ps, s => (s.placeSpot l p).bind (placeSpots l ps)

/-! Ends (R30, R259, R305). -/

/-- R30: the groups of a team leave the machine. -/
def State.dropGroups (s : State) (p : Group → Bool) : State :=
  { s with grp := if p s.grp then {} else s.grp, others := s.others.filter fun g => !p g }

/-- TEAM_END (R30, R209): the last group has ended and the engine operations are over: what is still in the store queues is
performed, and the team is gone. -/
def execTeamEnd (team : Nat) (s : State) : Out :=
  match s.team team with
  | none => .next s
  | some t =>
    let mine := s.groups.filter fun g => g.team = team && g.id ≠ 0
    if !(mine.all Group.over) then .next s
    else
      let s := (mine.map fun g => g.id).foldl State.drain s
      let s := { s with teams := s.teams.filter fun t => t.id ≠ team }.dropGroups fun g => g.team = team && g.id ≠ 0
      .next (match t.launch with | some l => s.modLaunch l fun x => { x with ended := x.ended + 1 } | none => s)

/-- R300: the history of an entry PC takes a completed launch's energy: the last eight, for up to 256 PCs. -/
def VDev.remember (d : VDev) (pc energy : Nat) : VDev :=
  let old := match d.history.find? fun h => h.1 = pc with | some h => h.2 | none => []
  { d with history := ((pc, (energy :: old).take 8) :: d.history.filter fun h => h.1 ≠ pc).take 256 }

/-- Has a launch ended: it is cut, or every team has been placed and has ended; and its header is closed (R246)? -/
def Launch.over (x : Launch) : Bool := x.headerDue.isNone && (x.cut.isSome || (x.waitCut.isNone && x.ended = dTeams x.desc))

/-- R305: the end of a launch. -/
def State.endLaunch (s : State) (x : Launch) : State :=
  let status := x.cut.getD 0
  let mine := s.groups.filter fun g => g.launch = some x.id
  let s := (mine.map fun g => g.id).foldl State.drain s
  let s := s.releasePins x.vd x.pins
  let s := if dMctx x.desc = 0 then s else s.deactivate x.vd (dMctx x.desc) x.id
  let energy := x.energy.whole s.free
  let s := (s.bumpFree 1).modVd x.vd fun d => if status = 0 then d.remember (dEntry x.desc).toNat energy else d
  let s := { s with launches := s.launches.filter fun y => y.id ≠ x.id, teams := s.teams.filter fun t => t.launch ≠ some x.id }
  let s := s.dropGroups fun g => g.launch = some x.id
  match x.entry with
  | some e => s.complete16 x.vd x.seqno status energy (x.finishNow && x.cut.isNone) x.unrepl e
  | none => s

/-- LAUNCH_COMPLETE (R305). A launch that diverged in replay, and whose groups have all ended, ends with 0x33 (R336). -/
def execLaunchComplete (l : Nat) (s : State) : Out :=
  match s.launch l with
  | some x =>
    if !x.over || s.complStalls x.vd x.entry then .next s
    else if x.cut.isNone && x.diverged.isSome then .next (s.doCut l 0x33)
    else .next (s.endLaunch x)
  | none => .next s

end Sys2Proof.Machine
end

