-- ==== Sys2Proof/Machine/Shape.lean ====
section
/-! DEFINITION. What each instruction word reads and writes, and its fixed latency (07 R74, R75, R77): the roles that the
interlocks and the stall counts follow. -/

namespace Sys2Proof.Machine

/-- The roles of a word's fields. `src` and `dst` are register fields with their runs, vector or uniform by `u`; `ssrc`
and `sdst` are uniform registers with their runs; `psrc` and `pdst` predicate numbers, p or q by `u`; `qsrc` and `qdst` a
uniform predicate. `lat` is R74's latency of the vector form, 0 where the result is interlocked (R75). -/
structure Shape where
  u : Bool := false
  guard : Nat := 0
  src : List (Nat × Nat) := []
  dst : List (Nat × Nat) := []
  ssrc : List (Nat × Nat) := []
  sdst : List (Nat × Nat) := []
  psrc : List Nat := []
  qsrc : List Nat := []
  pdst : List Nat := []
  qdst : List Nat := []
  gdst : List Nat := []
  xsrc : List Nat := []
  xdst : List Nat := []
  /-- the guard is a selector: the word writes every lane of EXECMASK (R140) -/
  selects : Bool := false
  lat : Nat := 0
  deriving DecidableEq, Repr

/-- A compute word: sources and destination are single registers. -/
def shReg (lat : Nat) (u : Bool) (g d : Nat) (srcs : List Nat) : Shape :=
  { u := u, guard := g, src := srcs.map fun f => (f, 1), dst := [(d, 1)], lat := lat }

/-- A compare. -/
def shCmp (u : Bool) (g d : Nat) (srcs : List Nat) : Shape :=
  { u := u, guard := g, src := srcs.map fun f => (f, 1), pdst := [d], lat := 2 }

/-- A predicate operation. -/
def shPred (u : Bool) (g d a b : Nat) : Shape := { u := u, guard := g, psrc := [a, b], pdst := [d], lat := 2 }

/-- A memory word: the registers of its address operand (R175), and its data run. -/
def shMem (u : Bool) (x : Option Nat) (a : Nat) (src dst : List (Nat × Nat)) : Shape :=
  { u := u, src := (a, if x = some 0 then 2 else 1) :: src, dst := dst
    xsrc := match x with | some k => if k = 0 then [] else [k] | none => [] }

/-- The pairs and runs of uniform registers that an S word names by a vector field of 112 to 126. -/
def shUni (a n : Nat) : List (Nat × Nat) := if 112 ≤ a && a ≤ 126 then [(a - 112, n)] else []

/-- The 32 predicates of a bank, or q1-q15 (R139). -/
def bankPreds (u : Bool) (k : Nat) : List Nat :=
  if u then (List.range 16).drop 1 else if 4 ≤ k then [] else (List.range 32).map fun j => 32 * k + j

/-- Registers of an access of size code z (R198). -/
def sizeRun (z : Nat) : Nat := runLen (2 ^ z)

/-- R74, R75, R77: the roles of an instruction word; none for an event. -/
def shapeOf : Instr → Option Shape
  | .nop _ => some {}
  -- A words (R82)
  | .mov u g d a | .popc u g d a | .clz u g d a | .brev u g d a => some (shReg 2 u g.toNat d.toNat [a.toNat])
  | .iadd u g d a b | .isub u g d a b | .imin u g d a b | .imax u g d a b | .umin u g d a b | .umax u g d a b
  | .and u g d a b | .or u g d a b | .xor u g d a b | .andn u g d a b | .shl u g d a b | .shr u g d a b
  | .sar u g d a b | .bfeu u g d a b | .bfes u g d a b =>
    some (shReg 2 u g.toNat d.toNat [a.toNat, b.toNat])
  | .sel u g d a b => some { shReg 2 u g.toNat d.toNat [a.toNat, b.toNat] with selects := true }
  | .imullo u g d a b | .imulhi u g d a b | .imulhiu u g d a b | .fadd u g d a b | .fsub u g d a b | .fmul u g d a b
  | .fmin u g d a b | .fmax u g d a b | .hadd2 u g d a b | .hmul2 u g d a b | .badd2 u g d a b | .bmul2 u g d a b =>
    some (shReg 4 u g.toNat d.toNat [a.toNat, b.toNat])
  | .icmpeq u g d a b | .icmpne u g d a b | .icmplt u g d a b | .icmple u g d a b | .ucmplt u g d a b | .ucmple u g d a b
  | .fcmpeq u g d a b | .fcmpne u g d a b | .fcmplt u g d a b | .fcmple u g d a b | .fcmpun u g d a b =>
    some (shCmp u g.toNat d.toNat [a.toNat, b.toNat])
  | .pand u g d a b | .por u g d a b | .pxor u g d a b | .pandn u g d a b =>
    some (shPred u g.toNat d.toNat a.toNat b.toNat)
  | .shflidx g d a b | .shflxor g d a b | .lshup g d a b | .lshdn g d a b =>
    some (shReg 0 false g.toNat d.toNat [a.toNat, b.toNat])
  | .votebal g d a => some { guard := g.toNat, psrc := [a.toNat], dst := [(d.toNat, 1)] }
  | .voteany g d a | .voteall g d a => some { guard := g.toNat, psrc := [a.toNat], pdst := [d.toNat] }
  | .rdfirst g d a => some (shReg 0 false g.toNat d.toNat [a.toNat])
  | .frcp u g d a | .frsq u g d a | .fex2 u g d a | .flg2 u g d a | .fsin u g d a | .fcos u g d a =>
    some (shReg 0 u g.toNat d.toNat [a.toNat])
  | .psave u g d a => some { u := u, guard := g.toNat, psrc := bankPreds u a.toNat, dst := [(d.toNat, 1)], lat := 2 }
  | .pload u g d a => some { u := u, guard := g.toNat, src := [(a.toNat, 1)], pdst := bankPreds u d.toNat, lat := 2 }
  -- B words (R83)
  | .iaddi u g d a _ | .andi u g d a _ | .ori u g d a _ | .xori u g d a _ | .shli u g d a _ | .shri u g d a _
  | .sari u g d a _ => some (shReg 2 u g.toNat d.toNat [a.toNat])
  | .icmpeqi u g d a _ | .icmplti u g d a _ | .icmpgti u g d a _ => some (shCmp u g.toNat d.toNat [a.toNat])
  | .movi u g d _ | .srd u g d _ => some (shReg 2 u g.toNat d.toNat [])
  | .swr u g a _ => some { u := u, guard := g.toNat, src := [(a.toNat, 1)] }
  | .gset d a n => some { -- its predicate field is a source (DEDUCED, log 1)
      psrc := if n.getLsbD 1 then [] else [a.toNat], qsrc := if n.getLsbD 1 then [a.toNat] else [], gdst := [d.toNat], lat := 2 }
  | .win _ => some {}
  | .ldspill g d _ => some { guard := g.toNat, dst := [(d.toNat, 1)] }
  | .stspill g d _ => some { guard := g.toNat, src := [(d.toNat, 1)] }
  | .cvt u g d a _ | .imuli u g d a _ => some (shReg 4 u g.toNat d.toNat [a.toNat])
  | .lshupi g d a _ | .lshdni g d a _ => some (shReg 0 false g.toNat d.toNat [a.toNat])
  | .shflxori g d a _ => some (shReg 0 false g.toNat d.toNat [a.toNat])
  -- C words (R84): d is a source too
  | .ffma u _ g d a b | .ffmn u _ g d a b | .hfma2 u _ g d a b | .bfma2 u _ g d a b =>
    some (shReg 4 u g.toNat d.toNat [a.toNat, b.toNat, d.toNat])
  | .dp4 u _ g d a b | .dp8 u _ g d a b => some (shReg 5 u g.toNat d.toNat [a.toNat, b.toNat, d.toNat])
  | .imad u g d a b => some (shReg 4 u g.toNat d.toNat [a.toNat, b.toNat, d.toNat])
  | .iaddminSs u g d a b | .iaddminNn u g d a b | .bfi u g d a b | .iadd3 u g d a b | .isad u g d a b =>
    some (shReg 2 u g.toNat d.toNat [a.toNat, b.toNat, d.toNat])
  -- the run d, d + 1 counts as read, both registers (R47, R130; DEDUCED, log 1)
  | .iadd64 u g d a b =>
    some { u := u, guard := g.toNat, src := [(a.toNat, 2), (b.toNat, 1), (d.toNat, 2)], dst := [(d.toNat, 2)], lat := 3 }
  -- M words (R85)
  | .ld u x d a s _ => some (shMem u (some x.toNat) a.toNat [] [(d.toNat, sizeRun s.toNat)])
  | .lda u x d a s _ => some (shMem u (some x.toNat) a.toNat [] [(d.toNat, sizeRun s.toNat)])
  | .lds u x d a _ _ => some (shMem u (some x.toNat) a.toNat [] [(d.toNat, 1)])
  | .st u x d a s _ => some (shMem u (some x.toNat) a.toNat [(d.toNat, sizeRun s.toNat)] [])
  | .strel u x d a s _ => some (shMem u (some x.toNat) a.toNat [(d.toNat, sizeRun s.toNat)] [])
  | .sld u d a s _ => some (shMem u none a.toNat [] [(d.toNat, sizeRun s.toNat)])
  | .slds u d a _ _ => some (shMem u none a.toNat [] [(d.toNat, 1)])
  | .sst u d a s _ => some (shMem u none a.toNat [(d.toNat, sizeRun s.toNat)] [])
  | .ldts x d a _ _ => some (shMem false (some x.toNat) a.toNat [(d.toNat, 1)] [])
  | .cpy x d a _ r _ =>
    let sh := shMem false (some x.toNat) a.toNat [] []
    let pairD := if (r = 1 || r = 3) && x = 0 then 2 else 1
    let pairA := if (r = 0 || r = 3) && x = 0 then 2 else 1
    some { sh with src := [(a.toNat, pairA), (d.toNat, pairD)] }
  | .atom x d a s o _ =>
    let n := 4 * 2 ^ s.toNat
    some (shMem false (some x.toNat) a.toNat [(d.toNat, atomicRun n o.toNat)] [(d.toNat, n / 4)])
  | .red x d a s o _ => some (shMem false (some x.toNat) a.toNat [(d.toNat, atomicRun (4 * 2 ^ s.toNat) o.toNat)] [])
  | .satom d a s o =>
    let n := 4 * 2 ^ s.toNat
    some (shMem false none a.toNat [(d.toNat, atomicRun n o.toNat)] [(d.toNat, n / 4)])
  | .pref x a _ _ => some (shMem false (some x.toNat) a.toNat [] [])
  -- S words (R86)
  | .bar d a _ _ | .bararr d a _ _ => some { src := [(a.toNat, 1)], dst := [(d.toNat, 1)] }
  | .barwait a _ => some { src := [(a.toNat, 1)] }
  | .fence _ | .qfence _ _ | .pause _ | .mzero _ _ | .mwait _ | .ntake | .npass | .cdone | .commit | .tokpass | .join
  | .exit | .trap _ | .sys _ | .tret _ | .bkpt _ | .tlbiConfirm => some {}
  | .yield _ k r => some { ssrc := if k = 2 then [((r.extractLsb' 0 7).toNat, 1)] else [] }
  | .xlat d a _ => some { ssrc := shUni a.toNat 2, xdst := [d.toNat] }
  | .gath d a _ => some { ssrc := shUni a.toNat 7 ++ shUni d.toNat 1 }
  | .scat d a _ _ _ => some { ssrc := shUni a.toNat 7 ++ shUni d.toNat 1 }
  | .mcast d a => some { ssrc := shUni a.toNat 5, dst := [(d.toNat, 1)] }
  | .mgang a => some { ssrc := shUni a.toNat 2 }
  | .mma d a _ _ => some { src := [(d.toNat, 1), (a.toNat, 32)] }
  | .mdrain d _ _ => some { dst := [(d.toNat, 16)] }
  | .mstore a _ _ _ _ _ => some { ssrc := shUni a.toNat 3 }
  | .mfence d => some { sdst := shUni d.toNat 1 }
  | .pass a j => some { sdst := [(j.toNat, 4)], qdst := [a.toNat] }
  | .seal a => some { ssrc := shUni a.toNat 1 }
  | .vread a _ j => some { ssrc := shUni a.toNat 2, sdst := [(j.toNat, 4)] }
  | .vwait a _ j => some { ssrc := shUni a.toNat 3, sdst := [(j.toNat, 4)] }
  | .vdone a m => some { ssrc := shUni a.toNat 2 ++ [(m.toNat, 1)] }
  | .post d a r j => some { src := [(a.toNat, 1)], ssrc := [(j.toNat, 2)], dst := if r = 1 then [(d.toNat, 1)] else [] }
  | .reply d a => some { src := [(d.toNat, 1), (a.toNat, 1)] }
  | .enq d a e j =>
    some { src := (a.toNat, 1) :: (if e = 1 then [(d.toNat, 2)] else []), ssrc := [(j.toNat, if e = 1 then 3 else 2)] }
  | .signal a _ => some { src := [(a.toNat, 2)] }
  | .launch d j => some { ssrc := [(j.toNat, 2)], dst := [(d.toNat, 1)] }
  | .lwait a j => some { ssrc := shUni a.toNat 3, sdst := [(j.toNat, 2)] }
  | .ldone a | .lhint a => some { ssrc := shUni a.toNat 3 }
  | .enrd _ j => some { sdst := [(j.toNat, 2)] }
  | .ret l => some { ssrc := [(if l = 1 then 125 else 126, 1)] }
  | .jmpi a => some { ssrc := [(a.toNat, 2)] }
  | .pmap d a _ _ => some { ssrc := shUni a.toNat 2, dst := [(d.toNat, 1)] }
  | .tlbiDrain j => some { ssrc := [(j.toNat, 3)] }
  -- J words (R87) and L-forms (R88)
  | .bra u g _ => some { u := u, guard := g.toNat }
  | .call u g _ => some { u := u, guard := g.toNat, sdst := [(126, 1)] }
  | .mark _ | .probe _ => some {}
  | .brk g => some { guard := g.toNat }
  | .tramp g _ => some { guard := g.toNat, sdst := [(125, 1)] }
  | .movl u d _ => some (shReg 2 u 0 d.toNat [])
  | .iaddl u d a _ | .andl u d a _ | .orl u d a _ | .xorl u d a _ => some (shReg 2 u 0 d.toNat [a.toNat])
  | .imull u d a _ | .faddl u d a _ | .fmull u d a _ => some (shReg 4 u 0 d.toNat [a.toNat])
  | .ffmal u d a _ => some (shReg 4 u 0 d.toNat [a.toNat, d.toNat])
  | .icmpeql u d a _ | .icmpltl u d a _ | .fcmpltl u d a _ => some (shCmp u 0 d.toNat [a.toNat])
  -- events
  | .frameFetch _ | .stallCountElapse _ | .activeSetFill _ _ | .forcedRotation _ _ | .pauseExpiry _ | .loadReturn _ _
  | .storePerformed _ | .remoteErrorReply _ | .remoteTimeout _ | .copyPartArrival _ _ _ | .copyPartFault _ _ _
  | .mcastPartArrival _ _ | .gangOperationEntry _ | .mdrainEntry _ | .mstoreEntry _ | .mzeroEntry _ | .needlePass _
  | .queueEntryTake _ | .teamPlace _ _ _ _ | .teamEnd _ | .launchComplete _ | .timeLimitExpiry _
  | .energyLimitReached _ | .passOpen _ | .skeinRecordArrival _ | .skeinTimerExpiry _ | .skeinFire _ _ _
  | .watchdogExpiry _ | .postReplyArrival _ | .layerFetchStart _ | .layerArrival _ | .layerFetchFault _ _
  | .evictionComplete _ _ | .reservoirRefill | .thermalLimitStep _ _ | .idleThresholdExpiry _ | .collapseComplete _
  | .wakeComplete _ | .vaultPageRestore _ _ | .scrubComplete _ _ | .haltComplete _ | .saveComplete _
  | .restoreComplete _ _ | .timeSliceExpiry _ _ _ | .debuggerStop _ | .debuggerStep _ | .debuggerStepAll _
  | .pwrlimWrite _ _ | .heatlimWrite _ _ _ | .healthWrite _ _ | .attestation _ _ | .firmwareUpdate _ _ _
  | .wake _ _ _ | .create _ _ _ | .destroy _ _ _ | .grantq _ _ _ | .revokeq _ _ _ | .grantcg _ _ _ | .revokecg _ _ _
  | .preempt _ _ _ | .resume _ _ _ | .replay _ _ _ | .drain _ _ _ | .confirm _ _ _ | .grantv _ _ _ | .revokev _ _ _
  | .mapreply _ _ _ | .ringIndexWrite _ _ _ _ _ | .queueConfigWrite _ _ _ _ | .doorbell _ _ _ _ _
  | .memoryWindowRead _ _ _ | .memoryWindowWrite _ _ _ | .memoryWindowAtomic _ _ _ _ _ _ | .registerWrite _ _ _
  | .functionLevelReset _ | .packageReset _ _ | .linkTraining _ _ _ | .peerRequest _ | .correctedError _
  | .uncorrectableError _ | .coreRetirement _ | .channelGroupWithdrawal _ | .debuggerContinue _ | .debuggerAttach _
  | .memoryWindowServiceTimeout _ | .postQueuePartPerformed _ | .scatterRowWrite _ _ | .unloggedMarkNotice _ => none

/-- R73: does the word act as a count of 7 whenever it completes? -/
def actsAsSeven : Instr → Bool
  | .tramp _ _ | .ret _ | .jmpi _ | .tret _ | .yield _ _ _ => true
  | _ => false

/-- Is the word a control instruction, which re-executes in SMASK (R318)? -/
def isControl : Instr → Bool
  | .bra _ _ _ | .call _ _ _ | .mark _ | .brk _ | .join | .exit | .ret _ | .jmpi _ | .tramp _ _ | .yield _ _ _ => true
  | _ => false

/-- Is the word an L-form (R88)? -/
def isLong : Instr → Bool
  | .movl _ _ _ | .iaddl _ _ _ _ | .andl _ _ _ _ | .orl _ _ _ _ | .xorl _ _ _ _ | .imull _ _ _ _ | .icmpeql _ _ _ _
  | .icmpltl _ _ _ _ | .faddl _ _ _ _ | .fmull _ _ _ _ | .ffmal _ _ _ _ | .fcmpltl _ _ _ _ => true
  | _ => false

/-! Resources. -/

/-- The registers of a run of a field (R46-R48). -/
def Group.fieldRes (g : Group) (u : Bool) (f n : Nat) : List Res :=
  if u then ((List.range n).map (f + ·)).filterMap fun k => if k < 127 then some (Res.s k) else none
  else if f ≤ 111 then (List.range n).map fun k => Res.v (g.phys f + k)
  else if f ≤ 126 then (List.range n).map fun k => Res.s (f - 112 + k) else []

/-- Uniform registers by number. -/
def uniRes (f n : Nat) : List Res := ((List.range n).map (f + ·)).filterMap fun k => if k < 127 then some (Res.s k) else none

/-- A predicate, p0 and q0 apart (R49). -/
def predRes (q : Bool) (n : Nat) : List Res := if n = 0 then [] else [if q then .q n else .p n]

/-- The predicate that a guard slot's content names. -/
def slotRes (slot : BitVec 9) : List Res := predRes (slot.getLsbD 7) (slot.extractLsb' 0 7).toNat

/-- R77: what a guard reads: its slot, the predicate the slot names, and the one it named before a producer in flight. -/
def Group.guardRes (g : Group) (k : Nat) : List Res :=
  if k = 0 then []
  else
    let olds := g.prods.filterMap fun p => match p.res, p.old with
      | .g n, .slot old => if n = k then some old else none
      | _, _ => none
    Res.g k :: slotRes (g.gslot k) ++ olds.flatMap slotRes

/-- What an instruction reads. -/
def Shape.reads (sh : Shape) (g : Group) : List Res :=
  g.guardRes sh.guard ++ (sh.src.flatMap fun r => g.fieldRes sh.u r.1 r.2) ++ (sh.ssrc.flatMap fun r => uniRes r.1 r.2) ++
    (sh.psrc.flatMap (predRes sh.u)) ++ sh.qsrc.flatMap (predRes true) ++ sh.xsrc.map Res.x

/-- What an instruction writes. -/
def Shape.writes (sh : Shape) (g : Group) : List Res :=
  (sh.dst.flatMap fun r => g.fieldRes sh.u r.1 r.2) ++ (sh.sdst.flatMap fun r => uniRes r.1 r.2) ++
    (sh.pdst.flatMap (predRes sh.u)) ++ (sh.qdst.flatMap (predRes true)) ++ sh.gdst.map Res.g ++ sh.xdst.map Res.x

/-- R74: the latency: 2 for the uniform form of a fixed-latency instruction. -/
def Shape.latency (sh : Shape) : Nat := if sh.lat = 0 then 0 else if sh.u then 2 else sh.lat

/-- R51, R126, R140: the lanes in which the instruction executes. A uniform one counts in every lane of EXECMASK or in none; SEL
in every lane of EXECMASK, whatever its selector. -/
def Shape.lanes (sh : Shape) (g : Group) : Mask :=
  if sh.selects then g.exec
  else if sh.u then (match g.uniGuard sh.guard with | some false => 0 | _ => g.exec) else g.act sh.guard

/-- R77: of the lanes `m` in which the instruction executes, those whose destination it writes: a lane shift leaves d as it was
where no lane moves in (R145), and MDRAIN writes every lane (17 R238). -/
def wroteLanes (i : Instr) (g : Group) (m : Mask) : Mask :=
  let up := fun (n : Nat) => m &&& maskOf fun k => n ≤ k
  let down := fun (n : Nat) => m &&& maskOf fun k => k + n ≤ 31
  match i with
  | .lshupi _ _ _ n => up n.toNat
  | .lshdni _ _ _ n => down n.toNat
  | .lshup _ _ _ b => up (g.lane b.toNat 0).toNat
  | .lshdn _ _ _ b => down (g.lane b.toNat 0).toNat
  | .mdrain _ _ _ => allLanes
  | _ => m

/-- R273: the roles of the words whose runs a descriptor sizes: POST, REPLY and ENQ. -/
def State.sizedShape (s : State) (i : Instr) (sh : Shape) : Shape :=
  let g := s.grp
  let desc := fun (j : Nat) => s.devRead g.vd (g.spair j) 64
  let run := fun (f n : Nat) => if n < 4 || 16 < n then [] else [(f, n / 4)]
  match i with
  | .post d a r j =>
    let o := desc j.toNat
    { sh with src := run a.toNat (oReq o), dst := if r = 1 then run d.toNat (oRpl o) else [] }
  | .enq _ a _ j => { sh with src := sh.src.drop 1 ++ run a.toNat (nRec (desc j.toNat)) }
  | .reply d a => match g.kind with
    | .combiner k => { sh with src := (d.toNat, 1) :: run a.toNat (oRpl (s.skDesc (s.skein k))) }
    | _ => sh
  | _ => sh

end Sys2Proof.Machine
end

