-- ==== Sys2Proof/Machine/Select.lean ====
section
/-! DEFINITION. Who may issue (03 R31-R38): the interlocks of the next instruction, the pipes and ports, the active set of a
partition, and the age matrix of a pair. -/

namespace Sys2Proof.Machine

/-! Interlocks (R75). -/

/-- The resources of a destination. -/
def Dest.res (d : Dest) : List Res :=
  match d with
  | .vec f n => (List.range n).map fun k => Res.v (f + k)
  | .uni f n => uniRes f n
  | .none => []

/-- The result that an engine operation owes. -/
def OpKind.owes (k : OpKind) : List Res :=
  match k with
  | .mcast _ _ _ _ _ _ dest _ => dest.res
  | .mdrain first _ _ => (Dest.vec first 16).res
  | .launch _ dest _ => dest.res
  | _ => []

/-- R75: the registers whose interlocked write by an access or an engine is outstanding. -/
def Group.owed (g : Group) : List Res :=
  (g.pend.flatMap fun p => p.dest.res) ++ g.queues.flatMap fun q => q.2.flatMap fun o => o.kind.owes

/-- R75: the registers whose interlocked write is outstanding. -/
def Group.outstanding (g : Group) : List Res := g.owed ++ g.due.map fun d => d.1

/-- Is an interlocked write of any of these outstanding? -/
def Group.conflict (g : Group) (rs : List Res) : Bool := let out := g.outstanding; rs.any out.contains

/-! The next instruction. -/

/-- R71, R96: what a fetch at the group's PC does: the group has the frame, or it traps or waits. Both halves are read at one
moment; the manual gives them no order (DESIGN CHOICE, log 48). -/
def State.fetchFrame (s : State) (gid : Nat) : State :=
  match s.group gid with
  | none => s
  | some g =>
    let base := frameBase g.pc
    if g.pc.extractLsb' 0 2 ≠ 0 || g.pc = base then s.trapGroup gid causeTarget 0 g.exec 0
    else match s.translate g.agent g.vd .fetch base with
    | .stall => s.modGroup gid fun g => { g with wait := some (.fetch base), active := false }
    | .fault d => s.trapGroup gid causePage (0x20 + d) g.exec base
    | .ok pa =>
      if s.badRange pa 32 then s.trapGroup gid causePage 0x24 g.exec base
      else
        let ws := toWords 8 (s.num pa 32)
        let h := (ws.headD 0).toNat
        let s := s.tlbFill g.agent g.vd .fetch base
        if field h 29 3 ≠ 0 || field h 0 1 ≠ 0 then s.trapGroup gid causeFrame 0 g.exec 0
        else s.modGroup gid fun g => { g with frame := some (base, ws) }

/-- Has the group the frame of its PC? -/
def Group.hasFrame (g : Group) : Bool :=
  match g.frame with | some (b, _) => b = frameBase g.pc && g.pc ≠ b && g.pc.extractLsb' 0 2 = 0 | none => false

/-- R69, R70: the slot of a PC in its frame: slot number, word, the word after it, U bit and stall count. -/
structure Slot where
  n : Nat
  word : Word
  next : Word
  u : Bool
  count : Nat
  deriving DecidableEq, Repr

/-- The slot that the group's PC names in the frame it has. -/
def Group.slotAt (g : Group) : Slot :=
  match g.frame with
  | none => { n := 0, word := 0, next := 0, u := false, count := 0 }
  | some (base, ws) =>
    let n := (g.pc - base).toNat / 4
    let h := (ws.getD 0 0).toNat
    { n := n, word := ws.getD n 0, next := ws.getD (n + 1) 0, u := h.testBit n, count := field h (8 + 3 * (n - 1)) 3 }

/-- The next instruction of a group and its shape, where its frame can be had now and the word decodes. -/
def State.peek (s : State) (g : Group) : Option (Instr × Shape) :=
  let s := s.focus g.id
  let s := if s.grp.hasFrame then s else s.fetchFrame g.id
  if !s.grp.hasFrame || s.grp.wait.isSome then none
  else
    let sl := s.grp.slotAt
    match decodeWord sl.u (sl.n = 7) sl.word sl.next with
    | .error _ => none
    | .ok i => (shapeOf i).map fun sh => (i, s.sizedShape i sh)

/-- R75: what an instruction of this shape waits for. -/
def Group.interlocked (g : Group) (sh : Shape) : Option (List Res) :=
  let rs := sh.reads g ++ sh.writes g
  if g.conflict rs then some rs else none

/-! Pipes and ports (R31-R33). -/

/-- R32: what an instruction needs. -/
inductive Pipe where
  | vector
  | uniform
  | special
  | memory
  | engine
  | slot
  deriving DecidableEq, Repr

/-- R32: the pipe or port of an instruction, U bit apart. -/
def basePipe : Instr → Pipe
  | .frcp .. | .frsq .. | .fex2 .. | .flg2 .. | .fsin .. | .fcos .. | .shflidx .. | .shflxor .. | .shflxori .. | .lshup ..
  | .lshdn .. | .lshupi .. | .lshdni .. | .votebal .. | .voteany .. | .voteall .. | .rdfirst .. => .special
  | .ld .. | .lds .. | .st .. | .sld .. | .slds .. | .sst .. | .lda .. | .strel .. | .atom .. | .red .. | .satom .. | .pref ..
  | .ldspill .. | .stspill .. | .bar .. | .bararr .. | .barwait .. => .memory
  | .cpy .. | .ldts .. | .gath .. | .scat .. | .mcast .. | .mgang .. | .mma .. | .mdrain .. | .mstore .. | .mzero .. | .mfence ..
  | .post .. | .reply .. | .cdone | .enq .. | .signal .. | .launch .. | .pass .. | .seal .. | .vread .. | .vwait .. | .vdone ..
  | .lwait .. | .ldone .. | .lhint .. => .engine
  | .nop .. | .probe .. | .fence .. | .qfence .. | .pause .. | .yield .. | .xlat .. | .mwait .. | .ntake | .npass | .enrd ..
  | .commit | .tokpass | .ret .. | .jmpi .. | .trap .. | .sys .. | .tret .. | .bkpt .. | .pmap .. | .tlbiDrain ..
  | .tlbiConfirm => .slot
  | _ => .vector

/-- R32: the pipe or port, with the U bit: the uniform pipe but for the memory port's instructions. -/
def pipeOf (i : Instr) (sh : Shape) : Pipe :=
  match basePipe i with
  | .memory => .memory
  | .slot => .slot
  | p => if sh.u then .uniform else p

/-- Is it shared by a pair of partitions? -/
def Pipe.shared (p : Pipe) : Bool := p = .special || p = .memory || p = .engine

/-- R198: the bytes of a lane's access. -/
def accessSize : Instr → Nat
  | .ld _ _ _ _ z _ | .st _ _ _ _ z _ | .sld _ _ _ z _ | .sst _ _ _ z _ | .lda _ _ _ _ z _ | .strel _ _ _ _ z _ | .cpy _ _ _ z _ _
  | .ldts _ _ _ z _ | .pref _ _ z _ => 2 ^ z.toNat
  | .atom _ _ _ z _ _ | .red _ _ _ z _ _ | .satom _ _ z _ => 4 * 2 ^ z.toNat
  | _ => 4

/-- R31, R32, R198: how many clk the instruction keeps its pipe or port: a vector instruction two, a memory or engine port by the
size of an access, the uniform form one. The special-function port takes one, since R43 lets none of the 16 active groups of a pair wait
longer than 16 clk (DEDUCED, log 17). R198 gives the clk of M words alone: every other word keeps a memory or engine port 1 clk (DESIGN
CHOICE, log 56). -/
def pipeClk (i : Instr) (sh : Shape) : Nat :=
  match pipeOf i sh with
  | .vector => 2
  | .special => 1
  | .slot => 0
  | _ => if sh.u || accessSize i ≤ 4 then 1 else if accessSize i = 8 then 2 else 4

/-- The vector registers that an instruction reads as it issues: MMA's panels go another way (R33). -/
def Shape.vectorReads (sh : Shape) (i : Instr) (g : Group) : List Nat :=
  let sh := match i with | .mma d _ _ _ => { sh with src := [(d.toNat, 1)] } | _ => sh
  ((sh.reads g).filterMap fun r => match r with | .v n => some n | _ => none).eraseDups

/-- R33: the extra clk of bank conflicts: the most registers read from one bank, less one. -/
def extraClk (i : Instr) (sh : Shape) (g : Group) : Nat :=
  let rs := sh.vectorReads i g
  ((List.range 4).map fun b => (rs.filter fun n => n % 4 = b).length).foldl max 0 - 1

/-- The number of a partition in the package. -/
def partKey (core part : Nat) : Nat := 32 * core + part

/-- Where `State.pipeFree` keeps a pipe of a partition or a port of its pair. -/
def pipeKey (core part : Nat) (p : Pipe) : Nat :=
  let n := match p with | .vector => 0 | .uniform => 1 | .special => 2 | .memory => 3 | .engine => 4 | .slot => 5
  8 * partKey core (if p.shared then part / 2 * 2 else part) + n

/-! Readiness (R34, R41, R325, R329). -/

/-- R41, R329: are all the teams resident that must be so together with this group's: a CORES or DET grid's, but for a grid that
is time-sliced? -/
def State.gridPlaced (s : State) (g : Group) : Bool :=
  match g.launch.bind s.launch with
  | none => true
  | some x =>
    if !(dCores x.desc || dDet x.desc) || s.sliced x.vd x.desc then true
    else dTeams x.desc ≤ x.nextTeam && s.teams.all fun t => t.launch ≠ some x.id || !t.saved

/-- Does the group's device let it issue (R327)? Combiner and node groups go on while it is saved. -/
def State.deviceRuns (s : State) (g : Group) : Bool :=
  g.kind ≠ .launch || (s.vd g.vd).save = .running || (s.vd g.vd).save = .idle

/-- R34: a group that could issue but for its stall count, its pipe or port, and selection. One whose next instruction waits on
an interlocked result has that wait (`State.interlockAll`). -/
def Group.ready (g : Group) : Bool := g.id ≠ 0 && g.live && !g.saved && !g.stopped && g.wait.isNone

/-- R34, R41, R327: is the group ready, and may its grid and device issue? -/
def State.ready (s : State) (g : Group) : Bool := g.ready && s.deviceRuns g && s.gridPlaced g

/-- May the group issue, its stall count and selection apart? `stepped`: by the debugger (R337). -/
def State.issuable (s : State) (g : Group) (stepped : Bool) : Bool :=
  g.id ≠ 0 && g.live && !g.saved && g.wait.isNone && (stepped || (!g.stopped && g.active)) && s.deviceRuns g && s.gridPlaced g

/-! The age matrix and the candidates (R36, R38). -/

/-- R36, R38: a group's rank in its pair: one that pauses is youngest, then the one that issued (or entered) last; ties to the
lower slot. -/
def State.ageRank (s : State) (g : Group) : List Nat :=
  [if s.clock < g.pausedUntil then 1 else 0, g.lastIssue.getD g.enteredAt]

/-- R36: the pipe or port that a group's next instruction needs. -/
def State.needs (s : State) (g : Group) : Pipe := match s.peek g with | some (i, sh) => pipeOf i sh | none => .slot

/-- R36: has the pipe or port that the group needs accepted an instruction in this clk? -/
def State.taken (s : State) (g : Group) : Bool := nget 0 s.pipeTaken (pipeKey g.core g.part (s.needs g)) = s.clock + 1

/-- R36: is the group eligible: active and ready, its stall count elapsed and its pipe or port free as the clk begins? -/
def State.eligible (s : State) (g : Group) : Bool :=
  g.active && s.ready g && g.stallUntil ≤ s.clock &&
    (nget 0 s.pipeFree (pipeKey g.core g.part (s.needs g)) ≤ s.clock || s.taken g)

/-- R36 step 1: the candidate of a partition, among those that do not need the port `but`. -/
def State.candidate (s : State) (core part : Nat) (but : Option Pipe) : Option Group :=
  if s.clock < nget 0 s.selFree (partKey core part) then none
  else
    let gs := (s.residents core part).filter fun g => s.eligible g && but ≠ some (s.needs g)
    (leastKey (gs.map fun g => (s.ageRank g ++ [g.slot], g))).map fun k => k.2

/-! Moves into the active set (R35). -/

/-- R35: the group ready for the longest time in the pending set of a partition, ties to the lower slot. -/
def State.oldestReady (s : State) (core part : Nat) : Option Group :=
  let gs := (s.residents core part).filter fun g => s.ready g && !g.active
  (leastKey (gs.map fun g => ([g.readySince, g.slot], g))).map fun k => k.2

/-- The active set of a partition. -/
def State.activeSet (s : State) (core part : Nat) : List Group := (s.residents core part).filter fun g => g.active

/-- R35: the group that moves in now: there is room, and the partition has no eligible candidate or the group has been ready, with
room, for 16 clk. A candidate that only loses its port to the pair's other partition is one. A partition makes one move, or issues,
in a clk. -/
def State.mayFill (s : State) (core part : Nat) : Option Group :=
  let key := partKey core part
  match s.oldestReady core part with
  | none => none
  | some g =>
    if s.clock < nget 0 s.selFree key || 8 ≤ (s.activeSet core part).length then none
    else if (s.candidate core part none).isNone || max g.readySince (nget 0 s.fullAt key) + 16 ≤ s.clock then some g
    else none

/-- R35: the groups of a forced rotation: the one that has been ready for 64 clk, and the one that leaves: a paused group before
any other, else the one active the longest, ties to the lower slot. The 64 clk count from when the group became ready, whether or not
the active set was full all the while (DEDUCED, log 17). -/
def State.mayRotate (s : State) (core part : Nat) : Option (Group × Group) :=
  let act := s.activeSet core part
  let paused := fun (g : Group) => if s.clock < g.pausedUntil then 0 else 1
  match s.oldestReady core part, leastKey (act.map fun g => ([paused g, g.enteredAt, g.slot], g)) with
  | some g, some (_, out) =>
    if s.clock < nget 0 s.selFree (partKey core part) || act.length < 8 || s.clock < g.readySince + 64 then none else some (g, out)
  | _, _ => none

/-- R35: does a move use the partition's selection in this clk? -/
def State.moveDue (s : State) (core part : Nat) : Bool := (s.mayFill core part).isSome || (s.mayRotate core part).isSome

/-! Selection in a pair (R36). -/

/-- The other partition of a pair. -/
def partner (part : Nat) : Nat := if part % 2 = 0 then part + 1 else part - 1

/-- R36: the candidate with which a partition contends for a port of its pair: none where it moves in this clk, in which it issues
nothing (DEDUCED, log 17). -/
def State.contender (s : State) (core part : Nat) : Option Group :=
  if s.moveDue core part then none else s.candidate core part none

/-- R36: do the two candidates of a pair need the same shared port? -/
def State.collide (s : State) (g h : Group) : Bool := (s.needs g).shared && s.needs g = s.needs h

/-- R36 step 2: does `g` take the port from `h`, of the other partition: it is older or, as old, of the partition that lost the
last tie, at first the even one? -/
def State.wins (s : State) (g h : Group) : Bool :=
  let a := s.ageRank g
  let b := s.ageRank h
  let lost := nget 0 s.tieLost (16 * g.core + g.part / 2)
  keyLess a b || (a = b && if lost = 0 then g.part % 2 = 0 else lost = g.part % 2 + 1)

/-- R36: the group that a partition selects in this clk: its candidate, or where that one's port goes, or has gone, to the pair's
other partition in this clk, the next that does not need it. -/
def State.picked (s : State) (core part : Nat) : Option Group :=
  match s.candidate core part none with
  | none => none
  | some g =>
    let lost := s.taken g || match s.contender core (partner part) with | some h => s.collide g h && !s.wins g h | none => false
    if lost then s.candidate core part (some (s.needs g)) else some g

/-- R36: where the candidates of a pair tie for a port as `g`, of either partition, issues, the tie is noted. -/
def State.noteTie (s : State) (g : Group) : State :=
  match s.candidate g.core g.part none, s.contender g.core (partner g.part) with
  | some c, some h =>
    if s.collide c h && s.ageRank c = s.ageRank h then
      { s with tieLost := nset 0 s.tieLost (16 * g.core + g.part / 2) ((if s.wins c h then h.part else c.part) % 2 + 1) }
    else s
  | _, _ => s

/-- R34-R36: may the group issue in this clk: its partition selects it, and makes no move? -/
def State.mayIssue (s : State) (g : Group) (stepped : Bool) : Bool :=
  s.issuable g stepped && (stepped || (!s.moveDue g.core g.part && (s.picked g.core g.part).any fun h => h.id = g.id))

/-- R35, R36: a partition's selection is used in this clk, and for `n` more it issues nothing (R33). -/
def State.useClk (s : State) (core part n : Nat) : State :=
  { s with selFree := nset 0 s.selFree (partKey core part) (s.clock + 1 + n) }

/-- What a partition may do in a clk. -/
inductive PartTurn where
  | issue (gid : Nat)
  | fill (core part : Nat)
  | rotate (core part : Nat)

/-- R35, R36: what a partition does now. -/
def State.partTurn (s : State) (core part : Nat) : Option PartTurn :=
  if (s.mayRotate core part).isSome then some (.rotate core part)
  else if (s.mayFill core part).isSome then some (.fill core part)
  else (s.picked core part).map fun g => .issue g.id

/-- The partitions that hold groups. -/
def State.heldParts (s : State) : List (Nat × Nat) :=
  ((s.groups.filter fun g => g.id ≠ 0 && g.live && !g.saved).map fun g => (g.core, g.part)).eraseDups

/-- R35, R36: what some partition of the package does in this clk, if any has something to do. -/
def State.nextTurn (s : State) : Option PartTurn := s.heldParts.findSome? fun p => s.partTurn p.1 p.2

/-! What the device does of itself at a clk (R43, R20, R22). -/

/-- R43, R267: what a skein does now of itself: its timer has run out, or it fires and a group fits. -/
def State.skeinTurn (s : State) (k : Nat) : Option Instr :=
  let x := s.skein k
  let core := s.coreAt (k / 64)
  let regs := 16 * skRegs x.node (s.skDesc x)
  if x.state = .fire then
    let spots := (List.range 32).flatMap fun p => (List.range 16).map fun n => (p, n)
    let held := (s.vd x.vd).heldLog.contains (.batch k) && !s.logOpen x.vd (.batch k)
    let dies := fun (p : Launch → Bool) => x.batch.any fun r => match r.launch.bind s.launch with | some y => p y | none => false
    let diverged := dies fun y => y.diverged.isSome
    let stuck := match (s.logBatch k x (s.skDesc x)).2.1 with | .diverges => !dies fun _ => true | _ => false
    if held || diverged || stuck || (s.vd x.vd).pstate ≠ .awake then none
    else (spots.find? fun p => s.ownsPart x.vd core p.1 && s.roomAt core p.1 p.2 regs).map fun p => .skeinFire k p.1 p.2
  else match x.deadline with
    | some c => if c ≤ s.clock && !(x.held.any fun r => r.det) && !s.skReplay x then some (.skeinTimerExpiry k) else none
    | none => none

/-- R43, R267: what some skein does now. -/
def State.nextSkein (s : State) : Option Instr := (s.skeins.map fun p => p.1).findSome? s.skeinTurn

/-- R299: the clk at which the next refill step is due: every 1 ms. -/
def State.refillDue (s : State) : Nat := s.lastRefill + 1000 * clkPerUs

/-- R22: the clk at which a die's next thermal step is due: every 10 ms. -/
def State.thermalDue (s : State) (die : Nat) : Nat := nget 0 s.lastThermal die + 10000 * clkPerUs

/-- R20, R22: the power step that is due now: a refill step, or a die's thermal step with what its sensor reads. -/
def State.nextStep (s : State) : Option Instr :=
  if s.refillDue ≤ s.clock then some .reservoirRefill
  else ((List.range 4).find? fun d => s.thermalDue d ≤ s.clock).map fun d => .thermalLimitStep d (Config.sensorReads d s.clock)

/-- What the device does of itself in this clk, its groups' issue apart. -/
def State.nextOwn (s : State) : Option Instr := s.nextSkein.or s.nextStep

/-- A clk in which no partition, and nothing else of the device, has anything left to do is over. -/
def State.closeClk (s : State) : State := if s.nextTurn.isSome || s.nextOwn.isSome then s else { s with clock := s.clock + 1 }

/-- R75, R35: a group whose next instruction waits on an interlocked result waits, in the pending set. -/
def State.interlockAll (s : State) : State :=
  let lock := fun (g : Group) =>
    if !s.ready g then g
    else match (s.peek g).bind fun p => g.interlocked p.2 with
      | some rs => { g with wait := some (.interlock rs), active := false }
      | none => g
  s.modGroups (fun g => g.id ≠ 0 && !(g.pend.isEmpty && g.due.isEmpty && g.queues.all fun q => q.2.isEmpty)) lock

/-- R75: the interlocked results whose clk has come are written. -/
def State.writeDue (s : State) : State :=
  s.modGroups (fun g => g.id ≠ 0 && !g.due.isEmpty) fun g => { g with due := g.due.filter fun d => s.clock < d.2 }

/-- R35: the clk at which the active sets that are full were so last. -/
def State.noteFull (s : State) : State :=
  s.heldParts.foldl (fun s p =>
    if 8 ≤ (s.activeSet p.1 p.2).length then { s with fullAt := nset 0 s.fullAt (partKey p.1 p.2) s.clock } else s) s

end Sys2Proof.Machine
end

