-- ==== Sys2Proof/Machine/Engines.lean ====
section
/-! DEFINITION. Events of the groups and their engines: frame fetch (07 R69-R71), stall counts and the active set (03 R34-R38),
returning loads and performed stores (07 R75, 13 R185), remote failures (25 R323), and the parts of copies, gathers,
scatters and multicasts (15 R206-R214). -/

namespace Sys2Proof.Machine

/-! Frames. -/

/-- FRAME_FETCH (R71, R96): a group that runs fetches the frame of its PC. -/
def execFrameFetch (gid : Nat) (s : State) : Out :=
  match s.group gid with
  | some g => if g.live && !g.saved && !g.stopped && g.wait.isNone then .next (s.fetchFrame gid) else .next s
  | none => .next s

/-! Stall counts, pauses and the active set (R34-R38, R72). -/

/-- STALL_COUNT_ELAPSE (R72): the clk of the count pass. -/
def execStallCountElapse (gid : Nat) (s : State) : Out :=
  match s.group gid with
  | some g => .next { s with clock := max s.clock g.stallUntil }
  | none => .next s

/-- PAUSE_EXPIRY (R222): the n clk of a pause pass, and the group stops being the youngest. -/
def execPauseExpiry (gid : Nat) (s : State) : Out :=
  match s.group gid with
  | some g =>
    if g.pausedUntil = 0 then .next s
    else .next ({ s with clock := max s.clock g.pausedUntil }.modGroup gid fun g => { g with pausedUntil := 0 })
  | none => .next s

/-- The group enters the active set. -/
def State.enterActive (s : State) (gid : Nat) : State :=
  s.modGroup gid fun g => { g with active := true, enteredAt := s.clock, lastIssue := none }

/-- ACTIVE_SET_FILL (R35): the move uses a clk of the partition's selection. -/
def execActiveSetFill (core part : Nat) (s : State) : Out :=
  match s.mayFill core part with
  | some g => .next ((s.enterActive g.id).useClk core part 0)
  | none => .next s

/-- FORCED_ROTATION (R35): a group ready for 64 clk takes the place of a paused group, else of the one active the longest. -/
def execForcedRotation (core part : Nat) (s : State) : Out :=
  match s.mayRotate core part with
  | some (g, out) =>
    .next (((s.modGroup out.id fun g => { g with active := false, readySince := s.clock }).enterActive g.id).useClk core part 0)
  | none => .next s

/-! Loads, stores and remote failures. -/

/-- Does the group wait for the answer of a host or peer? -/
def Group.awaitsRemote (g : Group) : Bool := match g.wait with | some (.remote _ _ _ _) => true | _ => false

/-- The lanes, with their places, of the access that it waits for. -/
def Group.asked (g : Group) : List LaneLoad := match g.wait with | some (.remote _ _ ps _) => ps | _ => []

/-- LOAD_RETURN (R75, R326): the answer of a host or peer reaches the access the group waits for; else the group's oldest
outstanding load is performed and written. A return with a stale GENTAG is dropped. -/
def execLoadReturn (gid tag : Nat) (s : State) : Out :=
  match s.group gid with
  | none => .next s
  | some g =>
    if g.saved || g.gentag.toNat ≠ tag then .next s
    else if g.awaitsRemote then .next (s.modGroup gid fun g => { g with remote := some { places := g.asked } })
    else match g.pend with
    | [] => .next s
    | p :: ps => .next ((s.performLoad gid p).modGroup gid fun g => { g with pend := ps })

/-- R185: the oldest store of a group may be performed: no older load of the group is outstanding. -/
def Group.storeReady (g : Group) : Option StoreEntry :=
  match g.storeQ with
  | e :: _ => if g.pend.all fun p => e.seq < p.seq then some e else none
  | [] => none

/-- STORE_PERFORMED (R185). -/
def execStorePerformed (gid : Nat) (s : State) : Out :=
  match s.group gid with
  | none => .next s
  | some g => match g.storeReady with
    | some e => .next ((s.performStore e).modGroup gid fun g => { g with storeQ := g.storeQ.drop 1 })
    | none => .next s

/-- Does a place lie on the host or a peer? -/
def State.remoteLoc (s : State) (l : MemLoc) : Bool := match l with | .phys a => s.isRemote a | .scratch _ _ => false

/-- R323: the parts of a store that fail: those of these lanes at host or peer addresses. -/
def State.failingParts (s : State) (lanes : Mask) (e : StoreEntry) : List LaneStore :=
  e.parts.filter fun p => s.remoteLoc p.loc && hasLane lanes p.lane

/-- R323: the oldest store of a group is performed but for the failing parts, the first of which sets the sticky error. -/
def State.storeFails (s : State) (g : Group) (lanes : Mask) (detail : Nat) (e : StoreEntry) (p : LaneStore) : State :=
  (((s.failTime g.vd detail e.since).sendStores g.vd (s.failingParts lanes e)).performStore
      { e with parts := e.parts.filter fun p => !(s.remoteLoc p.loc && hasLane lanes p.lane) }).modGroup g.id fun g =>
    { g with storeQ := g.storeQ.drop 1 }.setSticky detail p.va

/-- R323: the part at the head of the post queue fails: a post without reply, or a SIGNAL, at a peer. -/
def State.postFails (s : State) (g : Group) (detail : Nat) : State :=
  match g.queue postQ with
  | ⟨seq, .post va pa false since (_ :: ls)⟩ :: rest =>
    if !inPeer pa then s
    else (s.failTime g.vd detail since).modGroup g.id fun g =>
      (g.postStep seq (if ls.isEmpty then none else some (⟨seq, .post va pa false since ls⟩ :: rest))).setSticky detail va
  | ⟨seq, .signal sys since (l :: ls)⟩ :: rest =>
    match s.translate g.agent g.vd .store l.block with
    | .ok pa =>
      if !s.isRemote pa then s
      else (s.failTime g.vd detail since).modGroup g.id fun g =>
        (g.postStep seq (if ls.isEmpty then none else some (⟨seq, .signal sys since ls⟩ :: rest))).setSticky detail l.block
    | _ => s
  | _ => s

/-- R274, R323: the lanes of a POST.R at a peer that this mask names fail: each whose request has left and that is unanswered. -/
def State.replyFails (s : State) (g : Group) (lanes : Mask) (answer : Answer) : State :=
  (lanesOf lanes).foldl (fun s i => s.answerLane g.id i answer false true) s

/-- R323: a remote access of a group fails with this detail, in those of these lanes that it has at the host or a peer: the access
the group waits for, a POST.R too; else its oldest store; else the part at the head of its post queue. A failure of a saved group's
load, or one with an old GENTAG, is dropped (R326). -/
def State.remoteFails (s : State) (r : RemoteLanes) (detail : Nat) : State :=
  match s.group r.gid with
  | none => s
  | some g => match g.wait with
    | some (.remote atomic _ ps since) =>
      let bad := placesMask ps &&& r.lanes
      if bad = 0 || g.remote.isSome || (!atomic && (g.saved || g.gentag.toNat ≠ r.tag)) then s
      else (s.failTime g.vd detail since).modGroup g.id fun g => { g with remote := some { failed := bad, detail := detail, places := ps } }
    | some (.reply _ _ _ _ _ _ _) => s.replyFails g r.lanes (if detail = 2 then .timeout else .fault)
    | _ => if g.saved then s else match g.storeReady.bind fun e => (s.failingParts r.lanes e).head?.map fun p => (e, p) with
      | some (e, p) => s.storeFails g r.lanes detail e p
      | none => s.postFails g detail

/-- REMOTE_ERROR_REPLY (R323): the access fails at its target, in these lanes. -/
def execRemoteErrorReply (r : RemoteLanes) (s : State) : Out := .next (s.remoteFails r 1)

/-- REMOTE_TIMEOUT (R323): no answer within the remote timeout, in these lanes. -/
def execRemoteTimeout (r : RemoteLanes) (s : State) : Out := .next (s.remoteFails r 2)

/-! Copies and gathers (R206-R211). -/

/-- Is an end of a part on the host or a peer? -/
def State.endRemote (s : State) (g : Group) (acc : Access) (e : CopyEnd) : Bool :=
  match e with
  | .scratch _ => false
  | .global a => match s.resolve g acc a with | .ok pa => s.isRemote pa | _ => false

/-- R206: does a copy part fault as memory now stands? -/
def State.copyFails (s : State) (g : Group) (p : CopyPart) : Bool :=
  match s.readPart g p.src p.size with
  | .failed _ _ => true
  | .wait => false
  | .bytes _ => match p.dst with
    | .scratch _ => false
    | .global a => match s.destPart g a p.size 2 with | .inl (.failed _ _) => true | _ => false

/-- A copy part is over; with the last one the operation is, and an LDTS arrives at its barrier object (R208). -/
def State.copyPartDone (s : State) (g : Group) (q seq : Nat) (parts : List CopyPart) (bar : Option Nat) (i : Nat) : State :=
  let ps := match parts[i]? with | some p => parts.set i { p with done := true } | none => parts
  if ps.all fun p => p.done then
    let s := s.modGroup g.id fun g => g.opDone q seq
    match bar with | some a => s.copyArrival g.team a | none => s
  else s.modGroup g.id fun g => g.setQueue q (⟨seq, .copy ps bar⟩ :: (g.queue q).drop 1)

/-- R211: part k of a gather: its index (read now where it was not) and the state with the part performed. -/
def State.gatherStep (s : State) (g : Group) (b : TableBlock) (index : List IndexState) (k : Nat) : IndexState × Option State :=
  let p := k / b.perRow
  let ix := s.indexAt g b index p 3 4
  (ix, (s.sendIndex g b index p).gatherPart g b p (k % b.perRow) ix)

/-- R211: does part k of a gather fault as memory now stands? -/
def State.gatherFails (s : State) (g : Group) (b : TableBlock) (index : List IndexState) (k : Nat) : Bool :=
  match (s.gatherStep g b index k).1 with
  | .failed _ => true
  | .unread => false
  | .row x => match s.translate g.agent g.vd .load (b.rowVa x (k % b.perRow)) with
    | .fault _ => true
    | .stall => false
    | .ok pa => s.badRange pa 16

/-- A gather part is over. -/
def State.gatherPartDone (s : State) (g : Group) (seq : Nat) (b : TableBlock) (index : List IndexState) (done : List Bool)
    (k : Nat) (ix : IndexState) : State :=
  let done := done.set k true
  if done.all (· == true) then s.modGroup g.id fun g => g.opDone gatherQ seq
  else s.modGroup g.id fun g =>
    g.setQueue gatherQ (⟨seq, .gather b (index.set (k / b.perRow) ix) done⟩ :: (g.queue gatherQ).drop 1)

/-- COPY_PART_ARRIVAL (R169, R207, R211): a part of the copy or gather at the head of a queue is performed. -/
def execCopyPartArrival (gid queue part : Nat) (s : State) : Out :=
  match s.group gid with
  | none => .next s
  | some g =>
    if g.saved then .next s
    else match g.queue queue with
    | ⟨seq, .copy parts bar⟩ :: _ => match parts[part]? with
      | some p =>
        if p.done || s.copyFails g p then .next s
        else match s.copyPart g queue p with
          | some t => .next (t.copyPartDone g queue seq parts bar part)
          | none => .next s
      | none => .next s
    | ⟨seq, .gather b index done⟩ :: _ =>
      if done.getD part true || s.gatherFails g b index part then .next s
      else match s.gatherStep g b index part with
        | (ix, some t) => .next (t.gatherPartDone g seq b index done part ix)
        | _ => .next s
    | _ => .next s

/-! Scatters (R212). -/

/-- R212: the scatter at the head of the gather/scatter queue with its indices resolved. -/
def State.scatterReady (s : State) (g : Group) : State :=
  match g.queue gatherQ with
  | ⟨seq, .scatter b add kind false old _ _⟩ :: rest =>
    match s.resolveScatter g b old with
    | none => s
    | some index =>
      let s := (List.range b.count).foldl (fun s p => s.sendIndex g b old p) s
      let rows := distinctRows index []
      let s := match firstFailure b index 0 with | some r => s.noteFault g.id gatherQ r.detail r.addr | none => s
      s.modGroup g.id fun g =>
        if rows.isEmpty then g.opDone gatherQ seq
        else g.setQueue gatherQ
          (⟨seq, .scatter b add kind true index rows (List.replicate (rows.length * b.perRow) false)⟩ :: rest)
  | _ => s

/-- R212: part k of a scatter whose indices are resolved: performed by `f`, and over. -/
def State.scatterStep (s : State) (g : Group) (k : Nat) (f : TableBlock → Bool → Nat → List IndexState → Nat → Nat → Option State) :
    State :=
  match g.queue gatherQ with
  | ⟨seq, .scatter b add kind true index rows done⟩ :: rest =>
    if done.getD k true then s
    else match f b add kind index (rows.getD (k / b.perRow) 0) (k % b.perRow) with
    | none => s
    | some t =>
      let done := done.set k true
      t.modGroup g.id fun g =>
        if done.all (· == true) then g.opDone gatherQ seq
        else g.setQueue gatherQ (⟨seq, .scatter b add kind true index rows done⟩ :: rest)
  | _ => s

/-- SCATTER_ROW_WRITE (R212): the indices are resolved, and a part of a row is written (or faults: details 8 and 10). -/
def execScatterRowWrite (gid part : Nat) (s : State) : Out :=
  match s.group gid with
  | none => .next s
  | some g =>
    if g.saved then .next s
    else
      let s := s.scatterReady g
      match s.group gid with
      | some g => .next (s.scatterStep g part (s.scatterPart g))
      | none => .next s

/-! Faulting parts (R206, R239). -/

/-- R170: does the part read a POISONED line? -/
def State.poisonedSource (s : State) (g : Group) (p : CopyPart) : Bool :=
  match p.src, s.team g.team with
  | .scratch off, some t => t.worst off p.size = .poisoned
  | _, _ => false

/-- R170: a copy that has read a POISONED line ends: the parts not performed fault, and every destination line is POISONED. -/
def State.endCopy (s : State) (g : Group) (q : Nat) (addr : DWord) (parts : List CopyPart) : State :=
  parts.foldl (fun s p =>
    if !p.done then s.failPart g q p.dst p.size 1 addr
    else match p.dst with
      | .scratch off => s.modTeam g.team fun t =>
          (linesTouched off p.size).foldl (fun t l => t.modLine l fun x => { x with state := .poisoned }) t
      | .global _ => s) s

/-- R206: the part that an event of an operation of `n` parts names, and whether it is the part's second access that fails: numbers
from `n` on name the write after the read of a copy, and the row after the index of a gather. -/
def faultPart (n k : Nat) : Nat × Bool := if n ≤ k then (k - n, true) else (k, false)

/-- The address of an end of a part, as a fault record names it. -/
def CopyEnd.named (e : CopyEnd) : DWord := match e with | .global a => a.va | .scratch o => BitVec.ofNat 64 o

/-- COPY_PART_FAULT (R206): a part of a copy, gather, scatter or tile store that fails as memory now stands, or whose access
to the host or a peer fails there (R323): the read, or the write or row that follows it (`faultPart`). A part of a tile store can
fail so only where every part passes R239's checks, which come before any write. -/
def execCopyPartFault (gid queue part : Nat) (s : State) : Out :=
  match s.group gid with
  | none => .next s
  | some g =>
    if g.saved then .next s
    else match g.queue queue with
    | ⟨seq, .copy parts bar⟩ :: _ =>
      let (part, second) := faultPart parts.length part
      match parts[part]? with
      | some p =>
        let va := CopyEnd.named
        let done := fun (t : State) => t.copyPartDone g queue seq parts bar part
        if p.done then .next s
        else if s.poisonedSource g p then
          .next ((s.endCopy g queue (va p.src) parts).copyPartDone g queue seq
            (parts.map fun p => { p with done := true }) bar part)
        else if s.copyFails g p then
          .next (match s.copyPart g queue p with | some t => done t | none => s)
        else if s.endRemote g .load p.src && !(second && s.endRemote g .store p.dst) then
          .next (done ((s.sendSource g p.src p.size).failPart g queue p.dst p.size 1 (va p.src)))
        else if s.endRemote g .store p.dst then
          .next (match s.copyPart g queue p with
            | some t => done ({ t with mem := s.mem }.failPart g queue p.dst p.size 2 (va p.dst))
            | none => s)
        else .next s
      | none => .next s
    | ⟨seq, .gather b index done⟩ :: _ =>
      let (part, second) := faultPart done.length part
      let (ix, r) := s.gatherStep g b index part
      if done.getD part true then .next s
      else if s.gatherFails g b index part then
        .next (match r with | some t => t.gatherPartDone g seq b index done part ix | none => s)
      else
        let p := part / b.perRow
        let dst := CopyEnd.scratch (b.off p (part % b.perRow))
        let row := match ix with | .row x => b.rowVa x (part % b.perRow) | _ => 0
        let rowRemote := s.endRemote g .load (.global ⟨row, none⟩)
        let sent := s.sendIndex g b index p
        if index.getD p .unread = .unread && s.endRemote g .load (.global ⟨b.indexVa p, none⟩) && !(second && rowRemote) then
          .next ((sent.failPart g gatherQ dst 16 3 (b.indexVa p)).gatherPartDone g seq b index done part (.failed 3))
        else if rowRemote then
          .next (((sent.sendRead g ⟨row, none⟩ 16).failPart g gatherQ dst 16 5 row).gatherPartDone g seq b index done part ix)
        else .next s
    | ⟨seq, .scatter b add kind resolved index rows done⟩ :: rest =>
      if !resolved && part < b.count && index.getD part .unread = .unread &&
          s.endRemote g .load (.global ⟨b.indexVa part, none⟩) then
        .next (s.modGroup gid fun g =>
          g.setQueue gatherQ (⟨seq, .scatter b add kind false (index.set part (.failed 6)) rows done⟩ :: rest))
      else
      let s := s.scatterReady g
      match s.group gid with
      | none => .next s
      | some g => .next (s.scatterStep g part fun b add kind index x j =>
          match s.destPart g ⟨b.rowVa x j, none⟩ 16 8 with
          | .inl (.failed d a) => some (s.noteFault gid gatherQ d a)
          | .inl _ => none
          | .inr pa =>
            if s.isRemote pa then
              (s.scatterPart g b add kind index x j).map fun t => { t with mem := s.mem }.noteFault gid gatherQ 8 (b.rowVa x j)
            else none)
    | ⟨seq, .mstore t⟩ :: _ =>
      match s.tilePlaces g t (t.parts (s.tileRows g)) [] with
      | .places ps => match ps[part]? with
        | some (m, p, .phys pa) =>
          if s.isRemote pa then
            let asked := { s.writeTilePart g.vd (s.unitOf g) t m p (.phys pa) with mem := s.mem }
            .next ((asked.noteFault gid queue 11 (t.partVa m p)).modGroup gid fun g => g.opDone queue seq)
          else .next s
        | _ => .next s
      | _ => .next s
    | _ => .next s

/-! Multicast (R213, R214). -/

/-- R213: the status of a multicast: dropped bits above, delivered below. -/
def mcastStatus (parts : List McastPart) (dropped : Nat) : Word :=
  let delivered := maskBelow (fun m => (parts.any fun p => p.m = m) && !dropped.testBit m) 16
  BitVec.ofNat 32 (dropped * 2 ^ 16 + delivered)

/-- A multicast after one of its parts changed: with the last one over, its status is written. -/
def State.mcastTurn (s : State) (g : Group) (seq src bytes dst : Nat) (parts : List McastPart) (data : List Byte)
    (dropped : Nat) (dest : Dest) (m : Mask) : State :=
  if parts.all fun p => p.done then
    s.modGroup g.id fun g => (g.writeDest dest 0 m fun _ => mcastStatus parts dropped).opDone gatherQ seq
  else s.modGroup g.id fun g =>
    g.setQueue gatherQ (⟨seq, .mcast src bytes dst parts (some data) dropped dest m⟩ :: (g.queue gatherQ).drop 1)

/-- R214: does the part's generation still match its destination's allocation? -/
def State.genMatches (s : State) (p : McastPart) : Bool :=
  match s.team p.team with | some t => !t.saved && t.gen = p.gen | none => false

/-- R169, R214: destination m accepts the multicast: its lines' counts rise by all the parts that write them. -/
def State.mcastAccept (s : State) (m : Nat) (parts : List McastPart) : State × List McastPart :=
  ((parts.filter fun p => p.m = m).foldl (fun s p => s.issuePart p.team p.off 16) s,
   parts.map fun p => if p.m = m then { p with accepted := true } else p)

/-- R170, R213: what the engine has of the source: read once, when every line of it is FULL (log 50). -/
inductive McastSource where
  | data (bs : List Byte)
  | wait
  | poisoned
  deriving DecidableEq, Repr

/-- R213: the source of a multicast. -/
def Team.mcastSource (t : Team) (src bytes : Nat) (data : Option (List Byte)) : McastSource :=
  match data with
  | some bs => .data bs
  | none => match t.worst src bytes with
    | .empty => .wait
    | .poisoned => .poisoned
    | .full => .data ((List.range bytes).map fun i => t.byte (src + i))

/-- MCAST_PART_ARRIVAL (R214, R169, R170): a part reaches its destination: the destination accepts the multicast, and with the
event's next occurrence the part arrives; or it is dropped for its generation. A POISONED source line drops every destination,
and an EMPTY one delays the command; the record then names the address of the source: the manual says only "the faulting virtual
address" (DESIGN CHOICE, log 54). -/
def execMcastPartArrival (gid part : Nat) (s : State) : Out :=
  match s.group gid with
  | none => .next s
  | some g =>
    if g.saved then .next s
    else match g.queue gatherQ, s.team g.team with
    | ⟨seq, .mcast src bytes dst parts data dropped dest m⟩ :: _, some t =>
      match t.mcastSource src bytes data with
      | .wait => .next s
      | .poisoned =>
        let named := maskBelow (fun k => dropped.testBit k || parts.any fun p => p.m = k) 16
        .next ((s.noteFault gid gatherQ 1 (BitVec.ofNat 64 src)).mcastTurn g seq src bytes dst
          (parts.map fun p => { p with done := true }) [] named dest m)
      | .data bs =>
        let turn := fun (s : State) (ps : List McastPart) (d : Nat) => s.mcastTurn g seq src bytes dst ps bs (dropped ||| d) dest m
        if parts.isEmpty then .next (turn s parts 0)
        else match parts[part]? with
        | none => .next s
        | some p =>
          if p.done then .next s
          else if !s.genMatches p then
            .next (turn (s.modVd g.vd fun d => { d with mcdrop := d.mcdrop + 1 }) (parts.set part { p with done := true }) (2 ^ p.m))
          else if !p.accepted then let r := s.mcastAccept p.m parts; .next (turn r.1 r.2 0)
          else .next (turn (s.arrivePart p.team p.off ((bs.drop (p.off - dst)).take 16)) (parts.set part { p with done := true }) 0)
    | _, _ => .next s

end Sys2Proof.Machine
end

