-- ==== Sys2Proof/Machine/Power.lean ====
section
/-! DEFINITION. Power, heat and idle collapse (01 R19-R22, 23 R295-R303) and scrubbing (25 R328). -/

namespace Sys2Proof.Machine

/-! Gauges and draw (R295). -/

/-- Half-quadrants of an owner entry that a device holds. -/
def QuadOwner.halvesOf (o : QuadOwner) (vd : Nat) : Nat :=
  match o with
  | .free => 0
  | .whole v => if v = vd then 2 else 0
  | .halves a b => (if a = some vd then 1 else 0) + (if b = some vd then 1 else 0)

/-- Half-quadrants that a device holds, on one die or on all. -/
def State.halvesOn (s : State) (vd : Nat) (die : Option Nat) : Nat :=
  s.quads.foldl (fun n q => if die = none || die = some (q.1 / 256) then n + q.2.halvesOf vd else n) 0

/-- Energy in µJ is drawn by a device, on a die (0-3) or outside them (4). -/
def State.addDraw (s : State) (vd die : Nat) (e : Frac) : State :=
  s.modVd vd fun d => { d with draw := nset {} d.draw die ((nget {} d.draw die).add e) }

/-- R295: energy outside the quadrants' gauges is shared among the devices in proportion to the quadrants they own. -/
def State.shareDraw (s : State) (die n : Nat) : State :=
  let owners := s.vdList.filter fun v => s.halvesOn v none ≠ 0
  let total := owners.foldl (fun k v => k + s.halvesOn v none) 0
  owners.foldl (fun s v => s.addDraw v die { num := n * s.halvesOn v none, den := max 1 total }) s

/-- R295: a gauge grows by `n` µJ: a quadrant or half by its key below 2,048, what lies outside them on die d by 2,048 + d,
and what lies outside the dies by any key above. -/
def State.addGrowth (s : State) (key n : Nat) : State :=
  if key < 2048 then
    let s := { s with gauges := nset 0 s.gauges key (nget 0 s.gauges key + n) }
    match nget .free s.quads (key / 2) with
    | .free => s
    | .whole v => s.addDraw v (key / 512) { num := n }
    | .halves a b => match (if key % 2 = 0 then a else b) with
      | some v => s.addDraw v (key / 512) { num := n }
      | none => s
  else if key < 2052 then
    { s with dieExtra := nset 0 s.dieExtra (key - 2048) (nget 0 s.dieExtra (key - 2048) + n) }.shareDraw (key - 2048) n
  else { s with pkgExtra := s.pkgExtra + n }.shareDraw 4 n

/-! The reservoir (R299). -/

/-- An exact quotient of the refill's formula. -/
structure Ratio where
  num : Int
  den : Nat
  deriving DecidableEq, Repr

/-- The lesser of two. -/
def Ratio.least (a b : Ratio) : Ratio := if a.num * b.den ≤ b.num * a.den then a else b
/-- A whole number. -/
def Ratio.ofNat (n : Nat) : Ratio := { num := n, den := 1 }

/-- A draw, by places, on some of them. -/
def drawOn (draw : NMap Frac) (dies : List Nat) : Frac := dies.foldl (fun e k => e.add (nget {} draw k)) {}

/-- R299: the draw of the collapsed devices over the previous refill step. -/
def State.collapsedDraw (s : State) (dies : List Nat) : Frac :=
  (s.vdList.filter fun v => (s.vd v).pstate = .collapsed).foldl (fun e v => e.add (drawOn (s.vd v).prevDraw dies)) {}

/-- Created devices that are AWAKE. -/
def State.awakeVds (s : State) : List Nat := s.vdList.filter fun v => (s.vd v).created && (s.vd v).pstate = .awake

/-- `limit` W less the energy `e` of the step (1 ms, so 1 W is 1,000 µJ), over the demand `d` W: 1 where the demand fits. -/
def limitFactor (limit : Nat) (e d : Frac) : Ratio :=
  let num : Int := (1000 * limit * e.den : Nat) - (e.num : Int)
  if ((1000 * d.num * e.den : Nat) : Int) ≤ num * d.den then Ratio.ofNat 1
  else { num := num * d.den, den := max 1 (1000 * e.den * d.num) }

/-- REFILL scaled by a factor. -/
def Ratio.times (r : Ratio) (n : Nat) : Ratio := { num := r.num * n, den := r.den }

/-- R22: INFORCE of HEATLIM of a die: the lesser of LIMIT (reset 700 W) and the thermal limit (reset 800 W). -/
def State.inforce (s : State) (die : Nat) : Nat := min (nget 700 s.heatlim die) (nget 800 s.thermal die)

/-- R299: k_pkg. -/
def State.packageFactor (s : State) : Ratio :=
  limitFactor s.pwrlim (s.collapsedDraw [0, 1, 2, 3, 4]) { num := s.awakeVds.foldl (fun n v => n + (s.vd v).refill) 0 }

/-- R299: k_d. -/
def State.dieFactor (s : State) (die : Nat) : Ratio :=
  let demand := (s.awakeVds.filter fun v => s.halvesOn v (some die) ≠ 0).foldl
    (fun e v => e.add { num := (s.vd v).refill * s.halvesOn v (some die), den := max 1 (s.halvesOn v none) }) ({} : Frac)
  limitFactor (s.inforce die) (s.collapsedDraw [die]) demand

/-- R299: R_eff of a device in W. -/
def State.refillRate (s : State) (vd : Nat) : Ratio :=
  let d := s.vd vd
  let dies := [0, 1, 2, 3].filter fun k => s.halvesOn vd (some k) ≠ 0
  let base := ((Ratio.ofNat d.refill).least (Ratio.ofNat d.cap)).least (s.packageFactor.times d.refill)
  dies.foldl (fun r k => r.least ((s.dieFactor k).times d.refill)) base

/-- R299: LEVEL after the step. The part of a µJ left over is rounded one way or the other (log 9). -/
def State.refilled (s : State) (vd : Nat) : Int :=
  let d := s.vd vd
  let r := s.refillRate vd
  let e := drawOn d.draw [0, 1, 2, 3, 4]
  let num : Int := 1000 * r.num * e.den - e.num * r.den
  let den := max 1 (r.den * e.den)
  let gain := num / (den : Int) + (if num % (den : Int) ≠ 0 && Config.roundsUp (s.free + vd) then 1 else 0)
  min (1000000 * (d.rescap : Int)) (d.level + gain)

/-- RESERVOIR_REFILL (R299): a step of 1 ms ends. -/
def execReservoirRefill (s : State) : Out :=
  let due := s.refillDue
  let step := fun (v : Nat) (d : VDev) =>
    let d := { d with draw := [], prevDraw := d.draw }
    if d.created then { d with level := s.refilled v } else d
  let vds := s.vdList.foldl (fun (m : NMap VDev) v => nset {} m v (step v (s.vd v))) s.vds
  .next { s with clock := max s.clock due, lastRefill := due, vds := vds, free := s.free + 256 }

/-! Limits (R21, R22). -/

/-- R21, R22: a written limit: clamped, then rounded down to a multiple of 25. -/
def limitOf (lo hi : Nat) (w : Word) : Nat := min hi (max lo (field w.toNat 0 12)) / 25 * 25

/-- Does the host reach the control window's registers beyond CAPS, HEALTH and the mailbox (R347)? -/
def State.hostUp (s : State) : Bool := !s.fwfail

/-- PWRLIM_WRITE (R21). -/
def execPwrlimWrite (func : Nat) (value : Word) (s : State) : Out :=
  if func ≠ 0 || !s.hostUp then .next s else .next { s with pwrlim := limitOf 1500 2800 value }

/-- HEATLIM_WRITE (R22). -/
def execHeatlimWrite (func die : Nat) (value : Word) (s : State) : Out :=
  if func ≠ 0 || !s.hostUp || 4 ≤ die then .next s
  else .next { s with heatlim := nset 700 s.heatlim die (limitOf 350 800 value) }

/-- THERMAL_LIMIT_STEP (R22): 10 ms after the die's last step, firmware lowers its thermal limit where the hottest sensor reads
above the trip point, and raises it where it has read below for 1 s. -/
def execThermalLimitStep (die : Nat) (reading : SensorReading) (s : State) : Out :=
  if 4 ≤ die then .next s
  else
    let now := max s.clock (s.thermalDue die)
    let t := nget 800 s.thermal die
    let since := nget 0 s.coolSince die
    let cool := match reading with
      | .belowTrip => if since = 0 then now + 1 else since
      | _ => 0
    let t := match reading with
      | .aboveTrip => max 350 (t - 25)
      | .belowTrip => if since ≠ 0 && since + 1000000 * clkPerUs ≤ now + 1 then min 800 (t + 25) else t
      | .other => t
    .next { s with
      clock := now, lastThermal := nset 0 s.lastThermal die now, thermal := nset 800 s.thermal die t
      coolSince := nset 0 s.coolSince die cool }

/-! Idle collapse (R301-R303). -/

/-- Has an enabled queue of the device entries that are announced and not taken? -/
def State.queued (s : State) (vd : Nat) : Bool := s.queues.any fun q => q.2.enable && q.2.owner = vd && q.2.head ≠ q.2.tail

/-- Do records of the device's objects or nodes wait at a core, or sit in its skeins (R301, R342)? -/
def State.holdsRecords (s : State) (vd : Nat) (at_ : Nat → Bool) : Bool :=
  (s.skeins.any fun k => at_ (s.coreAt (k.1 / 64)) && k.2.state ≠ .free && k.2.vd = vd) ||
    s.waiting.any fun w => at_ (s.coreAt w.core) && (if w.node then w.item.vd = vd else s.frameOwner w.desc = some vd)

/-- R301: is the device idle: no queued, live or saved launch, no resident group, no skein with its records, no swap? -/
def State.deviceIdle (s : State) (vd : Nat) : Bool :=
  !s.queued vd && !(s.launches.any fun x => x.vd = vd) && !(s.groups.any fun g => g.id ≠ 0 && g.vd = vd && g.live) &&
    !s.holdsRecords vd (fun _ => true) && !(s.ctxs.any fun c => c.vd = vd && (c.arriving.isSome || !c.evicting.isEmpty))

/-- R301: since when each device that is AWAKE has been idle. -/
def State.noteIdle (s : State) : State :=
  s.vdList.foldl (fun s v =>
    let d := s.vd v
    if !d.created || d.pstate ≠ .awake then s
    else s.modVd v fun d => { d with idleSince := if s.deviceIdle v then d.idleSince.or (some s.clock) else none }) s

/-- IDLE_THRESHOLD_EXPIRY (R301): IDLETHR has passed since the device fell idle, and it begins to collapse. -/
def execIdleThresholdExpiry (vd : Nat) (s : State) : Out :=
  let d := s.vd vd
  match d.idleSince with
  | none => .next s
  | some c =>
    if !d.created || d.pstate ≠ .awake || !s.deviceIdle vd then .next s
    else .next ({ s with clock := max s.clock (c + d.idlethr * clkPerUs) }.modVd vd fun d =>
      { d with pstate := .collapsing, idleSince := none })

/-- Bytes of which the manual gives only that the device writes them: a save area (log 27). -/
def State.scribble (s : State) (a n : Nat) : State :=
  (s.putMem a ((List.range n).map (Config.saveByte s.free))).bumpFree 1

/-- R302, R352: the frames of the vaults a device holds that are its own. -/
def State.vaultFrames (s : State) (vd : Nat) : List Nat :=
  ((s.vd vd).vaultsHeld.flatMap fun v => (List.range 1024).map fun k => 1024 * v + k).filter fun f =>
    s.frameOwner (f * 0x10000) = some vd

/-- COLLAPSE_COMPLETE (R301): every step of the collapse is done. Classes B and C drop the layer windows (R287) and save the
other vault data. -/
def execCollapseComplete (vd : Nat) (s : State) : Out :=
  let d := s.vd vd
  if d.pstate ≠ .collapsing then .next s
  else
    let s := s.modVd vd fun d => { d with pstate := .collapsed }
    if d.wclass = 0 then .next s
    else
      let mine := (List.range s.ctxs.length).filter fun n => match s.ctxs[n]? with | some c => c.vd = vd | none => false
      let s := (mine.foldl State.dropLayers s).scribble d.savebase d.savesize
      .next (s.modVd vd fun d => { d with unrestored := s.vaultFrames vd })

/-- WAKE_COMPLETE (R302). -/
def execWakeComplete (vd : Nat) (s : State) : Out :=
  if (s.vd vd).pstate ≠ .waking then .next s
  else .next (s.modVd vd fun d => { d with pstate := .awake, wakes := d.wakes + 1 })

/-- VAULT_PAGE_RESTORE (R302): a saved page of a woken device is restored. -/
def execVaultPageRestore (vd page : Nat) (s : State) : Out :=
  match (s.vd vd).pstate with
  | .waking => .next (s.modVd vd fun d => { d with unrestored := d.unrestored.filter (· ≠ page) })
  | .awake => .next (s.modVd vd fun d => { d with unrestored := d.unrestored.filter (· ≠ page) })
  | _ => .next s

/-- WAKE (R302): any function of the device may write it. -/
def execWake (func vd : Nat) (value : Word) (s : State) : Out :=
  if !s.hostUp || (func ≠ 0 && func ≠ vd) || !value.getLsbD 0 || !(s.vd vd).created then .next s else .next (s.wakeDev vd)

/-! Scrubbing (R328). -/

/-- R171: the leaf that maps an address: where it stands, its content and its page's size in address bits. -/
def leafFrom (rd : Nat → Nat) (ok : Nat → Bool) (va : Nat) : List (Nat × Nat × Nat) → Nat → Option (Nat × Nat × Nat)
  | [], _ => none
  | (lvl, sh, bits) :: rest, base =>
    let a := base + 8 * field va sh bits
    let e := rd a
    if e % 2 = 0 then none
    else if field e 5 1 = 1 && 2 ≤ lvl then some (a, e, sh)
    else if !entryReserved e || field e 5 1 = 1 || lvl = 4 || !ok (entryFrame e) then none
    else leafFrom rd ok va rest (entryFrame e)

/-- Zeros are written over a range of physical memory. -/
def State.zeroMem (s : State) (a n : Nat) : State := { s with mem := s.mem.filter fun c => !(decide (a ≤ c.1) && decide (c.1 < a + n)) }

/-- SCRUB_COMPLETE (R328, R177): the scrub of the frame that maps an address ends: zeros stand in the frame, then SCRUB is
cleared by a SYS store. -/
def execScrubComplete (vd va : Nat) (s : State) : Out :=
  let root := (s.vd vd).ptroot
  if !s.physOk root then .next s
  else match leafFrom (fun a => s.num (s.alias a) 8) s.physOk va walkLevels root with
  | none => .next s
  | some (a, e, sh) =>
    if field e 7 1 = 0 || !leafAligned e sh then .next s
    else .next ((s.zeroMem (s.alias (entryFrame e)) (2 ^ sh)).putAt vd (s.alias a) 8 (setField e 7 1 0))

end Sys2Proof.Machine
end

