-- ==== Sys2Proof/Machine/Preempt.lean ====
section
/-! DEFINITION. Saving and restoring (25 R325-R327, 17 R243, 15 R214), the placing of teams, time slices (R329), function-level
reset (R327, R338) and the retirement of cores (27 R350). -/

namespace Sys2Proof.Machine

/-! Saving groups (R325 steps 1 to 6). -/

/-- R325 step 5: is the operation at the head of one of the group's queues partly performed? -/
def Group.begun (g : Group) : Bool :=
  g.queues.any fun q => match q.2 with
    | ⟨_, .copy ps _⟩ :: _ => ps.any fun p => p.done
    | ⟨_, .gather _ _ done⟩ :: _ => done.any (· == true)
    | ⟨_, .scatter _ _ _ _ _ _ done⟩ :: _ => done.any (· == true)
    | ⟨_, .mcast _ _ _ ps (some _) _ _ _⟩ :: _ => ps.any fun p => p.accepted || p.done
    | o :: _ => g.postBegun = some o.seq
    | _ => false

/-- Can these groups be saved: no engine operation of theirs is partly performed? -/
def State.canSave (s : State) (p : Group → Bool) : Bool := s.groups.all fun g => !p g || !g.begun

/-- R325 step 2: a group's store queue drains. -/
def State.drainStores (s : State) (gid : Nat) : State :=
  match s.group gid with
  | none => s
  | some g => (g.storeQ.foldl State.performStore s).modGroup gid fun g => { g with storeQ := [] }

/-- R325 step 3: the clk until which the unanswered atomic of a group is awaited: the remote timeout (R323). -/
def State.awaited (s : State) (g : Group) : Nat :=
  match g.wait, g.remote with
  | some (.remote true _ _ since), none => since + (s.vd g.vd).rtimeout * clkPerUs
  | _, _ => 0

/-- R325 steps 1, 3, 4 and 6: fixed-latency work is complete, an atomic still unanswered has failed in all its lanes (detail 2),
the outstanding loads are replay packets under the new GENTAG. -/
def Group.save (g : Group) : Group :=
  let tag := g.gentag + 1
  { g with
    saved := true, active := false, prods := [], hz := {}, frame := none, gentag := tag, due := [], pausedUntil := 0
    pend := g.pend.map fun p => { p with tag := tag }
    remote := match g.wait, g.remote with | some (.remote true _ ps _), none => some { failed := placesMask ps, detail := 2, places := ps } | _, r => r }

/-- R325 steps 1 to 6 for these groups: the time for which unanswered atomics are awaited has passed. -/
def State.saveGroups (s : State) (p : Group → Bool) : State :=
  let gs := s.groups.filter p
  let s := (gs.map fun g => g.id).foldl State.drainStores s
  ({ s with clock := gs.foldl (fun n g => max n (s.awaited g)) s.clock }).modGroups p Group.save

/-! Saving teams (R325 step 7, R214, R243). -/

/-- R214: the multicast parts towards a team that are accepted and not arrived are cancelled: their lines' counts fall, and a
line whose count reaches 0 so is POISONED, with detail 9. -/
def Line.cancelled (l : Line) : Line := if l.count ≤ 1 then { state := .poisoned, count := 0 } else { l with count := l.count - 1 }

/-- R214: the cancelling of one group's parts. -/
def State.cancelFrom (s : State) (team : Nat) (g : Group) : State :=
  match g.queue gatherQ with
  | ⟨seq, .mcast src bytes dst parts (some data) dropped dest m⟩ :: _ =>
    let gone := fun (p : McastPart) => p.team = team && p.accepted && !p.done
    if !parts.any gone then s
    else
      let hit := fun (t : Team) (p : McastPart) =>
        (linesTouched p.off 16).foldl (fun (t : Team) (l : Nat) =>
          let n := (t.line l).cancelled
          { t.modLine l fun _ => n with poison := if n.count = 0 then some ⟨9, BitVec.ofNat 64 p.off⟩ else t.poison }) t
      let s := (parts.filter gone).foldl (fun s p => s.modTeam team fun t => hit t p) s
      let dropped := dropped ||| maskBelow (fun k => parts.any fun p => gone p && p.m = k) 16
      s.mcastTurn g seq src bytes dst (parts.map fun p => if gone p then { p with done := true } else p) data dropped dest m
  | _ => s

/-- Tile elements of one unit. -/
def tileUnit (key : Nat) : Nat := key / 32768

/-- R243: the tile elements of these units, with units counted from their core's first. -/
def State.unitTiles (s : State) (core : Nat) (us : List Nat) : NMap Word :=
  (s.tiles.filter fun e => us.contains (tileUnit e.1)).map fun e => (e.1 - 32768 * (8 * core), e.2)

/-- R325 step 7: a team's context is saved: its generation advances, its tiles travel with it. It stays in the state; the save
area's layout is not given (log 27). -/
def State.saveTeam (s : State) (team : Nat) : State :=
  let s := s.groups.foldl (fun s g => s.cancelFrom team g) s
  match s.team team with
  | none => s
  | some t =>
    let units := s.teamUnits team
    let tiles := s.unitTiles t.core units
    let halves := (units.map fun u => u - 8 * t.core).filter (s.halfAt t.core)
    let unit := fun (g : Group) => s.unitIn g
    let s := s.modGroups (fun g => g.id ≠ 0 && g.team = team) fun g => { g with unitSaved := unit g }
    s.modTeam team fun t => { t with saved := true, gen := (t.gen + 1) % 2 ^ 32, tiles := tiles, halves := halves, homes := [] }

/-- R325 step 7: the save area of a device is written (log 27). -/
def State.writeSaveArea (s : State) (vd : Nat) : State := s.scribble (s.vd vd).savebase (s.vd vd).savesize

/-- R325: save these teams at once, groups and all, into the save areas of their devices. -/
def State.saveTeams (s : State) (ts : List Nat) : State :=
  let vds := ((s.teams.filter fun t => ts.contains t.id).map fun t => t.vd).eraseDups
  vds.foldl State.writeSaveArea
    (ts.foldl State.saveTeam (s.saveGroups fun g => g.id ≠ 0 && g.kind = .launch && ts.contains g.team && !g.saved))

/-! Restoring teams. -/

/-- Seat several saved teams, each named by its name in the machine; `none` where one of them does not fit. -/
def seatTeams : List TeamSpot → State → Option State
  | [], s => some s
  | p :: ps, s => (s.seatTeam p.team p.core p.places).bind (seatTeams ps)

/-! The save of a device (R327). -/

/-- HALT_COMPLETE (R327): R325's steps 1 to 6 are done for every launch of the device. -/
def execHaltComplete (vd : Nat) (s : State) : Out :=
  let mine := fun (g : Group) => g.id ≠ 0 && g.vd = vd && g.kind = .launch && !g.saved
  if (s.vd vd).save ≠ .halting || !s.canSave mine then .next s
  else .next ((s.saveGroups mine).modVd vd fun d => { d with save := .saving })

/-- R327, R269: a saved device's quadrants are free, but for those that a running combiner or node group keeps. -/
def State.releaseQuads (s : State) (vd : Nat) : State :=
  let keeps := fun (q h : Nat) => s.groups.any fun g =>
    g.id ≠ 0 && g.live && !g.saved && g.vd = vd && g.core = q / 4 && g.part / 8 = q % 4 && (h = 2 || g.part % 8 / 4 = h)
  let left := fun (q : Nat) (o : QuadOwner) => match o with
    | .free => QuadOwner.free
    | .whole v => if v = vd && !keeps q 2 then .free else .whole v
    | .halves a b =>
      let a := if a = some vd && !keeps q 0 then none else a
      let b := if b = some vd && !keeps q 1 then none else b
      if a.isNone && b.isNone then .free else .halves a b
  { s with quads := s.quads.foldl (fun (m : NMap QuadOwner) e => nset .free m e.1 (left e.1 (nget .free s.quads e.1))) s.quads }

/-- SAVE_COMPLETE (R327): the save area is written; a held resume request is acted on. -/
def execSaveComplete (vd : Nat) (s : State) : Out :=
  let d := s.vd vd
  if d.save ≠ .saving then .next s
  else
    let ts := (s.teams.filter fun t => t.vd = vd && !t.saved).map fun t => t.id
    let s := ((ts.foldl State.saveTeam s).releaseQuads vd).writeSaveArea vd
    .next (s.modVd vd fun d => { d with save := if d.resumeHeld then .restoring else .saved, resumeHeld := false })

/-- R329, R41: a saved team may stay saved when its device goes on: a team of a time-sliced DET launch, none of whose logical core's teams
is placed. -/
def State.mayStay (s : State) (t : Team) : Bool :=
  match t.launch.bind s.launch with
  | none => false
  | some x => s.sliced x.vd x.desc && (s.teams.filter fun u => u.launch = t.launch &&
      u.teamid % max 1 (dLcores x.desc) = t.teamid % max 1 (dLcores x.desc)).all fun u => u.saved

/-- RESTORE_COMPLETE (R327): every team is restored, each where the event says, on any cores of the device's quadrants, and the
groups issue. -/
def execRestoreComplete (vd : Nat) (spots : List TeamSpot) (s : State) : Out :=
  if (s.vd vd).save ≠ .restoring || spots.any (fun p => match s.team p.team with | some t => t.vd ≠ vd | none => true) then .next s
  else match seatTeams spots s with
  | none => .next s
  | some t =>
    if (t.teams.filter fun u => u.vd = vd && u.saved).all t.mayStay then .next (t.modVd vd fun d => { d with save := .running })
    else .next s

/-! Placing teams (R29, R41, R310). -/

/-- R41, R329: do these spots name every team of the grid, in the order of TEAMID? -/
def wholeGrid (d : Nat) (spots : List TeamSpot) : Bool :=
  spots.length = dTeams d && (List.range spots.length).all fun i => match spots[i]? with | some p => p.team = i | none => false

/-- TEAM_PLACE (R29, R41, R310): all groups of a team are placed together where room exists, and all teams of a CORES or DET grid
in this one step: the team named first, and the others with it. A team that a core's retirement or a time slice has saved goes on
instead (R325, R329, R350). -/
def execTeamPlace (l team core : Nat) (places : TeamPlaces) (s : State) : Out :=
  let spots : List TeamSpot := { team := team, core := core, places := places.here } :: places.others
  match s.launch l with
  | none => .next s
  | some x =>
    let starts := x.nextTeam = 0 && x.ahead.isEmpty
    let d := s.vd x.vd
    let back := spots.map fun p => match s.teams.find? fun u => u.launch = some l && u.teamid = p.team && u.saved with
      | some u => some { p with team := u.id }
      | none => none
    if x.cut.isSome || x.diverged.isSome || d.save ≠ .running || d.pstate ≠ .awake then .next s
    else if back.all Option.isSome then .next ((seatTeams (back.filterMap id) s).getD s)
    else if ((dCores x.desc || dDet x.desc) && !wholeGrid x.desc spots) ||
        (starts && (!s.fitsReservoir x || s.outranked x)) then .next s
    else .next ((placeSpots l spots s).getD s)

/-! Time slices (R329). -/

/-- R329: a quantum: 1 ms. -/
def quantum : Nat := 1000 * clkPerUs

/-- The spot of a saved team where its groups last were, on a core. -/
def State.sameSpot (s : State) (core : Nat) (t : Team) : TeamSpot :=
  { team := t.id, core := core, places := (s.teamGroups t.id).map fun g => (g.part, g.slot) }

/-- TIME_SLICE_EXPIRY (R329): where a grid has more logical cores than the device has usable physical ones, and a logical core has
had its quantum, its teams are saved, and another's, where they are saved, take its place. -/
def execTimeSliceExpiry (l lcore next : Nat) (s : State) : Out :=
  match s.launch l with
  | none => .next s
  | some x =>
    let of := fun (k : Nat) => s.teams.filter fun t => t.launch = some l && t.teamid % max 1 (dLcores x.desc) = k
    let out := (of lcore).filter fun t => !t.saved
    let ids := out.map fun t => t.id
    if !s.sliced x.vd x.desc || x.cut.isSome || lcore = next || (s.vd x.vd).save ≠ .running || out.isEmpty ||
        (out.any fun t => s.clock < t.placedAt + quantum) || !s.canSave (fun g => g.id ≠ 0 && ids.contains g.team) then .next s
    else
      let core := match out with | t :: _ => t.core | [] => 0
      let s := s.saveTeams ids
      let back := ((of next).filter fun t => t.saved).map (s.sameSpot core)
      .next ((seatTeams back s).getD s)

/-! Function-level reset (R327, R338). -/

/-- R342: a command that runs when a function-level reset arrives ends with STATUS 3; R327 decides PREEMPT and RESUME. -/
def VDev.abortCommand (d : VDev) : VDev :=
  let op := field d.cmd.toNat 0 8
  if d.busy = 0 || op = 7 || op = 8 then d
  else { d with busy := 0, cmd := BitVec.ofNat 64 (field d.cmd.toNat 32 32 * 2 ^ 32 + 3 * 2 ^ 16 + op) }

/-- FUNCTION_LEVEL_RESET (R327): a save or restore is abandoned, the save area scrubbed, and every launch of the device
completed with 0x34. -/
def execFunctionLevelReset (func : Nat) (s : State) : Out :=
  if func = 0 || 255 < func then .next s
  else
    let d := s.vd func
    let ls := (s.launches.filter fun x => x.vd = func).map fun x => x.id
    let s := ls.foldl (fun s l => s.cutLaunch l 0x34) s
    let s := if d.save = .running || d.save = .idle then s else s.zeroMem d.savebase d.savesize
    .next (s.modVd func fun d => { d.abortCommand with save := .idle, resumeHeld := false })

/-! Retirement (R349, R350). -/

/-- R350: the first retirement or withdrawal asks for the part's replacement, with one interrupt on HVEC. -/
def State.requestReplacement (s : State) : State :=
  if s.replaceRequested then s else { s with replaceRequested := true }.signalHealth

/-- R329, R350: the core that takes a retired one's number: the lowest in service. -/
def State.remapCore (s : State) (core : Nat) : State :=
  match s.coresUp.head? with
  | none => s
  | some c => { s with remap := nset 0 (s.remap.map fun e => (e.1, if e.2 = core + 1 then c + 1 else e.2)) core (c + 1) }

/-- CORE_RETIREMENT (R350): more than 64 errors were corrected in the core within a second: it is retired, and its teams are
saved, to go on elsewhere (TEAM_PLACE). Until they do, no group of a CORES or DET grid of theirs issues (R41, Select.lean). -/
def execCoreRetirement (core : Nat) (s : State) : Out :=
  let ts := (s.teams.filter fun t => t.core = core && !t.saved).map fun t => t.id
  if 256 ≤ core || s.retiredCores.contains core || !s.failing.contains core ||
      !s.canSave (fun g => g.id ≠ 0 && ts.contains g.team) then .next s
  else
    let s := { s.saveTeams ts with retiredCores := s.retiredCores ++ [core] }.remapCore core
    .next s.requestReplacement

end Sys2Proof.Machine
end

