-- ==== Sys2Proof/Machine/Commands.lean ====
section
/-! DEFINITION. The commands of a virtual device's CMD register (27 R342) and the answers to map requests. -/

namespace Sys2Proof.Machine

/-- Does the host's function see a device's block (R338): the physical function every one, a virtual function its own? -/
def State.seesBlock (s : State) (func vd : Nat) : Bool := s.hostUp && vd < 256 && (func = 0 || func = vd)

/-- R342: CMD after a command: ARG, STATUS and OP, with BUSY 0. -/
def cmdWord (op : Nat) (arg : Word) (status : Nat) : DWord :=
  BitVec.ofNat 64 (arg.toNat * 2 ^ 32 + status % 256 * 2 ^ 16 + op % 256)

/-- R342: CMD while a command runs: ARG, BUSY and OP. -/
def busyWord (op : Nat) (arg : Word) : DWord := BitVec.ofNat 64 (arg.toNat * 2 ^ 32 + 2 ^ 15 + op % 256)

/-- R342: CMD takes its status. -/
def State.cmdDone (s : State) (vd op : Nat) (arg : Word) (status : Nat) : State :=
  s.modVd vd fun d => { d with cmd := cmdWord op arg status }

/-- R342: a command is written and runs to its end: who may issue it, its argument, whether the device is created; then what it
does, with its status. While another runs it is ignored. -/
def State.command (s : State) (func vd op : Nat) (arg : Word) (argOk : Bool) (act : State → State × Nat) : State :=
  if !s.seesBlock func vd || (s.vd vd).busy ≠ 0 then s
  else if (func ≠ 0 && op ≠ 10 && op ≠ 11) || !argOk then s.cmdDone vd op arg 1
  else if op ≠ 1 && !(s.vd vd).created then s.cmdDone vd op arg 3
  else
    let (t, status) := act s
    t.cmdDone vd op arg status

/-- R314: no lookaside buffer holds an entry of a device. -/
def State.forgetTlb (s : State) (vd : Nat) : State := { s with tlb := s.tlb.filter fun e => e.vd ≠ vd }

/-- R342: a device is created with its wake class; its reservoir is full (R298), and no translation of an earlier device of its
number is left (R314). -/
def State.cmdCreate (s : State) (func vd : Nat) (arg : Word) : State :=
  s.command func vd 1 arg (arg.toNat < 3) fun s =>
    if (s.vd vd).created then (s, 3)
    else ((s.forgetTlb vd).modVd vd fun d =>
      { d with
        created := true, wclass := arg.toNat, level := 1000000 * (d.rescap : Int), pstate := .awake, wakes := 0, save := .running
        resumeHeld := false, replay := false, replayNext := [], idleSince := none, unrestored := [], history := [], draw := [] }, 0)

/-- R342: does a launch of the device wait or live, a combiner or node group run, or a record wait? -/
def State.deviceBusy (s : State) (vd : Nat) : Bool :=
  s.queued vd || (s.launches.any fun x => x.vd = vd) || (s.groups.any fun g => g.id ≠ 0 && g.vd = vd && g.live) ||
    s.holdsRecords vd fun _ => true

/-- The quadrants without what a device holds, where `drop core half` says so. -/
def State.dropQuads (s : State) (vd : Nat) (drop : Nat → Nat → Bool) : State :=
  let left := fun (q : Nat) (o : QuadOwner) =>
    let h := fun (n : Nat) (a : Option Nat) => if a = some vd && drop q n then none else a
    match o with
    | .free => QuadOwner.free
    | .whole v =>
      if v ≠ vd || !(drop q 0 || drop q 1) then .whole v
      else if drop q 0 && drop q 1 then .free
      else .halves (h 0 (some v)) (h 1 (some v))
    | .halves a b =>
      if !(drop q 0 || drop q 1) then .halves a b
      else if (h 0 a).isNone && (h 1 b).isNone then .free else .halves (h 0 a) (h 1 b)
  { s with quads := s.quads.foldl (fun (m : NMap QuadOwner) e => nset .free m e.1 (left e.1 (nget .free s.quads e.1))) s.quads }

/-- R342: a device is destroyed: it releases what it holds, and its rings are disabled. -/
def State.destroyDev (s : State) (vd : Nat) : State :=
  let off := fun (r : Ring) => { r with log2n := 0 }
  { (s.dropQuads vd fun _ _ => true).forgetTlb vd with ctxs := s.ctxs.filter fun c => c.vd ≠ vd }.modVd vd fun d =>
    { d with
      created := false, groups := [], vaultsHeld := [], vaultFree := [], faultq := off d.faultq, reclog := off d.reclog
      frames := off d.frames, vaults := off d.vaults, pstate := .awake, save := .running, unrestored := [], idleSince := none }

/-- DESTROY. -/
def State.cmdDestroy (s : State) (func vd : Nat) (arg : Word) : State :=
  s.command func vd 2 arg (arg = 0) fun s => if s.deviceBusy vd then (s, 3) else (s.destroyDev vd, 0)

/-- R342: core, quadrant and kind (0 whole, 2 half 0, 3 half 1) of a quadrant command; its argument is one the table lists. -/
def quadArg (arg : Word) : Nat × Nat × Nat := (field arg.toNat 0 8, field arg.toNat 8 2, field arg.toNat 10 2)

/-- Is the argument one that names a quadrant or half of a core in service? -/
def State.quadArgOk (s : State) (arg : Word) : Bool :=
  arg.toNat < 2 ^ 12 && (quadArg arg).2.2 ≠ 1 && !s.retiredCores.contains (quadArg arg).1

/-- R44, R314: the tiles of a unit, and the lookaside buffers of its partitions, are cleared for its new owner: a unit's number is
2·quadrant + half, and partition 32·core + p lies in unit number / 4. -/
def State.clearTiles (s : State) (units : List Nat) : State :=
  { s with
    tiles := s.tiles.filter fun e => !units.contains (tileUnit e.1)
    tlb := s.tlb.filter fun e => e.level ≠ 0 || !units.contains (e.loc / 4) }

/-- R342: what a grant of a quadrant or half makes of it: unchanged where it is held already; none where another holds it. -/
def grantQuad (o : QuadOwner) (vd kind : Nat) : Option QuadOwner :=
  let mine := fun (a : Option Nat) => a = none || a = some vd
  match o, kind with
  | .free, 0 => some (.whole vd)
  | .free, 2 => some (.halves (some vd) none)
  | .free, _ => some (.halves none (some vd))
  | .whole v, _ => if v = vd then some o else none
  | .halves a b, 0 => if !mine a || !mine b then none else if a = some vd && b = some vd then some o else some (.whole vd)
  | .halves a b, 2 => if mine a then some (.halves (some vd) b) else none
  | .halves a b, _ => if mine b then some (.halves a (some vd)) else none

/-- The halves that a grant adds. -/
def grantedUnits (q vd : Nat) (old : QuadOwner) : List Nat :=
  match old with
  | .whole _ => []
  | .free => [2 * q, 2 * q + 1]
  | .halves a b => (if a = some vd then [] else [2 * q]) ++ (if b = some vd then [] else [2 * q + 1])

/-- GRANTQ. The units of the part newly held are cleared. -/
def State.cmdGrantq (s : State) (func vd : Nat) (arg : Word) : State :=
  s.command func vd 3 arg (s.quadArgOk arg) fun s =>
    let (core, quad, kind) := quadArg arg
    let q := 4 * core + quad
    let old := nget .free s.quads q
    match grantQuad old vd kind with
    | none => (s, 2)
    | some o =>
      let us := (grantedUnits q vd old).filter fun u => kind = 0 || u = 2 * q + (kind - 2)
      if o = old then (s, 0) else ({ s with quads := nset .free s.quads q o }.clearTiles us, 0)

/-- REVOKEQ. -/
def State.cmdRevokeq (s : State) (func vd : Nat) (arg : Word) : State :=
  s.command func vd 4 arg (s.quadArgOk arg) fun s =>
    let (core, quad, kind) := quadArg arg
    let hit := fun (q h : Nat) => q = 4 * core + quad && (kind = 0 || kind = 2 + h)
    let held := fun (h : Nat) => s.ownsPart vd core (8 * quad + 4 * h)
    let holds := if kind = 0 then held 0 && held 1 else held (kind - 2)
    let resident := s.groups.any fun g =>
      g.id ≠ 0 && g.live && !g.saved && g.core = core && g.part / 8 = quad && (kind = 0 || g.part % 8 / 4 = kind - 2)
    let t := s.dropQuads vd hit
    if !holds || resident || (!t.holdsCore vd core && s.holdsRecords vd fun c => c = core) then (s, 3) else (t, 0)

/-- R342: what a device holds may be taken back while it is collapsed or saved. -/
def VDev.revocable (d : VDev) : Bool := d.pstate = .collapsed || d.save = .saved

/-- GRANTCG (R14): at most one device holds a channel group. -/
def State.cmdGrantcg (s : State) (func vd : Nat) (arg : Word) : State :=
  let n := arg.toNat
  s.command func vd 5 arg (n < 24 && !s.withdrawn.contains n) fun s =>
    if (s.vd vd).groups.contains n then (s, 0)
    else if s.vdList.any fun v => (s.vd v).groups.contains n then (s, 2)
    else (s.modVd vd fun d => { d with groups := d.groups ++ [n] }, 0)

/-- REVOKECG. -/
def State.cmdRevokecg (s : State) (func vd : Nat) (arg : Word) : State :=
  let n := arg.toNat
  s.command func vd 6 arg (n < 24 && !s.withdrawn.contains n) fun s =>
    let d := s.vd vd
    if !d.groups.contains n || !d.revocable then (s, 3)
    else (s.modVd vd fun d => { d with groups := d.groups.filter (· ≠ n) }, 0)

/-- PREEMPT (R327). -/
def State.cmdPreempt (s : State) (func vd : Nat) (arg : Word) : State :=
  s.command func vd 7 arg (arg = 0) fun s =>
    (s.modVd vd fun d => { d with save := if d.save = .running then .halting else d.save }, 0)

/-- RESUME (R327): acted on where the device is saved, held while it is being saved. -/
def State.cmdResume (s : State) (func vd : Nat) (arg : Word) : State :=
  s.command func vd 8 arg (arg = 0) fun s =>
    (s.modVd vd fun d => match d.save with
      | .saved => { d with save := .restoring }
      | .halting => { d with resumeHeld := true }
      | .saving => { d with resumeHeld := true }
      | _ => d, 0)

/-- REPLAY (R336). -/
def State.cmdReplay (s : State) (func vd : Nat) (arg : Word) : State :=
  s.command func vd 9 arg (arg.toNat < 2) fun s =>
    if s.launches.any fun x => x.vd = vd then (s, 3)
    else (s.modVd vd fun d => { d with replay := arg.getLsbD 0, replayNext := [] }, 0)

/-- DRANGE: base, and pages of 64 KiB (R322, R340). -/
def VDev.range (d : VDev) : DrainRange := { base := BitVec.ofNat 64 (field d.drange 0 64 / 0x10000 * 0x10000), pages := field d.drange 64 32 }

/-- DRAIN (R322, R178). -/
def State.cmdDrain (s : State) (func vd : Nat) (arg : Word) : State :=
  s.command func vd 10 arg (arg = 0) fun s =>
    let r := (s.vd vd).range
    ((s.drainRange vd r).modVd vd fun d => { d with hostDrains := d.hostDrains ++ [r] }, 0)

/-- CONFIRM (R322, R179): while a write that it awaits is not performed the command runs on (`State.commandDue`). -/
def State.cmdConfirm (s : State) (func vd : Nat) (arg : Word) : State :=
  let d := s.vd vd
  if s.seesBlock func vd && d.busy = 0 && arg = 0 && d.created && s.confirmWaits vd d.hostDrains then
    s.modVd vd fun d => { d with busy := func + 1, cmd := busyWord 11 arg }
  else s.command func vd 11 arg (arg = 0) fun s =>
    (((s.drainDevice vd).dropDraining vd (s.vd vd).hostDrains).modVd vd fun d => { d with hostDrains := [] }, 0)

/-- GRANTV (R352). -/
def State.cmdGrantv (s : State) (func vd : Nat) (arg : Word) : State :=
  let n := arg.toNat
  s.command func vd 12 arg (n < 256) fun s =>
    if (s.vd vd).vaultsHeld.contains n then (s, 0)
    else if s.vdList.any fun v => (s.vd v).vaultsHeld.contains n then (s, 2)
    else (s.modVd vd fun d => { d with vaultsHeld := d.vaultsHeld ++ [n] }, 0)

/-- REVOKEV (R352). -/
def State.cmdRevokev (s : State) (func vd : Nat) (arg : Word) : State :=
  let n := arg.toNat
  s.command func vd 13 arg (n < 256) fun s =>
    let d := s.vd vd
    if !d.vaultsHeld.contains n || !d.revocable then (s, 3)
    else (s.modVd vd fun d => { d with vaultsHeld := d.vaultsHeld.filter (· ≠ n) }, 0)

/-! The commands as the host's steps. -/

/-- CREATE (R342). -/
def execCreate (func vd : Nat) (arg : Word) (s : State) : Out := .next (s.cmdCreate func vd arg)
/-- DESTROY (R342). -/
def execDestroy (func vd : Nat) (arg : Word) (s : State) : Out := .next (s.cmdDestroy func vd arg)
/-- GRANTQ (R342, R313). -/
def execGrantq (func vd : Nat) (arg : Word) (s : State) : Out := .next (s.cmdGrantq func vd arg)
/-- REVOKEQ (R342). -/
def execRevokeq (func vd : Nat) (arg : Word) (s : State) : Out := .next (s.cmdRevokeq func vd arg)
/-- GRANTCG (R342, R14). -/
def execGrantcg (func vd : Nat) (arg : Word) (s : State) : Out := .next (s.cmdGrantcg func vd arg)
/-- REVOKECG (R342). -/
def execRevokecg (func vd : Nat) (arg : Word) (s : State) : Out := .next (s.cmdRevokecg func vd arg)
/-- PREEMPT (R327). -/
def execPreempt (func vd : Nat) (arg : Word) (s : State) : Out := .next (s.cmdPreempt func vd arg)
/-- RESUME (R327). -/
def execResume (func vd : Nat) (arg : Word) (s : State) : Out := .next (s.cmdResume func vd arg)
/-- REPLAY (R336). -/
def execReplay (func vd : Nat) (arg : Word) (s : State) : Out := .next (s.cmdReplay func vd arg)
/-- DRAIN (R322). -/
def execDrain (func vd : Nat) (arg : Word) (s : State) : Out := .next (s.cmdDrain func vd arg)
/-- CONFIRM (R322). -/
def execConfirm (func vd : Nat) (arg : Word) (s : State) : Out := .next (s.cmdConfirm func vd arg)
/-- GRANTV (R352). -/
def execGrantv (func vd : Nat) (arg : Word) (s : State) : Out := .next (s.cmdGrantv func vd arg)
/-- REVOKEV (R352). -/
def execRevokev (func vd : Nat) (arg : Word) (s : State) : Out := .next (s.cmdRevokev func vd arg)

/-- MAPREPLY (R342, R321): the host's answer to an outstanding map request goes to the PMAP that waits for it, or to its
saved context. -/
def execMapreply (func vd : Nat) (value : DWord) (s : State) : Out :=
  let tag := field value.toNat 0 32
  let answer := field value.toNat 32 2
  if !s.seesBlock func vd || field value.toNat 34 30 ≠ 0 || !(answer = 1 || answer = 2) || !(s.vd vd).tags.contains tag then .next s
  else
    let s := s.modVd vd fun d => { d with tags := d.tags.erase tag }
    let asks := fun (g : Group) => g.id ≠ 0 && g.vd = vd && match g.wait with | some (.map t _ none _ _) => t = tag | _ => false
    match s.groups.find? asks with
    | none => .next s
    | some g => .next ((s.modGroup g.id fun g =>
        { g with wait := match g.wait with | some (.map t p _ dest m) => some (.map t p (some answer) dest m) | w => w }).finishMap g.id)

end Sys2Proof.Machine
end

