-- ==== Sys2Proof/Machine/Exchange.lean ====
section
/-! DEFINITION. The exchange instructions (11 R143-R147): shuffles, lane shifts, votes and RDFIRST. A source lane's value
is the present content of its register, whatever the masks say; only lanes with act(i) are written. -/

namespace Sys2Proof.Machine

/-- d ← the value `src` picks for each lane with act(i); `none` leaves the lane as it was. -/
def State.exchange (s : State) (guard d : Nat) (os : List Opnd) (src : Group → Nat → Option Word) : Out :=
  s.vecOp guard (wr d :: os) State.complete fun m g =>
    g.putLanes d (maskOf fun i => hasLane m i && (src g i).isSome) fun i => (src g i).getD 0

/-- R144, R145: a shuffle or shift by a count that must be a broadcast s-register or z: a vector field is an illegal
operand in every lane with act(i). -/
def State.exchangeCount (s : State) (guard d a b : Nat) (src : Nat → Group → Nat → Option Word) : Out :=
  if b ≤ 111 && s.grp.act guard ≠ 0 then .next (s.trap causeOperand 0 (s.grp.act guard) 0)
  else s.exchange guard d [rd a] fun g i => src (g.lane b i).toNat g i

/-- R145: lane i − n, where there is one. -/
def upLane (a n : Nat) (g : Group) (i : Nat) : Option Word := if n ≤ i then some (g.lane a (i - n)) else none
/-- R145: lane i + n, where there is one. -/
def downLane (a n : Nat) (g : Group) (i : Nat) : Option Word := if i + n ≤ 31 then some (g.lane a (i + n)) else none

/-- SHFLIDX (R144): from lane b[4:0]. -/
def execShflidx (g : BitVec 3) (d a b : BitVec 7) (s : State) : Out :=
  s.exchange g.toNat d.toNat [rd a.toNat, rd b.toNat] fun x i =>
    some (x.lane a.toNat ((x.lane b.toNat i).toNat % 32))

/-- SHFLXOR (R144): from lane i ⊕ b[4:0]. -/
def execShflxor (g : BitVec 3) (d a b : BitVec 7) (s : State) : Out :=
  s.exchangeCount g.toNat d.toNat a.toNat b.toNat fun n x i => some (x.lane a.toNat (i ^^^ n % 32))

/-- SHFLXORI (R144): from lane i ⊕ imm[4:0]. -/
def execShflxori (g : BitVec 3) (d a : BitVec 7) (i : BitVec 5) (s : State) : Out :=
  s.exchange g.toNat d.toNat [rd a.toNat] fun x k => some (x.lane a.toNat (k ^^^ i.toNat))

/-- LSHUP (R145). -/
def execLshup (g : BitVec 3) (d a b : BitVec 7) (s : State) : Out :=
  s.exchangeCount g.toNat d.toNat a.toNat b.toNat (upLane a.toNat)

/-- LSHDN (R145). -/
def execLshdn (g : BitVec 3) (d a b : BitVec 7) (s : State) : Out :=
  s.exchangeCount g.toNat d.toNat a.toNat b.toNat (downLane a.toNat)

/-- LSHUPI (R145). -/
def execLshupi (g : BitVec 3) (d a : BitVec 7) (i : BitVec 8) (s : State) : Out :=
  s.exchange g.toNat d.toNat [rd a.toNat] (upLane a.toNat i.toNat)

/-- LSHDNI (R145). -/
def execLshdni (g : BitVec 3) (d a : BitVec 7) (i : BitVec 8) (s : State) : Out :=
  s.exchange g.toNat d.toNat [rd a.toNat] (downLane a.toNat i.toNat)

/-- VOTEBAL (R146): the lanes with act(i) and the predicate, as a word. -/
def execVotebal (g : BitVec 3) (d a : BitVec 7) (s : State) : Out :=
  s.vecOp g.toNat [wr d.toNat] State.complete fun m x => x.putLanes d.toNat m fun _ => m &&& x.psrc a.toNat

/-- VOTEANY (R146): does some lane with act(j) hold the predicate? -/
def execVoteany (g : BitVec 3) (d a : BitVec 7) (s : State) : Out :=
  s.vecOp g.toNat [] State.complete fun m x => x.putPred d.toNat m fun _ => (m &&& x.psrc a.toNat) != 0

/-- VOTEALL (R146): does every lane with act(j) hold it? -/
def execVoteall (g : BitVec 3) (d a : BitVec 7) (s : State) : Out :=
  s.vecOp g.toNat [] State.complete fun m x => x.putPred d.toNat m fun _ => (m &&& x.psrc a.toNat) == m

/-- RDFIRST (R147): the value of the lowest lane with act(f). -/
def execRdfirst (g : BitVec 3) (d a : BitVec 7) (s : State) : Out :=
  s.vecOp g.toNat [wr d.toNat, rd a.toNat] State.complete fun m x =>
    x.putLanes d.toNat m fun _ => x.lane a.toNat ((lowestLane m).getD 0)

end Sys2Proof.Machine
end

