-- ==== Sys2Proof/Machine/Flags.lean ====
section
/-! DEFINITION. What compares compute (11 R137). The machine keeps no flags of any operation (05 R61); predicates are the
only conditions. -/

namespace Sys2Proof.Machine

/-- a = b. -/
def eqW (a b : Word) : Bool := a == b
/-- a ≠ b. -/
def neW (a b : Word) : Bool := a != b
/-- sg(a) < sg(b). -/
def sltW (a b : Word) : Bool := decide (a.toInt < b.toInt)
/-- sg(a) ≤ sg(b). -/
def sleW (a b : Word) : Bool := decide (a.toInt ≤ b.toInt)
/-- a < b. -/
def ultW (a b : Word) : Bool := decide (a.toNat < b.toNat)
/-- a ≤ b. -/
def uleW (a b : Word) : Bool := decide (a.toNat ≤ b.toNat)

/-- The comparison of two FP32 words: none where either is NaN. -/
def fcmpW (a b : Word) : Option Int := (fp32.decode a.toNat).cmp (fp32.decode b.toNat)
/-- Neither NaN and fp(a) = fp(b). -/
def feqW (a b : Word) : Bool := fcmpW a b == some 0
/-- Either NaN, or fp(a) ≠ fp(b). -/
def fneW (a b : Word) : Bool := fcmpW a b != some 0
/-- Neither NaN and fp(a) < fp(b). -/
def fltW (a b : Word) : Bool := fcmpW a b == some (-1)
/-- Neither NaN and fp(a) ≤ fp(b). -/
def fleW (a b : Word) : Bool := fcmpW a b == some (-1) || fcmpW a b == some 0
/-- Either NaN. -/
def funW (a b : Word) : Bool := fcmpW a b == none

end Sys2Proof.Machine
end

