-- ==== Sys2Proof/Machine/FloatFun.lean ====
section
/-! DEFINITION. The special functions (11 R136): each result is the exact function value rounded once. The reciprocal and
the reciprocal square root are rounded from exact integer division; the transcendental functions are computed in
fixed point with `prec` fraction bits, and both ends of an interval that holds the exact value are rounded (log 16). -/

namespace Sys2Proof.Machine

/-- ⌊√x⌋ by bits, for x below 4^n. -/
def isqrtFrom (x : Nat) : Nat → Nat → Nat
  | 0, r => r
  | n + 1, r =>
    let t := r + 2 ^ n
    isqrtFrom x n (if t * t ≤ x then t else r)

/-- ⌊√x⌋. -/
def isqrt (x : Nat) : Nat := isqrtFrom x (bitLength x / 2 + 1) 0

/-- R136: 1/x. -/
def frcpBits : FVal → Nat
  | .nan => fp32.nanBits
  | .inf neg => fp32.signed neg 0
  | .fin neg m e =>
    if m = 0 then fp32.signed neg fp32.infBits
    else
      let k := bitLength m + 30
      fp32.roundSticky .rn neg (2 ^ k / m) (-(k : Int) - e) (decide (2 ^ k % m ≠ 0))

/-- R136: 1/√x. -/
def frsqBits : FVal → Nat
  | .nan => fp32.nanBits
  | .inf neg => if neg then fp32.nanBits else 0
  | .fin neg m e =>
    if m = 0 then fp32.signed neg fp32.infBits
    else if neg then fp32.nanBits
    else
      let m' := if e % 2 = 0 then m else 2 * m
      let e' := if e % 2 = 0 then e else e - 1
      let k := bitLength m' / 2 + 32
      let r := isqrt (2 ^ (2 * k) / m')
      fp32.roundSticky .rn false r (-(k : Int) - e' / 2) (decide (r * r * m' ≠ 2 ^ (2 * k)))

/-- Fraction bits of the fixed-point work. -/
def prec : Nat := 640
/-- 1 in fixed point. -/
def one : Int := (2 ^ prec : Nat)

/-- A product in fixed point, rounded down. -/
def fmulFix (a b : Int) : Int := a * b / one

/-- Σ t·z²ᵏ/(2k+1), with sign alternating where `alt`: the odd series of atanh and atan. -/
def oddSeries (alt : Bool) (z2 : Int) : Nat → Nat → Int → Int
  | 0, _, _ => 0
  | n + 1, k, t => t / ((2 * k + 1 : Nat) : Int) + oddSeries alt z2 n (k + 1) (if alt then -(fmulFix t z2) else fmulFix t z2)

/-- ln((1+z)/(1−z)) = 2·atanh z, for |z| ≤ 1/3. -/
def twoAtanh (z : Int) : Int := 2 * oddSeries false (fmulFix z z) 210 0 z

/-- ln 2. -/
def ln2Fix : Int := twoAtanh (one / 3)

/-- atan(1/n). -/
def atanInv (n : Nat) : Int := oddSeries true (one / ((n * n : Nat) : Int)) 150 0 (one / (n : Int))

/-- π (Machin). -/
def piFix : Int := 16 * atanInv 5 - 4 * atanInv 239

/-- Σ terms t, t·y/(k+1), …: the exponential's series. -/
def expSeries (y : Int) : Nat → Nat → Int → Int
  | 0, _, _ => 0
  | n + 1, k, t => t + expSeries y n (k + 1) (fmulFix t y / ((k + 1 : Nat) : Int))

/-- Σ with steps of two factors and alternating sign: sine from (0, r), cosine from (−1, 1). -/
def trigSeries (r2 : Int) : Nat → Nat → Int → Int
  | 0, _, _ => 0
  | n + 1, k, t => t + trigSeries r2 n (k + 2) (-(fmulFix t r2 / (((k + 1) * (k + 2) : Nat) : Int)))

/-- Round a fixed-point value times 2^n, known to within `err`: both ends are rounded; they agree (log 16). -/
def roundFix (a err n : Int) : Nat :=
  let f := fun (x : Int) => fp32.round .rn (.fin (decide (x < 0)) x.natAbs (n - (prec : Int)))
  let lo := f (a - err)
  if lo = f (a + err) then lo else f a

/-- The value m·2^e in fixed point, exact for e ≥ −prec. -/
def toFix (neg : Bool) (m : Nat) (e : Int) : Int :=
  let x : Int := ((m * 2 ^ (e + (prec : Int)).toNat : Nat) : Int)
  if neg then -x else x

/-- R136: 2ˣ. -/
def fex2Bits : FVal → Nat
  | .nan => fp32.nanBits
  | .inf neg => if neg then 0 else fp32.infBits
  | .fin neg m e =>
    if 10 < e + (bitLength m : Int) then (if neg then 0 else fp32.infBits)
    else
      let x := toFix neg m e
      let n := x / one
      let f := x % one
      if f = 0 then fp32.round .rn (.fin false 1 n)
      else roundFix (expSeries (fmulFix f ln2Fix) 150 0 one) (2 ^ 20) n

/-- R136: log₂ x. -/
def flg2Bits : FVal → Nat
  | .nan => fp32.nanBits
  | .inf neg => if neg then fp32.nanBits else fp32.infBits
  | .fin neg m e =>
    if m = 0 then fp32.signed true fp32.infBits
    else if neg then fp32.nanBits
    else
      let l := bitLength m
      let k : Int := e + (l : Int) - 1
      if m = 2 ^ (l - 1) then fp32.round .rn (.ofInt k)
      else
        let y : Int := ((m * 2 ^ (prec - (l - 1)) : Nat) : Int)
        let z := (y - one) * one / (y + one)
        roundFix (k * one + twoAtanh z * one / ln2Fix) (2 ^ 20) 0

/-- The quadrant and the rest of an angle: x = n·π/2 + r with |r| ≤ π/4. -/
def reduceAngle (x : Int) : Int × Int :=
  let p := piFix
  let n := (2 * x + p / 2) / p
  (n, x - n * p / 2)

/-- sin or cos of r by quadrant: 0 sin, 1 cos, 2 −sin, 3 −cos. -/
def trigOf (q r : Int) : Int :=
  let r2 := fmulFix r r
  let s := trigSeries r2 80 1 r
  let c := trigSeries r2 80 0 one
  if q = 0 then s else if q = 1 then c else if q = 2 then -s else -c

/-- R136: sin x. -/
def fsinBits : FVal → Nat
  | .nan => fp32.nanBits
  | .inf _ => fp32.nanBits
  | .fin neg m e =>
    if m = 0 then fp32.signed neg 0
    else
      let (n, r) := reduceAngle (toFix neg m e)
      roundFix (trigOf (n % 4) r) (2 ^ 140) 0

/-- R136: cos x. -/
def fcosBits : FVal → Nat
  | .nan => fp32.nanBits
  | .inf _ => fp32.nanBits
  | .fin neg m e =>
    if m = 0 then 0x3F800000
    else
      let (n, r) := reduceAngle (toFix neg m e)
      roundFix (trigOf ((n + 1) % 4) r) (2 ^ 140) 0

/-- A special function of an FP32 word. -/
def special (f : FVal → Nat) (a : Word) : Word := BitVec.ofNat 32 (f (fp32.decode a.toNat))

end Sys2Proof.Machine
end

