-- ==== Sys2Proof/Machine/Floating.lean ====
section
/-! DEFINITION. Floating-point instructions, special functions and conversions (11 R133-R136, R141, R142) over the exact arithmetic of
Float.lean. -/

namespace Sys2Proof.Machine

/-- FADD (R133). -/
def execFadd (u : Bool) (g : BitVec 3) (d a b : BitVec 7) (s : State) : Out := s.alu2 u g d a b (fadd32 .rn)

/-- FSUB (R133). -/
def execFsub (u : Bool) (g : BitVec 3) (d a b : BitVec 7) (s : State) : Out := s.alu2 u g d a b (fsub32 .rn)

/-- FMUL (R133). -/
def execFmul (u : Bool) (g : BitVec 3) (d a b : BitVec 7) (s : State) : Out := s.alu2 u g d a b (fmul32 .rn)

/-- FMIN (R133). -/
def execFmin (u : Bool) (g : BitVec 3) (d a b : BitVec 7) (s : State) : Out := s.alu2 u g d a b (fpick32 false)

/-- FMAX (R133). -/
def execFmax (u : Bool) (g : BitVec 3) (d a b : BitVec 7) (s : State) : Out := s.alu2 u g d a b (fpick32 true)

/-- HADD2 (R134). -/
def execHadd2 (u : Bool) (g : BitVec 3) (d a b : BitVec 7) (s : State) : Out := s.alu2 u g d a b (packed2 (fp16.addBits .rn))

/-- HMUL2 (R134). -/
def execHmul2 (u : Bool) (g : BitVec 3) (d a b : BitVec 7) (s : State) : Out := s.alu2 u g d a b (packed2 (fp16.mulBits .rn))

/-- BADD2 (R134). -/
def execBadd2 (u : Bool) (g : BitVec 3) (d a b : BitVec 7) (s : State) : Out := s.alu2 u g d a b (packed2 (bf16.addBits .rn))

/-- BMUL2 (R134). -/
def execBmul2 (u : Bool) (g : BitVec 3) (d a b : BitVec 7) (s : State) : Out := s.alu2 u g d a b (packed2 (bf16.mulBits .rn))

/-- FFMA (R135). -/
def execFfma (u : Bool) (m : BitVec 2) (g : BitVec 2) (d a b : BitVec 7) (s : State) : Out := s.alu3 u g d a b (ffma32 (modeOf m) false)

/-- FFMN (R135). -/
def execFfmn (u : Bool) (m : BitVec 2) (g : BitVec 2) (d a b : BitVec 7) (s : State) : Out := s.alu3 u g d a b (ffma32 (modeOf m) true)

/-- HFMA2 (R135). -/
def execHfma2 (u : Bool) (m : BitVec 2) (g : BitVec 2) (d a b : BitVec 7) (s : State) : Out := s.alu3 u g d a b (packed3 (fp16.fmaBits (modeOf m) false))

/-- BFMA2 (R135). -/
def execBfma2 (u : Bool) (m : BitVec 2) (g : BitVec 2) (d a b : BitVec 7) (s : State) : Out := s.alu3 u g d a b (packed3 (bf16.fmaBits (modeOf m) false))

/-- FRCP (R136). -/
def execFrcp (u : Bool) (g : BitVec 3) (d a : BitVec 7) (s : State) : Out := s.alu1 u g d a (special frcpBits)

/-- FRSQ (R136). -/
def execFrsq (u : Bool) (g : BitVec 3) (d a : BitVec 7) (s : State) : Out := s.alu1 u g d a (special frsqBits)

/-- FEX2 (R136). -/
def execFex2 (u : Bool) (g : BitVec 3) (d a : BitVec 7) (s : State) : Out := s.alu1 u g d a (special fex2Bits)

/-- FLG2 (R136). -/
def execFlg2 (u : Bool) (g : BitVec 3) (d a : BitVec 7) (s : State) : Out := s.alu1 u g d a (special flg2Bits)

/-- FSIN (R136). -/
def execFsin (u : Bool) (g : BitVec 3) (d a : BitVec 7) (s : State) : Out := s.alu1 u g d a (special fsinBits)

/-- FCOS (R136). -/
def execFcos (u : Bool) (g : BitVec 3) (d a : BitVec 7) (s : State) : Out := s.alu1 u g d a (special fcosBits)

/-- CVT (R141: rounding code in [7:5], conversion code in [4:0]). -/
def execCvt (u : Bool) (g : BitVec 3) (d a : BitVec 7) (i : BitVec 8) (s : State) : Out := s.alu1 u g d a (cvt32 (field i.toNat 0 5) (field i.toNat 5 3))

/-- FADDL (R142). -/
def execFaddl (u : Bool) (d a : BitVec 7) (lit : Word) (s : State) : Out := State.aluL u d [a.toNat] (fun r => fadd32 .rn (r 0) lit) s

/-- FMULL (R142). -/
def execFmull (u : Bool) (d a : BitVec 7) (lit : Word) (s : State) : Out := State.aluL u d [a.toNat] (fun r => fmul32 .rn (r 0) lit) s

/-- FFMAL (R142): d is also a source. -/
def execFfmal (u : Bool) (d a : BitVec 7) (lit : Word) (s : State) : Out :=
  State.aluL u d [a.toNat, d.toNat] (fun r => ffma32 .rn false (r 0) lit (r 1)) s

end Sys2Proof.Machine
end

