-- ==== Sys2Proof/Machine/GroupState.lean ====
section
/-! DEFINITION. Group state: the special registers (05 R55, R56, 11 R148, R149), guard slots (R150) and the window (R151). -/

namespace Sys2Proof.Machine

/-- R55: what special register n reads in lane i (0 in the uniform form, R55). -/
def State.special (s : State) (n i : Nat) : Word :=
  let g := s.grp
  let nat := fun (x : Nat) => BitVec.ofNat 32 x
  match n with
  | 0x00 => nat i
  | 0x01 => nat g.groupid
  | 0x02 => nat g.ngroups
  | 0x03 => nat g.teamid
  | 0x04 => g.nteams
  | 0x05 => nat g.role
  | 0x06 => nat g.roleidx
  | 0x07 => nat (g.part + 256 * g.slot)
  | 0x08 => nat (g.part / 8)
  | 0x09 => nat g.core
  | 0x0A => nat g.lcore
  | 0x0B => nat (g.core / 64)
  | 0x0C => g.exec
  | 0x0D => nat s.clock
  | 0x0E => g.clockLatch
  | 0x0F => g.passno
  | 0x10 => g.spb
  | 0x11 => g.barbase
  | 0x12 => g.trb
  | 0x13 => g.utv
  | 0x14 => g.stv
  | 0x15 => g.trap.cause
  | 0x16 => lo32 g.trap.pc
  | 0x17 => hi32 g.trap.pc
  | 0x18 => g.trap.mask
  | 0x19 => lo32 g.trap.faddr
  | 0x1A => hi32 g.trap.faddr
  | 0x1B => g.gentag
  | 0x1C => if g.checkmode then 1 else 0
  | 0x1D => lo32 g.arg
  | 0x1E => hi32 g.arg
  | 0x1F => nat g.winbase.toNat
  | _ => 0

/-- R56: a read of CLOCKLO latches the high half. -/
def State.latched (s : State) (n : Nat) (g : Group) : Group :=
  if n = 0x0D then { g with clockLatch := BitVec.ofNat 32 (s.clock / 2 ^ 32) } else g

/-- R56: a write of special register n: read-only registers ignore it, reserved bits are dropped. STV is written only at
supervisor level (`execSwr`). -/
def Group.setSpecial (g : Group) (n : Nat) (w : Word) : Group :=
  match n with
  | 0x10 => { g with spb := w }
  | 0x11 => { g with barbase := w &&& 0xFFFFFFF0#32 }
  | 0x12 => { g with trb := w }
  | 0x13 => { g with utv := w }
  | 0x14 => { g with stv := w }
  | 0x1C => { g with checkmode := w.getLsbD 0 }
  | _ => g

/-- SRD (R148). A reserved index is an illegal instruction in every lane (R56). -/
def execSrd (u : Bool) (g : BitVec 3) (d : BitVec 7) (i : BitVec 8) (s : State) : Out :=
  let n := i.toNat
  if 0x20 ≤ n then .next (s.trapAll causeIllegal)
  else if u then s.uniOp g.toNat [] State.complete fun x => (s.latched n x).setS d.toNat (s.special n 0)
  else s.vecOp g.toNat [wr d.toNat] State.complete fun m x =>
    (s.latched n x).putLanes d.toNat m fun i => s.special n i

/-- SWR (R149): the value of a in the lowest lane with act(i), or S[a]. STV outside the supervisor handler is the
privilege trap (R56, R316). -/
def execSwr (u : Bool) (g : BitVec 3) (a : BitVec 7) (i : BitVec 8) (s : State) : Out :=
  let n := i.toNat
  let denied := n = 0x14 && s.grp.level ≠ .supervisor
  if 0x20 ≤ n then .next (s.trapAll causeIllegal)
  else if u then
    if denied && s.grp.uniGuard g.toNat = some true then .next (s.trapAll causePrivilege)
    else s.uniOp g.toNat [] State.complete fun x => x.setSpecial n (x.uni a.toNat)
  else
    let m := s.grp.act g.toNat
    if denied && m ≠ 0 && s.grp.vecFault [rd a.toNat] = none then .next (s.trap causePrivilege 0 m 0)
    else s.vecOp g.toNat [rd a.toNat] State.complete fun m x =>
      x.setSpecial n (x.lane a.toNat ((lowestLane m).getD 0))

/-- GSET (R150, R50): slot k ← NEG, SPACE and the predicate, once for the group. -/
def execGset (d a : BitVec 7) (i : BitVec 2) (s : State) : Out :=
  let k := d.toNat
  if k = 0 || 7 < k || (i.getLsbD 1 && 15 < a.toNat) then .next (s.trapAll causeOperand)
  else .next (s.modGrp fun g => { g with gs := nset 0 g.gs k (i.extractLsb' 0 1 ++ i.extractLsb' 1 1 ++ a) }).complete

/-- WIN (R151, R45): the window base, unless v0 would lie beyond the allocation. -/
def execWin (i : BitVec 4) (s : State) : Out :=
  if s.grp.alloc ≤ 16 * i.toNat then .next (s.trapAll causeWindow)
  else .next (s.modGrp fun g => { g with winbase := i }).complete

end Sys2Proof.Machine
end

