-- ==== Sys2Proof/Machine/Integer.lean ====
section
/-! DEFINITION. Integer instructions (11 R127-R132, R142) and moves: what each writes in one lane, over the shared shapes of Operands.lean. -/

namespace Sys2Proof.Machine

/-- R128: SHL by an N32 count. -/
def shlW (a n : Word) : Word := a <<< n.toNat
/-- R128: SHR by an N32 count. -/
def shrW (a n : Word) : Word := a >>> n.toNat
/-- R128: SAR by an N32 count. -/
def sarW (a n : Word) : Word := a.sshiftRight n.toNat

/-- R128: position and width of a bit field from b. -/
def bfPos (b : Word) : Nat := field b.toNat 0 8
/-- R128: w = min(b[15:8], 32). -/
def bfWidth (b : Word) : Nat := min (field b.toNat 8 8) 32

/-- R128: BFEU. -/
def bfeuW (a b : Word) : Word := BitVec.ofNat 32 (a.toNat / 2 ^ bfPos b % 2 ^ bfWidth b)
/-- R128: BFES: the field of the sign-extended word, sign-extended from its own width. -/
def bfesW (a b : Word) : Word :=
  if bfWidth b = 0 then 0
  else BitVec.ofInt 32 (signed (bfWidth b) (wrap (bfWidth b) (a.toInt / (2 ^ bfPos b : Nat))))

/-- R130: BFI. -/
def bfiW (a b d : Word) : Word :=
  let p := bfPos b
  let w := bfWidth b
  if w = 0 || 32 ≤ p then d
  else
    let m := BitVec.ofNat 32 ((2 ^ min w (32 - p) - 1) * 2 ^ p)
    (d &&& ~~~m) ||| (BitVec.ofNat 32 (a.toNat * 2 ^ p) &&& m)

/-- R127: bits [63:32] of the signed product. -/
def imulhiW (a b : Word) : Word := BitVec.ofInt 32 (a.toInt * b.toInt / 2 ^ 32)
/-- R127: bits [63:32] of the unsigned product. -/
def imulhiuW (a b : Word) : Word := BitVec.ofNat 32 (a.toNat * b.toNat / 2 ^ 32)

/-- R130: |sg(a) − sg(b)| + d. -/
def isadW (a b d : Word) : Word := BitVec.ofNat 32 (a.toInt - b.toInt).natAbs + d

/-- R131: IADDMIN.SS. -/
def addMinS (a b d : Word) : Word := BitVec.ofInt 32 (min (clampInt (a.toInt + b.toInt) (-(2 ^ 31)) (2 ^ 31 - 1)) d.toInt)
/-- R131: IADDMIN.NN. -/
def addMinN (a b d : Word) : Word := BitVec.ofNat 32 (min (min (a.toNat + b.toNat) (2 ^ 32 - 1)) d.toNat)

/-- R132: element j of width w, signed or unsigned. -/
def element (isUnsigned : Bool) (w j : Nat) (x : Word) : Int :=
  let e := x.toNat / 2 ^ (w * j) % 2 ^ w
  if isUnsigned then (e : Int) else signed w e

/-- R132: d + Σ of the products of n elements of width w; mod bit 1 (word bit 24) is a's signedness, bit 0 b's. -/
def dotW (n w : Nat) (m : BitVec 2) (a b d : Word) : Word :=
  d + BitVec.ofInt 32 (((List.range n).map fun j => element (m.getLsbD 1) w j a * element (m.getLsbD 0) w j b).foldl (· + ·) 0)

/-- The sign-extended imm8. -/
def simm (i : BitVec 8) : Word := i.signExtend 32
/-- The zero-extended imm8. -/
def zimm (i : BitVec 8) : Word := i.setWidth 32

/-- NOP (R127): nothing, in either form. -/
def execNop (_u : Bool) (s : State) : Out := .next s.complete

/-- MOV (R127). -/
def execMov (u : Bool) (g : BitVec 3) (d a : BitVec 7) (s : State) : Out := s.alu1 u g d a (fun x => x)

/-- IADD (R127). -/
def execIadd (u : Bool) (g : BitVec 3) (d a b : BitVec 7) (s : State) : Out := s.alu2 u g d a b (fun x y => x + y)

/-- ISUB (R127). -/
def execIsub (u : Bool) (g : BitVec 3) (d a b : BitVec 7) (s : State) : Out := s.alu2 u g d a b (fun x y => x - y)

/-- IMULLO (R127). -/
def execImullo (u : Bool) (g : BitVec 3) (d a b : BitVec 7) (s : State) : Out := s.alu2 u g d a b (fun x y => x * y)

/-- IMULHI (R127). -/
def execImulhi (u : Bool) (g : BitVec 3) (d a b : BitVec 7) (s : State) : Out := s.alu2 u g d a b imulhiW

/-- IMULHIU (R127). -/
def execImulhiu (u : Bool) (g : BitVec 3) (d a b : BitVec 7) (s : State) : Out := s.alu2 u g d a b imulhiuW

/-- IMIN (R127). -/
def execImin (u : Bool) (g : BitVec 3) (d a b : BitVec 7) (s : State) : Out := s.alu2 u g d a b sminW

/-- IMAX (R127). -/
def execImax (u : Bool) (g : BitVec 3) (d a b : BitVec 7) (s : State) : Out := s.alu2 u g d a b smaxW

/-- UMIN (R127). -/
def execUmin (u : Bool) (g : BitVec 3) (d a b : BitVec 7) (s : State) : Out := s.alu2 u g d a b uminW

/-- UMAX (R127). -/
def execUmax (u : Bool) (g : BitVec 3) (d a b : BitVec 7) (s : State) : Out := s.alu2 u g d a b umaxW

/-- AND (R127). -/
def execAnd (u : Bool) (g : BitVec 3) (d a b : BitVec 7) (s : State) : Out := s.alu2 u g d a b (fun x y => x &&& y)

/-- OR (R127). -/
def execOr (u : Bool) (g : BitVec 3) (d a b : BitVec 7) (s : State) : Out := s.alu2 u g d a b (fun x y => x ||| y)

/-- XOR (R127). -/
def execXor (u : Bool) (g : BitVec 3) (d a b : BitVec 7) (s : State) : Out := s.alu2 u g d a b (fun x y => x ^^^ y)

/-- ANDN (R127). -/
def execAndn (u : Bool) (g : BitVec 3) (d a b : BitVec 7) (s : State) : Out := s.alu2 u g d a b (fun x y => x &&& ~~~y)

/-- SHL (R128). -/
def execShl (u : Bool) (g : BitVec 3) (d a b : BitVec 7) (s : State) : Out := s.alu2 u g d a b shlW

/-- SHR (R128). -/
def execShr (u : Bool) (g : BitVec 3) (d a b : BitVec 7) (s : State) : Out := s.alu2 u g d a b shrW

/-- SAR (R128). -/
def execSar (u : Bool) (g : BitVec 3) (d a b : BitVec 7) (s : State) : Out := s.alu2 u g d a b sarW

/-- BFEU (R128). -/
def execBfeu (u : Bool) (g : BitVec 3) (d a b : BitVec 7) (s : State) : Out := s.alu2 u g d a b bfeuW

/-- BFES (R128). -/
def execBfes (u : Bool) (g : BitVec 3) (d a b : BitVec 7) (s : State) : Out := s.alu2 u g d a b bfesW

/-- POPC (R127). -/
def execPopc (u : Bool) (g : BitVec 3) (d a : BitVec 7) (s : State) : Out := s.alu1 u g d a (fun x => BitVec.ofNat 32 (popCount x.toNat 32))

/-- CLZ (R127). -/
def execClz (u : Bool) (g : BitVec 3) (d a : BitVec 7) (s : State) : Out := s.alu1 u g d a (fun x => BitVec.ofNat 32 (32 - bitLength x.toNat))

/-- BREV (R127). -/
def execBrev (u : Bool) (g : BitVec 3) (d a : BitVec 7) (s : State) : Out := s.alu1 u g d a (fun x => BitVec.ofNat 32 (reverseBits x.toNat 32))

/-- IADDI (R129). -/
def execIaddi (u : Bool) (g : BitVec 3) (d a : BitVec 7) (i : BitVec 8) (s : State) : Out := s.alu1 u g d a (fun x => x + simm i)

/-- ANDI (R129). -/
def execAndi (u : Bool) (g : BitVec 3) (d a : BitVec 7) (i : BitVec 8) (s : State) : Out := s.alu1 u g d a (fun x => x &&& zimm i)

/-- ORI (R129). -/
def execOri (u : Bool) (g : BitVec 3) (d a : BitVec 7) (i : BitVec 8) (s : State) : Out := s.alu1 u g d a (fun x => x ||| zimm i)

/-- XORI (R129). -/
def execXori (u : Bool) (g : BitVec 3) (d a : BitVec 7) (i : BitVec 8) (s : State) : Out := s.alu1 u g d a (fun x => x ^^^ zimm i)

/-- SHLI (R129). -/
def execShli (u : Bool) (g : BitVec 3) (d a : BitVec 7) (i : BitVec 8) (s : State) : Out := s.alu1 u g d a (fun x => shlW x (zimm i))

/-- SHRI (R129). -/
def execShri (u : Bool) (g : BitVec 3) (d a : BitVec 7) (i : BitVec 8) (s : State) : Out := s.alu1 u g d a (fun x => shrW x (zimm i))

/-- SARI (R129). -/
def execSari (u : Bool) (g : BitVec 3) (d a : BitVec 7) (i : BitVec 8) (s : State) : Out := s.alu1 u g d a (fun x => sarW x (zimm i))

/-- IMULI (R129). -/
def execImuli (u : Bool) (g : BitVec 3) (d a : BitVec 7) (i : BitVec 8) (s : State) : Out := s.alu1 u g d a (fun x => x * simm i)

/-- MOVI (R129): d ← the sign-extended imm8. -/
def execMovi (u : Bool) (g : BitVec 3) (d : BitVec 7) (i : BitVec 8) (s : State) : Out :=
  State.regOp u g.toNat d.toNat [] State.complete (fun _ => simm i) s

/-- IMAD (R130). -/
def execImad (u : Bool) (g : BitVec 2) (d a b : BitVec 7) (s : State) : Out := s.alu3 u g d a b (fun x y z => x * y + z)

/-- IADDMINSS (R131). -/
def execIaddminSs (u : Bool) (g : BitVec 2) (d a b : BitVec 7) (s : State) : Out := s.alu3 u g d a b addMinS

/-- IADDMINNN (R131). -/
def execIaddminNn (u : Bool) (g : BitVec 2) (d a b : BitVec 7) (s : State) : Out := s.alu3 u g d a b addMinN

/-- BFI (R130). -/
def execBfi (u : Bool) (g : BitVec 2) (d a b : BitVec 7) (s : State) : Out := s.alu3 u g d a b bfiW

/-- IADD3 (R130). -/
def execIadd3 (u : Bool) (g : BitVec 2) (d a b : BitVec 7) (s : State) : Out := s.alu3 u g d a b (fun x y z => x + y + z)

/-- ISAD (R130). -/
def execIsad (u : Bool) (g : BitVec 2) (d a b : BitVec 7) (s : State) : Out := s.alu3 u g d a b isadW

/-- DP4 (R132). -/
def execDp4 (u : Bool) (m : BitVec 2) (g : BitVec 2) (d a b : BitVec 7) (s : State) : Out := s.alu3 u g d a b (dotW 4 8 m)

/-- DP8 (R132). -/
def execDp8 (u : Bool) (m : BitVec 2) (g : BitVec 2) (d a b : BitVec 7) (s : State) : Out := s.alu3 u g d a b (dotW 8 4 m)

/-- R130: the 64-bit sum of a pair and a sign-extended word. -/
def add64 (hi lo b : Word) : DWord := pair hi lo + b.signExtend 64

/-- IADD64 (R130, R47): two-register runs d and a; every source is read first. -/
def execIadd64 (u : Bool) (g : BitVec 2) (d a b : BitVec 7) (s : State) : Out :=
  let d := d.toNat
  let a := a.toNat
  let b := b.toNat
  if u then s.uniOp g.toNat [wrRun d 2, rdRun a 2] State.complete fun g =>
    g.setPair d (add64 (g.uni (a + 1)) (g.uni a) (g.uni b))
  else s.vecOp g.toNat [wrRun d 2, rdRun a 2, rd b] State.complete fun m g =>
    let sum := fun i => add64 (g.lane (a + 1) i) (g.lane a i) (g.lane b i)
    (g.putLanes d m fun i => lo32 (sum i)).putLanes (d + 1) m fun i => hi32 (sum i)

/-- MOVL (R142): d ← the literal. -/
def execMovl (u : Bool) (d : BitVec 7) (lit : Word) (s : State) : Out := State.aluL u d [] (fun _ => lit) s

/-- IADDL (R142). -/
def execIaddl (u : Bool) (d a : BitVec 7) (lit : Word) (s : State) : Out := State.aluL u d [a.toNat] (fun r => r 0 + lit) s

/-- ANDL (R142). -/
def execAndl (u : Bool) (d a : BitVec 7) (lit : Word) (s : State) : Out := State.aluL u d [a.toNat] (fun r => r 0 &&& lit) s

/-- ORL (R142). -/
def execOrl (u : Bool) (d a : BitVec 7) (lit : Word) (s : State) : Out := State.aluL u d [a.toNat] (fun r => r 0 ||| lit) s

/-- XORL (R142). -/
def execXorl (u : Bool) (d a : BitVec 7) (lit : Word) (s : State) : Out := State.aluL u d [a.toNat] (fun r => r 0 ^^^ lit) s

/-- IMULL (R142). -/
def execImull (u : Bool) (d a : BitVec 7) (lit : Word) (s : State) : Out := State.aluL u d [a.toNat] (fun r => r 0 * lit) s

/-- SEL (R140): the guard is a selector: every lane of the execution mask gets a or b; unguarded, a. -/
def execSel (u : Bool) (g : BitVec 3) (d a b : BitVec 7) (s : State) : Out :=
  if u then
    match s.grp.uniGuard g.toNat with
    | none => .next (s.trapAll causeOperand)
    | some c => .next (s.modGrp fun x => x.setS d.toNat (if c then x.uni a.toNat else x.uni b.toNat)).complete
  else
    let sel := s.grp.guardHolds g.toNat
    s.vecOp 0 [wr d.toNat, rd a.toNat, rd b.toNat] State.complete fun m x =>
      x.putLanes d.toNat m fun i => if hasLane sel i then x.lane a.toNat i else x.lane b.toNat i

end Sys2Proof.Machine
end

