-- ==== Sys2Proof/Machine/Predicate.lean ====
section
/-! DEFINITION. Compares and predicate instructions (11 R137-R139). -/

namespace Sys2Proof.Machine

/-- ICMPEQ (R137). -/
def execIcmpeq (u : Bool) (g : BitVec 3) (d a b : BitVec 7) (s : State) : Out := s.cmp2 u g d a b eqW

/-- ICMPNE (R137). -/
def execIcmpne (u : Bool) (g : BitVec 3) (d a b : BitVec 7) (s : State) : Out := s.cmp2 u g d a b neW

/-- ICMPLT (R137). -/
def execIcmplt (u : Bool) (g : BitVec 3) (d a b : BitVec 7) (s : State) : Out := s.cmp2 u g d a b sltW

/-- ICMPLE (R137). -/
def execIcmple (u : Bool) (g : BitVec 3) (d a b : BitVec 7) (s : State) : Out := s.cmp2 u g d a b sleW

/-- UCMPLT (R137). -/
def execUcmplt (u : Bool) (g : BitVec 3) (d a b : BitVec 7) (s : State) : Out := s.cmp2 u g d a b ultW

/-- UCMPLE (R137). -/
def execUcmple (u : Bool) (g : BitVec 3) (d a b : BitVec 7) (s : State) : Out := s.cmp2 u g d a b uleW

/-- FCMPEQ (R137). -/
def execFcmpeq (u : Bool) (g : BitVec 3) (d a b : BitVec 7) (s : State) : Out := s.cmp2 u g d a b feqW

/-- FCMPNE (R137). -/
def execFcmpne (u : Bool) (g : BitVec 3) (d a b : BitVec 7) (s : State) : Out := s.cmp2 u g d a b fneW

/-- FCMPLT (R137). -/
def execFcmplt (u : Bool) (g : BitVec 3) (d a b : BitVec 7) (s : State) : Out := s.cmp2 u g d a b fltW

/-- FCMPLE (R137). -/
def execFcmple (u : Bool) (g : BitVec 3) (d a b : BitVec 7) (s : State) : Out := s.cmp2 u g d a b fleW

/-- FCMPUN (R137). -/
def execFcmpun (u : Bool) (g : BitVec 3) (d a b : BitVec 7) (s : State) : Out := s.cmp2 u g d a b funW

/-- ICMPEQI (R137): against the sign-extended imm8. -/
def execIcmpeqi (u : Bool) (g : BitVec 3) (d a : BitVec 7) (i : BitVec 8) (s : State) : Out := s.cmp1 u g d a (fun x => eqW x (simm i))

/-- ICMPLTI (R137): against the sign-extended imm8. -/
def execIcmplti (u : Bool) (g : BitVec 3) (d a : BitVec 7) (i : BitVec 8) (s : State) : Out := s.cmp1 u g d a (fun x => sltW x (simm i))

/-- ICMPGTI (R137): against the sign-extended imm8. -/
def execIcmpgti (u : Bool) (g : BitVec 3) (d a : BitVec 7) (i : BitVec 8) (s : State) : Out := s.cmp1 u g d a (fun x => sltW (simm i) x)

/-- ICMPEQL (R137): against the literal. -/
def execIcmpeql (u : Bool) (d a : BitVec 7) (lit : Word) (s : State) : Out := s.cmpL u d a (fun x => eqW x lit)

/-- ICMPLTL (R137): against the literal. -/
def execIcmpltl (u : Bool) (d a : BitVec 7) (lit : Word) (s : State) : Out := s.cmpL u d a (fun x => sltW x lit)

/-- FCMPLTL (R137): against the literal. -/
def execFcmpltl (u : Bool) (d a : BitVec 7) (lit : Word) (s : State) : Out := s.cmpL u d a (fun x => fltW x lit)

/-- PAND (R138). -/
def execPand (u : Bool) (g : BitVec 3) (d a b : BitVec 7) (s : State) : Out := s.logicP u g d a b (fun x y => x && y)

/-- POR (R138). -/
def execPor (u : Bool) (g : BitVec 3) (d a b : BitVec 7) (s : State) : Out := s.logicP u g d a b (fun x y => x || y)

/-- PXOR (R138). -/
def execPxor (u : Bool) (g : BitVec 3) (d a b : BitVec 7) (s : State) : Out := s.logicP u g d a b (fun x y => x != y)

/-- PANDN (R138). -/
def execPandn (u : Bool) (g : BitVec 3) (d a b : BitVec 7) (s : State) : Out := s.logicP u g d a b (fun x y => x && !y)

/-- PSAVE (R139): bit j of d ← P[32·bank + j] in each lane with act(i); uniform: S[d] ← the uniform predicates. A bank above
3 is an illegal operand. -/
def execPsave (u : Bool) (g : BitVec 3) (d a : BitVec 7) (s : State) : Out :=
  if u then s.uniOp g.toNat [] State.complete fun x =>
    x.setS d.toNat (BitVec.ofNat 32 (maskBelow (fun j => hasLane (x.qsrc j) 0) 16))
  else if 3 < a.toNat && s.grp.act g.toNat ≠ 0 then .next (s.trap causeOperand 0 (s.grp.act g.toNat) 0)
  else s.vecOp g.toNat [wr d.toNat] State.complete fun m x =>
    x.putLanes d.toNat m fun i => maskOf fun j => hasLane (x.psrc (32 * a.toNat + j)) i

/-- R139: load 32 predicates of the lanes of m from words. -/
def Group.loadPreds (x : Group) (bank : Nat) (m : Mask) (val : Nat → Word) : Nat → Group
  | 0 => x
  | n + 1 => (x.loadPreds bank m val n).putPred (32 * bank + n) m fun i => (val i).getLsbD n

/-- PLOAD (R139): P[32·bank + j] ← bit j of a in each lane with act(i), but for p0; uniform: Q[j] ← bit j of S[a], j = 1-15.
The bank is the d field. -/
def execPload (u : Bool) (g : BitVec 3) (d a : BitVec 7) (s : State) : Out :=
  if u then s.uniOp g.toNat [] State.complete fun x =>
    { x with q := ((x.uni a.toNat).extractLsb' 0 16 &&& 0xFFFE#16) ||| (x.q &&& 1#16) }
  else if 3 < d.toNat && s.grp.act g.toNat ≠ 0 then .next (s.trap causeOperand 0 (s.grp.act g.toNat) 0)
  else s.vecOp g.toNat [rd a.toNat] State.complete fun m x => x.loadPreds d.toNat m (fun i => x.lane a.toNat i) 32

end Sys2Proof.Machine
end

