-- ==== Sys2Proof/Machine/HostLink.lean ====
section
/-! DEFINITION. The host's windows (27 R338-R345): rings, queues, doorbells, the registers of the control window and the memory
window. -/

namespace Sys2Proof.Machine

/-! Rings (R341). -/

/-- The rings in the order of the block (R340): FAULTQ, RECLOG, FRAMES, VAULTS. -/
def VDev.ring (d : VDev) (n : Nat) : Ring := match n with | 0 => d.faultq | 1 => d.reclog | 2 => d.frames | _ => d.vaults
/-- Replace a ring. -/
def VDev.setRing (d : VDev) (n : Nat) (r : Ring) : VDev :=
  match n with
  | 0 => { d with faultq := r }
  | 1 => { d with reclog := r }
  | 2 => { d with frames := r }
  | _ => { d with vaults := r }

/-- R341: a ring after the host's write of one of its words (0, 1: LOG2N and BASE; 2 PROD; 3 CONS), where it is not ignored:
the host owns CONS of the rings it consumes (0, 1) and PROD of the others. -/
def ringWrite (ring : Nat) (r : Ring) (word : Nat) (value : Word) : Ring :=
  let room := fun (r : Ring) => decide (r.used ≤ 2 ^ r.log2n)
  match word with
  | 0 =>
    let n := field value.toNat 0 5
    let t := { r with log2n := n, base := r.base / 2 ^ 32 * 2 ^ 32 + field value.toNat 12 20 * 2 ^ 12 }
    if 20 < n || (n ≠ 0 && !room t) then r else t
  | 1 => { r with base := r.base % 2 ^ 32 + value.toNat * 2 ^ 32 }
  | 2 => let t := { r with prod := value }; if ring < 2 || !room t || t.used < r.used then r else t
  | 3 => let t := { r with cons := value }; if 2 ≤ ring || r.used < t.used then r else t
  | _ => r

/-- R334, R341: the host has changed a device's rings: held fault records and waiting decisions go on. -/
def State.ringsChanged (s : State) (vd : Nat) : State :=
  let s := flushFaults vd (s.vd vd).heldRecords s
  s.flushLog vd ((s.vd vd).heldLog.length + 1)

/-- RING_INDEX_WRITE (R341): by the device's own function or the physical one. -/
def execRingIndexWrite (func vd ring word : Nat) (value : Word) (s : State) : Out :=
  if !s.seesBlock func vd || 4 ≤ ring then .next s
  else
    let old := (s.vd vd).ring ring
    let r := ringWrite ring old word value
    let freed := if ring = 1 then (r.cons - old.cons).toNat else 0
    let used := fun (d : VDev) => d.replayNext.foldl (fun (m : NMap Nat) e => nset 0 m e.1 (e.2 - freed)) d.replayNext
    .next ((s.modVd vd fun d => { (d.setRing ring r) with replayNext := used d }).ringsChanged vd)

/-! Queues and doorbells (R343). -/

/-- R343: a queue's configuration after a write of one of its words. -/
def queueWrite (c : QueueCfg) (physical : Bool) (word : Nat) (value : Word) : QueueCfg :=
  let w := value.toNat
  match word with
  | 0 => { c with owner := if physical then field w 0 8 else c.owner, enable := value.getLsbD 8 }
  | 1 => if c.enable || field w 12 4 = 0 then c else { c with vec := field w 0 12, log2n := field w 12 4 }
  | 2 => if c.enable then c else { c with base := c.base / 2 ^ 32 * 2 ^ 32 + field w 12 20 * 2 ^ 12 }
  | 3 => if c.enable then c else { c with base := c.base % 2 ^ 32 + w * 2 ^ 32 }
  | _ => c

/-- QUEUE_CONFIG_WRITE (R343): by the owner's function or the physical one. -/
def execQueueConfigWrite (func queue word : Nat) (value : Word) (s : State) : Out :=
  let c := nget {} s.queues queue
  if !s.hostUp || 16384 ≤ queue || (func ≠ 0 && func ≠ c.owner) then .next s
  else .next { s with queues := nset {} s.queues queue (queueWrite c (func = 0) word value) }

/-- DOORBELL (R343, R302): a 32-bit write at offset 0 by the owner's function sets TAIL, and wakes the device. An entry of a queue
that was empty waits at the arbiter from now on (R311). -/
def execDoorbell (func queue offset size : Nat) (value : Word) (s : State) : Out :=
  let c := nget {} s.queues queue
  if !s.hostUp || 16384 ≤ queue || offset ≠ 0 || size ≠ 4 || func ≠ c.owner || !c.enable ||
      2 ^ c.log2n < (value - c.head).toNat then .next s
  else .next ({ s with queues := nset {} s.queues queue { c with tail := value, since := if c.head = c.tail then s.clock else c.since } }.wakeDev c.owner)

/-! The control window's other registers (R339, R340, R298). -/

/-- A 64-bit register with one of its words replaced. -/
def setWord (x n : Nat) (value : Word) : Nat := setField x (32 * n) 32 value.toNat

/-- R298: a value for a register of limited range: as written, or some value of the range (log 26). -/
def inRange (lo hi v n : Nat) : Nat := if lo ≤ v && v ≤ hi then v else lo + Config.powerValue n % (hi - lo + 1)

/-- R340: a block's register word after a write by a function. `phys`: the physical function; the others are written by the
own function too. The manual does not say what the low bits of a misaligned PTROOT or MWBASE do; the model drops them, and takes
the bits beside TENSION's field as reserved (log 26). -/
def VDev.writeWord (d : VDev) (phys : Bool) (off : Nat) (value : Word) (n : Nat) : VDev :=
  let w := value.toNat
  if off = 0x094 then { d with faultvec := value &&& 0x1FFF#32 }
  else if 0x0A0 ≤ off && off < 0x0AC then { d with drange := setWord d.drange ((off - 0x0A0) / 4) value }
  else if off = 0x180 || off = 0x184 then
    { d with mwbase := BitVec.ofNat 64 (setWord d.mwbase.toNat ((off - 0x180) / 4) value / 0x10000 * 0x10000) }
  else if !phys then d
  else if off = 0x00C then { d with idlethr := max 100 w }
  else if off = 0x010 then { d with cap := inRange 1 2800 (field w 0 16) n, refill := inRange 0 2800 (field w 16 16) (n + 1) }
  else if off = 0x014 then { d with rescap := inRange 1 100000 w n }
  else if off = 0x028 then
    (let t := field w 0 5; if 1 ≤ t && t ≤ 16 then { d with tension := t } else d)
  else if off = 0x02C then (if 1 ≤ w && w ≤ 1000 then { d with rtimeout := w } else d)
  else if off = 0x030 || off = 0x034 then { d with ptroot := setWord d.ptroot ((off - 0x030) / 4) value / 0x1000 * 0x1000 }
  else if off = 0x038 || off = 0x03C then { d with savebase := setWord d.savebase ((off - 0x038) / 4) value }
  else if off = 0x040 || off = 0x044 then { d with savesize := setWord d.savesize ((off - 0x040) / 4) value }
  else if off = 0x04C then { d with peergrp := field w 0 16 }
  else if off = 0x090 then { d with vecrun := value &&& 0x0FFF0FFF#32 }
  else if off = 0x098 then { d with trustctl := value &&& 1#32 }
  else if off = 0x0B8 then { d with stv := value }
  else if 0x0C0 ≤ off && off < 0x180 then { d with signers := setWord d.signers ((off - 0x0C0) / 4) value }
  else d

/-- R342: the low word of CMD is written: the command starts, with the ARG that stands there, and BUSY reads 1. -/
def State.writeCmd (s : State) (vd func : Nat) (value : Word) : State :=
  s.modVd vd fun d => { d with busy := func + 1, cmd := busyWord (field value.toNat 0 8) (hi32 d.cmd) }

/-- R342: does the command that a device's CMD runs come to its end now? A CONFIRM waits for the writes that R179 names. -/
def State.commandDue (s : State) (vd : Nat) : Bool :=
  let d := s.vd vd
  d.busy ≠ 0 && !(field d.cmd.toNat 0 8 = 11 && s.confirmWaits vd d.hostDrains)

/-- R342: the command that a device's CMD runs comes to its end. -/
def State.endCommand (s : State) (vd : Nat) : State :=
  let func := (s.vd vd).busy - 1
  let arg := hi32 (s.vd vd).cmd
  let op := field (s.vd vd).cmd.toNat 0 8
  let s := s.modVd vd fun d => { d with busy := 0 }
  match op with
  | 1 => s.cmdCreate func vd arg
  | 2 => s.cmdDestroy func vd arg
  | 3 => s.cmdGrantq func vd arg
  | 4 => s.cmdRevokeq func vd arg
  | 5 => s.cmdGrantcg func vd arg
  | 6 => s.cmdRevokecg func vd arg
  | 7 => s.cmdPreempt func vd arg
  | 8 => s.cmdResume func vd arg
  | 9 => s.cmdReplay func vd arg
  | 10 => s.cmdDrain func vd arg
  | 11 => s.cmdConfirm func vd arg
  | 12 => s.cmdGrantv func vd arg
  | 13 => s.cmdRevokev func vd arg
  | _ => s.command func vd op arg false fun s => (s, 1)

/-- R338, R340: a write of a word of a device's block. A write of CMD while a command runs is ignored (R342). -/
def State.writeBlock (s : State) (func vd off : Nat) (value : Word) : State :=
  if !s.seesBlock func vd || (off / 8 = 4 && (s.vd vd).busy ≠ 0) then s
  else if off = 0x020 then s.writeCmd vd func value
  else if off = 0x024 then s.modVd vd fun d => { d with cmd := BitVec.ofNat 64 (setWord d.cmd.toNat 1 value) }
  else (s.modVd vd fun d => d.writeWord (func = 0) off value s.free).bumpFree 2

/-- REGISTER_WRITE (R339, R340): a 32-bit write of a control-window register that has no step of its own: HVEC, the trust
mailbox, and the block of a device. Every other offset ignores it. -/
def execRegisterWrite (func offset : Nat) (value : Word) (s : State) : Out :=
  if offset % 4 ≠ 0 then .next s
  else if func = 0 && 0x100 ≤ offset && offset < 0x1100 then
    .next { s with mailbox := putBytes s.mailbox (offset - 0x100) (toBytes 4 value.toNat) }
  else if !s.hostUp then .next s
  else if offset = 0x30 then (if func = 0 then .next { s with hvec := value &&& 0x1FFF#32 } else .next s)
  else if 0x100000 ≤ offset && offset < 0x200000 then
    .next (s.writeBlock func ((offset - 0x100000) / 4096) (offset % 4096) value)
  else .next s

/-! The memory window (R345). -/

/-- The 16-byte parts of a request: address and length. -/
def windowParts (va n : Nat) : List (Nat × Nat) :=
  (List.range ((va + n - 1) / 16 - va / 16 + 1)).filterMap fun i =>
    let a := max va ((va / 16 + i) * 16)
    let b := min (va + n) ((va / 16 + i + 1) * 16)
    if a < b then some (a, b - a) else none

/-- What the parts of a request come to. -/
inductive WindowRes where
  | ok (places : List (Nat × Nat))
  | failed (detail : Nat)
  | wait

/-- R345: the translation of a request's parts: a fault anywhere fails it, a page that stalls makes it wait. An uncorrectable
error fails a read like a bad frame (R349, log 28). -/
def State.windowPlaces (s : State) (vd : Nat) (acc : Access) : List (Nat × Nat) → WindowRes
  | [] => .ok []
  | (va, n) :: ps =>
    match s.translate deviceAgent vd acc (BitVec.ofNat 64 va), State.windowPlaces s vd acc ps with
    | .fault d, _ => .failed d
    | .ok pa, .ok qs => if acc = .load && s.badRange pa n then .failed 4 else .ok ((pa, n) :: qs)
    | _, .failed d => .failed d
    | _, _ => .wait

/-- R345, R320: a KIND 5 record of a failed access. -/
def State.windowRecord (s : State) (vd : Nat) (va : DWord) (cause : Word) : State :=
  s.postRecord vd (faultRecord va.toNat 0 cause.toNat 0 5 vd 0 0 0 0 0)

/-- Parts written with bytes for a device, by requests where they lie at a peer (R346). -/
def putParts (vd : Nat) : List (Nat × Nat) → List Byte → State → State
  | [], _, s => s
  | (pa, n) :: ps, bs, s => putParts vd ps (bs.drop n) ((s.sendPeer vd pa (.store (bs.take n))).putMem pa (bs.take n))

/-- R346: parts asked for. -/
def askParts (vd : Nat) (ps : List (Nat × Nat)) (s : State) : State := ps.foldl (fun s p => s.sendPeer vd p.1 (.load p.2)) s

/-- The host receives something. -/
def State.tellHost (s : State) (m : HostMsg) : State := { s with hostOut := s.hostOut ++ [m] }

/-- R345: the operation of an AtomicOp as ATOM's. -/
def windowOp (op : WindowAtomic) : Nat := match op with | .fetchAdd => 0 | .swap => 6 | .cas => 7

/-- The function, address and time of a request. -/
def WindowReq.head (r : WindowReq) : Nat × DWord × Nat :=
  match r with | .read f va _ t => (f, va, t) | .write f va _ t => (f, va, t) | .atomic f va _ _ _ _ t => (f, va, t)

/-- R345: a request is served as memory now stands; none: it waits. -/
def State.windowServe (s : State) (r : WindowReq) : Option State :=
  let (vd, va, _) := r.head
  if (s.vd vd).pstate ≠ .awake then none
  else match r with
  | .read _ _ n _ => match s.windowPlaces vd .load (windowParts va.toNat n) with
    | .wait => none
    | .failed d => some ((s.windowRecord vd va (causeWord causePage d)).tellHost .completerAbort)
    | .ok ps => some ((askParts vd ps s).tellHost (.readData (ps.flatMap fun p => s.bytes p.1 p.2)))
  | .write _ _ bs _ => match s.windowPlaces vd .store (windowParts va.toNat bs.length) with
    | .wait => none
    | .failed d => some (s.windowRecord vd va (causeWord causePage (0x10 + d)))
    | .ok ps => some (putParts vd ps bs s)
  | .atomic _ _ n op operand swap _ => match s.windowPlaces vd .store (windowParts va.toNat n) with
    | .wait => none
    | .failed d => some ((s.windowRecord vd va (causeWord causePage (0x10 + d))).tellHost .completerAbort)
    | .ok ps => match ps with
      | (pa, _) :: _ =>
        let sent := s.sendPeer vd pa (.atomic n (windowOp op) operand swap)
        let (old, t) := sent.atomicStep (.phys pa) n (windowOp op) (operand.toNat % 2 ^ (8 * n)) (swap.toNat % 2 ^ (8 * n))
        some (t.tellHost (.readData (toBytes n old)))
      | [] => some s

/-- R345, R191: the waiting requests are looked at in the order of each function's arrival. -/
def serveWindowFrom : List WindowReq → List Nat → State → State
  | [], _, s => s
  | r :: rs, held, s =>
    let f := r.head.1
    let keep := { s with windowReqs := s.windowReqs ++ [r] }
    if held.contains f then serveWindowFrom rs held keep
    else match s.windowServe r with
      | some t => serveWindowFrom rs held t
      | none => serveWindowFrom rs (f :: held) keep

/-- Every waiting request of the memory windows is looked at again. -/
def State.serveWindows (s : State) : State := serveWindowFrom s.windowReqs [] { s with windowReqs := [] }

/-- R345, R302: a request arrives: it wakes a collapsed or collapsing device, and is served in its turn. -/
def State.windowArrive (s : State) (r : WindowReq) : State :=
  let vd := r.head.1
  let s := if (s.vd vd).pstate = .collapsed || (s.vd vd).pstate = .collapsing then s.wakeDev vd else s
  { s with windowReqs := s.windowReqs ++ [r] }.serveWindows

/-- R345: does a request of n bytes at this offset lie in the function's window? -/
def State.inWindow (s : State) (func offset n : Nat) : Bool :=
  s.hostUp && func < 256 && offset + n ≤ 2 ^ (s.vd func).mwlog2

/-- R345: the size of a function's window is set: a power of two from 64 MiB to 256 GiB. -/
def State.setWindow (s : State) (func log2 : Nat) : State :=
  if func < 256 && 26 ≤ log2 && log2 ≤ 38 then s.modVd func fun d => { d with mwlog2 := log2 } else s

/-- R345: MWBASE + o modulo 2^64. -/
def State.windowVa (s : State) (func offset : Nat) : DWord := (s.vd func).mwbase + BitVec.ofNat 64 offset

/-- MEMORY_WINDOW_READ (R345). A request beyond the window's size is none of this function's. -/
def execMemoryWindowRead (func offset size : Nat) (s : State) : Out :=
  if !s.inWindow func offset size then .next s else .next (s.windowArrive (.read func (s.windowVa func offset) size s.clock))

/-- MEMORY_WINDOW_WRITE (R345). -/
def execMemoryWindowWrite (func offset : Nat) (bytes : List Byte) (s : State) : Out :=
  if !s.inWindow func offset bytes.length then .next s else .next (s.windowArrive (.write func (s.windowVa func offset) bytes s.clock))

/-- MEMORY_WINDOW_ATOMIC (R345): 4 or 8 bytes, naturally aligned; a 16-byte operand is unsupported, anything else malformed. -/
def execMemoryWindowAtomic (func offset size : Nat) (op : WindowAtomic) (operand swap : DWord) (s : State) : Out :=
  if !s.inWindow func offset size then .next s
  else
    let va := s.windowVa func offset
    if size = 16 then .next (s.tellHost .unsupportedRequest)
    else if !(size = 4 || size = 8) || va.toNat % size ≠ 0 then .next (s.tellHost .malformed)
    else .next (s.windowArrive (.atomic func va size op operand swap s.clock))

/-- R301: the promise of a wake class in µs. -/
def promiseUs (cls : Nat) : Nat := if cls = 0 then 20 else if cls = 1 then 1500 else 40000

/-- R302, R345: does a request still wait for a device that has collapsed: not awake, or a page not yet restored? -/
def State.windowCollapsed (s : State) (r : WindowReq) : Bool :=
  let (vd, va, _) := r.head
  (s.vd vd).pstate ≠ .awake || (match s.walk vd va.toNat with
    | .leaf e sh => (s.vd vd).unrestored.contains (s.alias (entryFrame e + va.toNat % 2 ^ sh) / 0x10000)
    | _ => false)

/-- MEMORY_WINDOW_SERVICE_TIMEOUT (R345): the class's promise plus RTIMEOUT have passed, and the request that waits is given
up: a read is aborted, a write dropped, with a KIND 5 record. -/
def execMemoryWindowServiceTimeout (index : Nat) (s : State) : Out :=
  match s.windowReqs[index]? with
  | none => .next s
  | some r =>
    let (vd, va, since) := r.head
    let d := s.vd vd
    if !s.windowCollapsed r then .next s
    else
      let s := { s with
        clock := max s.clock (since + (promiseUs d.wclass + d.rtimeout) * clkPerUs), windowReqs := s.windowReqs.eraseIdx index }
      let s := (s.windowRecord vd va (Config.timeoutCause s.free)).bumpFree 1
      .next (match r with | .write _ _ _ _ => s | _ => s.tellHost .completerAbort)

end Sys2Proof.Machine
end

