-- ==== Sys2Proof/Machine/Service.lean ====
section
/-! DEFINITION. Peers (27 R346), trust (R347), soft errors and withdrawal (R349, R350), bring-up (R351) and the debugger (25
R319, R337). -/

namespace Sys2Proof.Machine

/-! CAPS and HEALTH (01 R23, 27 R349). -/

/-- R23: CAPS. -/
def State.caps (s : State) : DWord :=
  BitVec.ofNat 64 (s.nirports % 256 * 2 ^ 32 + (24 - s.withdrawn.length) * 2 ^ 24 + 0xFF * 2 ^ 16 + (256 - s.retiredCores.length))

/-- R349: HEALTH. -/
def State.health (s : State) : DWord :=
  let bit := fun (b : Bool) (n : Nat) => if b then 2 ^ n else 0
  BitVec.ofNat 64 (min s.ce (2 ^ 32 - 1) * 2 ^ 32 + s.retiredCores.length % 256 * 2 ^ 24 + s.spares % 256 * 2 ^ 16 +
    bit s.fwfail 2 + bit s.uncorr 1 + bit s.replaceRequested 0)

/-! Reads of the control window (R338-R343). A read changes nothing, so it is no step: what it gives is a function of the state. -/

/-- R298: PSTATE. -/
def PState.code (p : PState) : Nat :=
  match p with | .awake => 0 | .collapsing => 1 | .collapsed => 2 | .waking => 3

/-- R22: HEATLIM of a die. -/
def State.heatlimWord (s : State) (die : Nat) : Word := BitVec.ofNat 32 (s.inforce die * 2 ^ 16 + nget 700 s.heatlim die)

/-- R341: word n of a ring register. -/
def Ring.word (r : Ring) (n : Nat) : Word :=
  match n with
  | 0 => BitVec.ofNat 32 (field r.base 12 20 * 2 ^ 12 + r.log2n)
  | 1 => BitVec.ofNat 32 (field r.base 32 32)
  | 2 => r.prod
  | _ => r.cons

/-- Word n of a number that is read as 32-bit words. -/
def wordOf (x n : Nat) : Word := BitVec.ofNat 32 (field x (32 * n) 32)

/-- R298: word n of a device's power block. WAKE reads 0. -/
def VDev.powerWord (d : VDev) (n : Nat) : Word :=
  match n with
  | 1 => d.wakes
  | 2 => BitVec.ofNat 32 (d.pstate.code * 4 + d.wclass)
  | 3 => BitVec.ofNat 32 d.idlethr
  | 4 => BitVec.ofNat 32 (d.refill * 2 ^ 16 + d.cap)
  | 5 => BitVec.ofNat 32 d.rescap
  | 6 => lo32 (BitVec.ofInt 64 d.level)
  | 7 => hi32 (BitVec.ofInt 64 d.level)
  | _ => 0

/-- R340: the 32-bit word at an offset of a device's block, a multiple of 4. MAPREPLY is written only, and all other offsets are
reserved: they read 0. -/
def VDev.blockWord (d : VDev) (off : Nat) : Word :=
  let n := off / 4
  if n < 8 then d.powerWord n
  else if n < 10 then wordOf d.cmd.toNat (n - 8)
  else if n = 0x0A then BitVec.ofNat 32 d.tension
  else if n = 0x0B then BitVec.ofNat 32 d.rtimeout
  else if n < 0x0E then wordOf d.ptroot (n - 0x0C)
  else if n < 0x10 then wordOf d.savebase (n - 0x0E)
  else if n < 0x12 then wordOf d.savesize (n - 0x10)
  else if n = 0x12 then d.mcdrop
  else if n = 0x13 then BitVec.ofNat 32 d.peergrp
  else if n < 0x24 then (d.ring ((n - 0x14) / 4)).word ((n - 0x14) % 4)
  else if n = 0x24 then d.vecrun
  else if n = 0x25 then d.faultvec
  else if n = 0x26 then d.trustctl
  else if 0x28 ≤ n && n < 0x2B then wordOf d.drange (n - 0x28)
  else if n = 0x2E then d.stv
  else if 0x30 ≤ n && n < 0x60 then wordOf d.signers (n - 0x30)
  else if n = 0x60 || n = 0x61 then wordOf d.mwbase.toNat (n - 0x60)
  else 0

/-- R343: word n of a queue's configuration. -/
def QueueCfg.word (c : QueueCfg) (n : Nat) : Word :=
  match n with
  | 0 => BitVec.ofNat 32 ((if c.enable then 2 ^ 8 else 0) + c.owner)
  | 1 => BitVec.ofNat 32 (c.log2n * 2 ^ 12 + c.vec)
  | 2 => BitVec.ofNat 32 (field c.base 12 20 * 2 ^ 12)
  | 3 => BitVec.ofNat 32 (field c.base 32 32)
  | 4 => c.head
  | 5 => c.tail
  | _ => 0

/-- R339: a package register's word, which every function may read. -/
def State.packageWord (s : State) (off : Nat) : Word :=
  if off = 0x10 then lo32 s.caps
  else if off = 0x14 then hi32 s.caps
  else if off = 0x18 then BitVec.ofNat 32 s.pwrlim
  else if off = 0x20 then lo32 s.health
  else if off = 0x24 then hi32 s.health
  else if off = 0x28 then BitVec.ofNat 32 s.domid
  else if off = 0x30 then s.hvec
  else if 0x40 ≤ off && off < 0x50 then s.heatlimWord ((off - 0x40) / 4)
  else if 0x100 ≤ off && off < 0x1100 then
    BitVec.ofNat 32 (ofBytes ((List.range 4).map fun i => nget 0 s.mailbox (off - 0x100 + i)))
  else 0

/-- R338, R339: what a function reads in the 32-bit word of the control window at an offset, a multiple of 4: the package
registers, its own block and the configurations of its own queues (of every device, for the physical function), and 0 elsewhere. -/
def State.controlWord (s : State) (func off : Nat) : Word :=
  if off < 0x100000 then s.packageWord off
  else if off < 0x200000 then
    let vd := (off - 0x100000) / 4096
    if s.seesBlock func vd then (s.vd vd).blockWord (off % 4096) else 0
  else
    let c := nget {} s.queues ((off - 0x200000) / 32)
    if (off - 0x200000) / 32 < 16384 && (func = 0 || c.owner = func) then c.word (off % 32 / 4) else 0

/-- R347: in recovery only CAPS, HEALTH and the mailbox answer. -/
def answersInRecovery (off : Nat) : Bool := (0x10 ≤ off && off < 0x18) || (0x20 ≤ off && off < 0x28) || (0x100 ≤ off && off < 0x1100)

/-- R2, R338, R339, R347: the bytes that a function's read of the control window returns; none where the device does not answer. -/
def State.controlRead (s : State) (func off size : Nat) : Option (List Byte) :=
  let places := (List.range size).map fun i => off + i
  if s.hostUp || places.all answersInRecovery then
    some (places.map fun a => BitVec.ofNat 8 ((s.controlWord func (a / 4 * 4)).toNat / 2 ^ (8 * (a % 4))))
  else none

/-- HEALTH_WRITE (R349): 1 to UNCORR clears it. -/
def execHealthWrite (func : Nat) (value : DWord) (s : State) : Out :=
  if func ≠ 0 then .next s else .next { s with uncorr := s.uncorr && !value.getLsbD 1 }

/-- R350: the clk in a second. -/
def clkPerSecond : Nat := 1000000 * clkPerUs

/-- R350: the clk of a core's latest corrected errors with one more: the last 65 are kept. -/
def noteError (clk : Nat) (times : List Nat) : List Nat := (clk :: times).take 65

/-- R350: do the latest errors make more than 64 within one second? -/
def tooMany (times : List Nat) : Bool :=
  match times[64]?, times[0]? with | some a, some b => b < a + clkPerSecond | _, _ => false

/-- CORRECTED_ERROR (R349, R350): CE rises by 1; a core with more than 64 within one second is to be retired; SPARES counts a vault
row or channel that a spare has replaced. -/
def execCorrectedError (e : CorrectedError) (s : State) : Out :=
  let s := { s with ce := min (s.ce + 1) (2 ^ 32 - 1), spares := if e.spared then min (s.spares + 1) 255 else s.spares }
  match e.core with
  | none => .next s
  | some c =>
    let times := noteError s.clock (nget [] s.coreErrors c)
    .next { s with
      coreErrors := nset [] s.coreErrors c times
      failing := if tooMany times && !s.failing.contains c then s.failing ++ [c] else s.failing }

/-- UNCORRECTABLE_ERROR (R349): readers of the 16 bytes of memory will take the bad-frame page fault; an error in a register
or scratchpad halts every group of the team. -/
def execUncorrectableError (site : ErrorSite) (s : State) : Out :=
  let s := { s with uncorr := true }
  match site with
  | .memory a => .next { s with badMem := if s.badMem.contains (a / 16 * 16) then s.badMem else s.badMem ++ [a / 16 * 16] }
  | .team t =>
    let hit := (s.groups.filter fun g => g.id ≠ 0 && g.team = t && g.live && g.wait ≠ some .halted).map fun g => g.id
    .next (hit.foldl State.halt s)

/-- First address and bytes of a channel group (13 R165). -/
def groupBase (n : Nat) : Nat := bulkBase + n * 0x800000000

/-- R350: contents that are lost: every byte that has been written in the range holds a free value (log 43). -/
def State.loseMem (s : State) (a n : Nat) : State :=
  { s with
    free := s.free + 1
    mem := (s.mem.filter fun c => decide (a ≤ c.1) && decide (c.1 < a + n)).foldl
      (fun m c => nset unlistedByte m c.1 (Config.lostByte s.free c.1)) s.mem }

/-- CHANNEL_GROUP_WITHDRAWAL (R350): the group's contents are lost, and its owner's live launches end with 0x32. -/
def execChannelGroupWithdrawal (group : Nat) (s : State) : Out :=
  if 24 ≤ group || s.withdrawn.contains group then .next s
  else
    let owner := s.vdList.find? fun v => (s.vd v).groups.contains group
    let s : State := { s with withdrawn := s.withdrawn ++ [group] }.loseMem (groupBase group) 0x800000000
    let s : State := match owner with
      | none => s
      | some v =>
        let ls := (s.launches.filter fun x => x.vd = v).map fun x => x.id
        (ls.foldl (fun s l => s.cutLaunch l 0x32) s).modVd v fun d => { d with groups := d.groups.filter (· ≠ group) }
    .next s.requestReplacement

/-! Trust (R347). -/

/-- R347: the firmware digest: the SHA-384 of the image. -/
def Firmware.digest (f : Firmware) : BitVec 384 := BitVec.ofNat 384 (ofBytes (sha384 (Config.firmwareImage f.image)))

/-- R347: do both signatures verify over the digest? -/
def Firmware.verifies (f : Firmware) : Bool :=
  Config.vendorEd25519 f.digest f.sigs.ed25519 && Config.vendorMlDsa65 f.digest f.sigs.mlDsa65

/-- R347: the attestation report: the nonce, the firmware's digest, CAPS, HEALTH, and the SHA-384 over every block's SIGNERS
and TRUSTCTL. -/
def State.attestationReport (s : State) (nonce : List Byte) : List Byte :=
  let blocks := (List.range 256).flatMap fun v => toBytes 192 (s.vd v).signers ++ toBytes 4 (s.vd v).trustctl.toNat
  nonce ++ toBytes 48 s.firmware.digest.toNat ++ toBytes 8 s.caps.toNat ++ toBytes 8 s.health.toNat ++
    sha384 blocks

/-- ATTESTATION (R347): a nonce of 32 bytes written to the mailbox is answered with a report and both signatures. -/
def execAttestation (func : Nat) (nonce : List Byte) (s : State) : Out :=
  if func ≠ 0 || nonce.length ≠ 32 then .next s
  else
    let report := s.attestationReport nonce
    .next ({ s with mailbox := putBytes s.mailbox 0 nonce }.tellHost (.attestation report (Config.attestationSignature report)))

/-- FIRMWARE_UPDATE (R347): an image both of whose signatures verify is in force after the next package reset. -/
def execFirmwareUpdate (func image : Nat) (signatures : FirmwareSigs) (s : State) : Out :=
  let f : Firmware := { image := image, sigs := signatures }
  if func ≠ 0 || !f.verifies then .next s else .next { s with nextFirmware := f }

/-! Bring-up (R351). -/

/-- R165: is an address one of bulk DRAM? -/
def inBulk (a : Nat) : Bool := bulkBase ≤ a && a < 0x10000000000

/-- PACKAGE_RESET (R351, R347, R350): the state of reset, with what is outside the device and what reset does not reach: the firmware
images, what the host has received, and the bytes of the vaults, which no reset changes (R12), of the host and of peers. Cores that fail
their self-test are retired. Whether the bytes of bulk DRAM are kept no rule says: the event does (log 30). -/
def execPackageReset (failedCores : List Nat) (memoryKept : Bool) (s : State) : Out :=
  let failed := ((List.range 256).filter fun c => failedCores.contains c)
  let r := { State.reset with
    mem := if memoryKept then s.mem else s.mem.filter fun c => !inBulk c.1
    hostOut := s.hostOut, agenda := s.agenda, free := s.free, nextGid := s.nextGid, nextTeam := s.nextTeam
    nextLaunch := s.nextLaunch, nextOp := s.nextOp, busError := s.busError
    firmware := s.nextFirmware, nextFirmware := s.nextFirmware, fwfail := !s.nextFirmware.verifies
    retiredCores := failed, replaceRequested := !failed.isEmpty }
  .next (failed.foldl State.remapCore r)

/-- LINK_TRAINING (R351): NIRPORTS and DOMID become valid. -/
def execLinkTraining (ports domid devices : Nat) (s : State) : Out :=
  .next { s with nirports := min ports 24, domid := domid % 1024, devices := min devices 1024 }

/-! Peers (R346, R323). -/

/-- R346, R323: a peer's request that is not served: a KIND 3 record at the frame's owner, else at device 0, and an error. -/
def State.peerFault (s : State) (r : PeerReq) : State :=
  let vd := (s.frameOwner r.addr).getD 0
  ((s.postRecord vd (faultRecord r.addr 0 (Config.targetCause s.free).toNat 0 3 vd 0 0 0 0 0)).bumpFree 1).tellHost (.peerError none false)

/-- R268: the lanes of a peer's post arrive at the object's home, each with its identity (R333): launch, team, group, lane and the
lane's count of posts. The last one ends the POST where the request does (R332). -/
def State.peerPost (s : State) (r : PeerReq) (launch team group : Nat) (marks : PostMarks) : List (Nat × Nat × List Word) → State
  | [] => s
  | (lane, posts, ws) :: rest =>
    let item : SkRecord :=
      { words := ws, lane := lane, ident := [launch, team, group, lane, posts], reply := marks.reply, logmark := marks.logMark
        peer := true, domid := r.domid, det := marks.det, postEnd := marks.postEnd && rest.isEmpty }
    State.peerPost (s.arriveHome { core := oVault (s.num r.addr 64), node := false, desc := r.addr, item := item }) r launch team
      group marks rest

/-- R346: a request that is served. -/
def State.peerServed (s : State) (r : PeerReq) : State :=
  match r.kind with
  | .load n => if s.badRange r.addr n then s.peerFault r else s.tellHost (.peerReply (s.bytes r.addr n) false)
  | .store bs => s.putMem r.addr bs
  | .atomic n op b new =>
    if 8 < op || s.badRange r.addr n then s.peerFault r
    else
      let (old, t) := s.atomicStep (.phys r.addr) n op (b.toNat % 2 ^ (8 * n)) (new.toNat % 2 ^ (8 * n))
      t.tellHost (.peerReply (toBytes n old) false)
  | .signal => match signalStep (s.num r.addr 32) with
    | some (b, enq) =>
      if s.badRange r.addr (if enq then 32 else 8) then s.peerFault r
      else let s := s.putNum r.addr 32 b; if enq then s.enqueueBlock b else s
    | none => s.peerFault r
  | .post lanes launch team group marks => s.peerPost r launch team group marks lanes

/-- R346: does the frame's owner serve the request: the same peer group, and not 0? -/
def State.peerAllowed (s : State) (r : PeerReq) : Bool :=
  localOk r.addr && match s.frameOwner r.addr with
    | some v => (s.vd v).peergrp = r.peerGroup && r.peerGroup ≠ 0
    | none => false

/-- R302: must the request wait for a device that has collapsed? -/
def State.peerWaits (s : State) (r : PeerReq) : Bool :=
  match s.frameOwner r.addr with
  | some v => (s.vd v).pstate ≠ .awake || (s.vd v).unrestored.contains (r.addr / 0x10000)
  | none => false

/-- The peers' requests are looked at in the order of their arrival. -/
def servePeersFrom : List PeerReq → State → State
  | [], s => s
  | r :: rs, s =>
    if !s.peerAllowed r then servePeersFrom rs (s.peerFault r)
    else if s.peerWaits r then servePeersFrom rs { s with peerReqs := s.peerReqs ++ [r] }
    else servePeersFrom rs (s.peerServed r)

/-- Every waiting request of a peer is looked at again. -/
def State.servePeers (s : State) : State := servePeersFrom s.peerReqs { s with peerReqs := [] }

/-- PEER_REQUEST (R346, R302): a request arrives; it wakes the collapsed device whose memory it names. -/
def execPeerRequest (r : PeerReq) (s : State) : Out :=
  let s := if s.peerAllowed r then match s.frameOwner r.addr with
      | some v => if (s.vd v).pstate = .collapsed || (s.vd v).pstate = .collapsing then s.wakeDev v else s
      | none => s
    else s
  .next { s with peerReqs := s.peerReqs ++ [r] }.servePeers

/-! The debugger (R319, R337). -/

/-- DEBUGGER_ATTACH (R319). -/
def execDebuggerAttach (attached : Bool) (s : State) : Out := .next { s with debugger := attached }

/-- The groups of a group's team. -/
def Group.mate (g h : Group) : Bool := h.id ≠ 0 && h.team = g.team

/-- DEBUGGER_STOP (R337): every group of the group's team halts between issues; issued fixed-latency and special-function work completes
(R153). -/
def execDebuggerStop (gid : Nat) (s : State) : Out :=
  match s.group gid with
  | some g => if !s.debugger || gid = 0 then .next s
    else .next (s.modGroups g.mate Group.stop)
  | none => .next s

/-- DEBUGGER_CONTINUE (R337). -/
def execDebuggerContinue (gid : Nat) (s : State) : Out :=
  match s.group gid with
  | some g => if !s.debugger || gid = 0 then .next s else .next (s.modGroups g.mate fun h => { h with stopped := false })
  | none => .next s

/-- R337: the turns of the group's next issues come before all others: 0 is the current path, n the n-th entry of the stack
counted from its lowest. -/
def State.stepPaths (s : State) (gid : Nat) (depths : List Nat) : State :=
  { s with agenda := depths.map (Turn.pathStep gid) ++ s.agenda }

/-- R337: the paths that wait on a group's visible stack, the top one first. -/
def Group.waitingPaths (g : Group) : List Nat :=
  (List.range (g.stack.length - g.hidden)).filterMap fun i =>
    match g.stack[i]? with | some e => if e.pending then some (g.stack.length - i) else none | none => none

/-- DEBUGGER_STEP (R337): the current path of a stopped group issues once, as the next step. -/
def execDebuggerStep (gid : Nat) (s : State) : Out :=
  match s.group gid with
  | some g => if !s.debugger || !g.stopped || gid = 0 then .next s else .next (s.stepPaths gid [0])
  | none => .next s

/-- DEBUGGER_STEP_ALL (R337): each path on the stack by one instruction, the top first, then the current path. -/
def execDebuggerStepAll (gid : Nat) (s : State) : Out :=
  match s.group gid with
  | some g => if !s.debugger || !g.stopped || gid = 0 then .next s else .next (s.stepPaths gid (g.waitingPaths ++ [0]))
  | none => .next s

end Sys2Proof.Machine
end

