-- ==== Sys2Proof/Machine/Dispatch.lean ====
section
/-! DEFINITION. What each instruction and event does: one arm per row of the opcode table. -/

namespace Sys2Proof.Machine

/-- The meaning of an instruction or event. -/
def exec (i : Instr) (s : State) : Host.Outcome State Fault Refusal :=
  match i with
  | .nop u => Sys2Proof.Machine.execNop u s
  | .mov u g d a => Sys2Proof.Machine.execMov u g d a s
  | .iadd u g d a b => Sys2Proof.Machine.execIadd u g d a b s
  | .isub u g d a b => Sys2Proof.Machine.execIsub u g d a b s
  | .imullo u g d a b => Sys2Proof.Machine.execImullo u g d a b s
  | .imulhi u g d a b => Sys2Proof.Machine.execImulhi u g d a b s
  | .imulhiu u g d a b => Sys2Proof.Machine.execImulhiu u g d a b s
  | .imin u g d a b => Sys2Proof.Machine.execImin u g d a b s
  | .imax u g d a b => Sys2Proof.Machine.execImax u g d a b s
  | .umin u g d a b => Sys2Proof.Machine.execUmin u g d a b s
  | .umax u g d a b => Sys2Proof.Machine.execUmax u g d a b s
  | .and u g d a b => Sys2Proof.Machine.execAnd u g d a b s
  | .or u g d a b => Sys2Proof.Machine.execOr u g d a b s
  | .xor u g d a b => Sys2Proof.Machine.execXor u g d a b s
  | .andn u g d a b => Sys2Proof.Machine.execAndn u g d a b s
  | .shl u g d a b => Sys2Proof.Machine.execShl u g d a b s
  | .shr u g d a b => Sys2Proof.Machine.execShr u g d a b s
  | .sar u g d a b => Sys2Proof.Machine.execSar u g d a b s
  | .bfeu u g d a b => Sys2Proof.Machine.execBfeu u g d a b s
  | .bfes u g d a b => Sys2Proof.Machine.execBfes u g d a b s
  | .popc u g d a => Sys2Proof.Machine.execPopc u g d a s
  | .clz u g d a => Sys2Proof.Machine.execClz u g d a s
  | .brev u g d a => Sys2Proof.Machine.execBrev u g d a s
  | .sel u g d a b => Sys2Proof.Machine.execSel u g d a b s
  | .fadd u g d a b => Sys2Proof.Machine.execFadd u g d a b s
  | .fsub u g d a b => Sys2Proof.Machine.execFsub u g d a b s
  | .fmul u g d a b => Sys2Proof.Machine.execFmul u g d a b s
  | .fmin u g d a b => Sys2Proof.Machine.execFmin u g d a b s
  | .fmax u g d a b => Sys2Proof.Machine.execFmax u g d a b s
  | .hadd2 u g d a b => Sys2Proof.Machine.execHadd2 u g d a b s
  | .hmul2 u g d a b => Sys2Proof.Machine.execHmul2 u g d a b s
  | .badd2 u g d a b => Sys2Proof.Machine.execBadd2 u g d a b s
  | .bmul2 u g d a b => Sys2Proof.Machine.execBmul2 u g d a b s
  | .icmpeq u g d a b => Sys2Proof.Machine.execIcmpeq u g d a b s
  | .icmpne u g d a b => Sys2Proof.Machine.execIcmpne u g d a b s
  | .icmplt u g d a b => Sys2Proof.Machine.execIcmplt u g d a b s
  | .icmple u g d a b => Sys2Proof.Machine.execIcmple u g d a b s
  | .ucmplt u g d a b => Sys2Proof.Machine.execUcmplt u g d a b s
  | .ucmple u g d a b => Sys2Proof.Machine.execUcmple u g d a b s
  | .fcmpeq u g d a b => Sys2Proof.Machine.execFcmpeq u g d a b s
  | .fcmpne u g d a b => Sys2Proof.Machine.execFcmpne u g d a b s
  | .fcmplt u g d a b => Sys2Proof.Machine.execFcmplt u g d a b s
  | .fcmple u g d a b => Sys2Proof.Machine.execFcmple u g d a b s
  | .fcmpun u g d a b => Sys2Proof.Machine.execFcmpun u g d a b s
  | .pand u g d a b => Sys2Proof.Machine.execPand u g d a b s
  | .por u g d a b => Sys2Proof.Machine.execPor u g d a b s
  | .pxor u g d a b => Sys2Proof.Machine.execPxor u g d a b s
  | .pandn u g d a b => Sys2Proof.Machine.execPandn u g d a b s
  | .shflidx g d a b => Sys2Proof.Machine.execShflidx g d a b s
  | .shflxor g d a b => Sys2Proof.Machine.execShflxor g d a b s
  | .lshup g d a b => Sys2Proof.Machine.execLshup g d a b s
  | .lshdn g d a b => Sys2Proof.Machine.execLshdn g d a b s
  | .votebal g d a => Sys2Proof.Machine.execVotebal g d a s
  | .voteany g d a => Sys2Proof.Machine.execVoteany g d a s
  | .voteall g d a => Sys2Proof.Machine.execVoteall g d a s
  | .rdfirst g d a => Sys2Proof.Machine.execRdfirst g d a s
  | .frcp u g d a => Sys2Proof.Machine.execFrcp u g d a s
  | .frsq u g d a => Sys2Proof.Machine.execFrsq u g d a s
  | .fex2 u g d a => Sys2Proof.Machine.execFex2 u g d a s
  | .flg2 u g d a => Sys2Proof.Machine.execFlg2 u g d a s
  | .fsin u g d a => Sys2Proof.Machine.execFsin u g d a s
  | .fcos u g d a => Sys2Proof.Machine.execFcos u g d a s
  | .psave u g d a => Sys2Proof.Machine.execPsave u g d a s
  | .pload u g d a => Sys2Proof.Machine.execPload u g d a s
  | .iaddi u g d a imm => Sys2Proof.Machine.execIaddi u g d a imm s
  | .andi u g d a imm => Sys2Proof.Machine.execAndi u g d a imm s
  | .ori u g d a imm => Sys2Proof.Machine.execOri u g d a imm s
  | .xori u g d a imm => Sys2Proof.Machine.execXori u g d a imm s
  | .shli u g d a imm => Sys2Proof.Machine.execShli u g d a imm s
  | .shri u g d a imm => Sys2Proof.Machine.execShri u g d a imm s
  | .sari u g d a imm => Sys2Proof.Machine.execSari u g d a imm s
  | .icmpeqi u g d a imm => Sys2Proof.Machine.execIcmpeqi u g d a imm s
  | .icmplti u g d a imm => Sys2Proof.Machine.execIcmplti u g d a imm s
  | .icmpgti u g d a imm => Sys2Proof.Machine.execIcmpgti u g d a imm s
  | .movi u g d imm => Sys2Proof.Machine.execMovi u g d imm s
  | .srd u g d imm => Sys2Proof.Machine.execSrd u g d imm s
  | .swr u g a imm => Sys2Proof.Machine.execSwr u g a imm s
  | .gset d a imm => Sys2Proof.Machine.execGset d a imm s
  | .win imm => Sys2Proof.Machine.execWin imm s
  | .ldspill g d imm => Sys2Proof.Machine.execLdspill g d imm s
  | .stspill g d imm => Sys2Proof.Machine.execStspill g d imm s
  | .cvt u g d a imm => Sys2Proof.Machine.execCvt u g d a imm s
  | .lshupi g d a imm => Sys2Proof.Machine.execLshupi g d a imm s
  | .lshdni g d a imm => Sys2Proof.Machine.execLshdni g d a imm s
  | .shflxori g d a imm => Sys2Proof.Machine.execShflxori g d a imm s
  | .imuli u g d a imm => Sys2Proof.Machine.execImuli u g d a imm s
  | .ffma u m g d a b => Sys2Proof.Machine.execFfma u m g d a b s
  | .ffmn u m g d a b => Sys2Proof.Machine.execFfmn u m g d a b s
  | .imad u g d a b => Sys2Proof.Machine.execImad u g d a b s
  | .iaddminSs u g d a b => Sys2Proof.Machine.execIaddminSs u g d a b s
  | .iaddminNn u g d a b => Sys2Proof.Machine.execIaddminNn u g d a b s
  | .hfma2 u m g d a b => Sys2Proof.Machine.execHfma2 u m g d a b s
  | .bfma2 u m g d a b => Sys2Proof.Machine.execBfma2 u m g d a b s
  | .dp4 u m g d a b => Sys2Proof.Machine.execDp4 u m g d a b s
  | .dp8 u m g d a b => Sys2Proof.Machine.execDp8 u m g d a b s
  | .bfi u g d a b => Sys2Proof.Machine.execBfi u g d a b s
  | .iadd3 u g d a b => Sys2Proof.Machine.execIadd3 u g d a b s
  | .isad u g d a b => Sys2Proof.Machine.execIsad u g d a b s
  | .iadd64 u g d a b => Sys2Proof.Machine.execIadd64 u g d a b s
  | .ld u x d a z c => Sys2Proof.Machine.execLd u x d a z c s
  | .lds u x d a z c => Sys2Proof.Machine.execLds u x d a z c s
  | .st u x d a z c => Sys2Proof.Machine.execSt u x d a z c s
  | .sld u d a z c => Sys2Proof.Machine.execSld u d a z c s
  | .slds u d a z c => Sys2Proof.Machine.execSlds u d a z c s
  | .sst u d a z c => Sys2Proof.Machine.execSst u d a z c s
  | .ldts x d a z q => Sys2Proof.Machine.execLdts x d a z q s
  | .cpy x d a z r q => Sys2Proof.Machine.execCpy x d a z r q s
  | .atom x d a z o e => Sys2Proof.Machine.execAtom x d a z o e s
  | .red x d a z o e => Sys2Proof.Machine.execRed x d a z o e s
  | .satom d a z o => Sys2Proof.Machine.execSatom d a z o s
  | .pref x a z c => Sys2Proof.Machine.execPref x a z c s
  | .lda u x d a z e => Sys2Proof.Machine.execLda u x d a z e s
  | .strel u x d a z e => Sys2Proof.Machine.execStrel u x d a z e s
  | .bar d a o n => Sys2Proof.Machine.execBar d a o n s
  | .bararr d a o n => Sys2Proof.Machine.execBararr d a o n s
  | .barwait a n => Sys2Proof.Machine.execBarwait a n s
  | .fence z => Sys2Proof.Machine.execFence z s
  | .qfence z m => Sys2Proof.Machine.execQfence z m s
  | .pause n => Sys2Proof.Machine.execPause n s
  | .yield o k r => Sys2Proof.Machine.execYield o k r s
  | .xlat d a w => Sys2Proof.Machine.execXlat d a w s
  | .gath d a w => Sys2Proof.Machine.execGath d a w s
  | .scat d a k m w => Sys2Proof.Machine.execScat d a k m w s
  | .mcast d a => Sys2Proof.Machine.execMcast d a s
  | .mgang a => Sys2Proof.Machine.execMgang a s
  | .mma d a c t => Sys2Proof.Machine.execMma d a c t s
  | .mdrain d z t => Sys2Proof.Machine.execMdrain d z t s
  | .mstore a k z c n t => Sys2Proof.Machine.execMstore a k z c n t s
  | .mzero l t => Sys2Proof.Machine.execMzero l t s
  | .mfence d => Sys2Proof.Machine.execMfence d s
  | .mwait n => Sys2Proof.Machine.execMwait n s
  | .ntake => Sys2Proof.Machine.execNtake s
  | .npass => Sys2Proof.Machine.execNpass s
  | .pass a j => Sys2Proof.Machine.execPass a j s
  | .seal a => Sys2Proof.Machine.execSeal a s
  | .vread a p j => Sys2Proof.Machine.execVread a p j s
  | .vwait a p j => Sys2Proof.Machine.execVwait a p j s
  | .vdone a m => Sys2Proof.Machine.execVdone a m s
  | .post d a r j => Sys2Proof.Machine.execPost d a r j s
  | .reply d a => Sys2Proof.Machine.execReply d a s
  | .cdone => Sys2Proof.Machine.execCdone s
  | .enq d a e j => Sys2Proof.Machine.execEnq d a e j s
  | .signal a z => Sys2Proof.Machine.execSignal a z s
  | .launch d j => Sys2Proof.Machine.execLaunch d j s
  | .lwait a j => Sys2Proof.Machine.execLwait a j s
  | .ldone a => Sys2Proof.Machine.execLdone a s
  | .lhint a => Sys2Proof.Machine.execLhint a s
  | .enrd k j => Sys2Proof.Machine.execEnrd k j s
  | .commit => Sys2Proof.Machine.execCommit s
  | .tokpass => Sys2Proof.Machine.execTokpass s
  | .join => Sys2Proof.Machine.execJoin s
  | .ret l => Sys2Proof.Machine.execRet l s
  | .jmpi a => Sys2Proof.Machine.execJmpi a s
  | .exit => Sys2Proof.Machine.execExit s
  | .trap n => Sys2Proof.Machine.execTrap n s
  | .sys n => Sys2Proof.Machine.execSys n s
  | .tret m => Sys2Proof.Machine.execTret m s
  | .bkpt n => Sys2Proof.Machine.execBkpt n s
  | .pmap d a e w => Sys2Proof.Machine.execPmap d a e w s
  | .tlbiDrain j => Sys2Proof.Machine.execTlbiDrain j s
  | .tlbiConfirm => Sys2Proof.Machine.execTlbiConfirm s
  | .bra u g o => Sys2Proof.Machine.execBra u g o s
  | .call u g o => Sys2Proof.Machine.execCall u g o s
  | .mark o => Sys2Proof.Machine.execMark o s
  | .brk g => Sys2Proof.Machine.execBrk g s
  | .tramp g k => Sys2Proof.Machine.execTramp g k s
  | .probe n => Sys2Proof.Machine.execProbe n s
  | .movl u d lit => Sys2Proof.Machine.execMovl u d lit s
  | .iaddl u d a lit => Sys2Proof.Machine.execIaddl u d a lit s
  | .andl u d a lit => Sys2Proof.Machine.execAndl u d a lit s
  | .orl u d a lit => Sys2Proof.Machine.execOrl u d a lit s
  | .xorl u d a lit => Sys2Proof.Machine.execXorl u d a lit s
  | .imull u d a lit => Sys2Proof.Machine.execImull u d a lit s
  | .icmpeql u d a lit => Sys2Proof.Machine.execIcmpeql u d a lit s
  | .icmpltl u d a lit => Sys2Proof.Machine.execIcmpltl u d a lit s
  | .faddl u d a lit => Sys2Proof.Machine.execFaddl u d a lit s
  | .fmull u d a lit => Sys2Proof.Machine.execFmull u d a lit s
  | .ffmal u d a lit => Sys2Proof.Machine.execFfmal u d a lit s
  | .fcmpltl u d a lit => Sys2Proof.Machine.execFcmpltl u d a lit s
  | .frameFetch gid => Sys2Proof.Machine.execFrameFetch gid s
  | .stallCountElapse gid => Sys2Proof.Machine.execStallCountElapse gid s
  | .activeSetFill core part => Sys2Proof.Machine.execActiveSetFill core part s
  | .forcedRotation core part => Sys2Proof.Machine.execForcedRotation core part s
  | .pauseExpiry gid => Sys2Proof.Machine.execPauseExpiry gid s
  | .loadReturn gid tag => Sys2Proof.Machine.execLoadReturn gid tag s
  | .storePerformed gid => Sys2Proof.Machine.execStorePerformed gid s
  | .remoteErrorReply access => Sys2Proof.Machine.execRemoteErrorReply access s
  | .remoteTimeout access => Sys2Proof.Machine.execRemoteTimeout access s
  | .copyPartArrival gid queue part => Sys2Proof.Machine.execCopyPartArrival gid queue part s
  | .copyPartFault gid queue part => Sys2Proof.Machine.execCopyPartFault gid queue part s
  | .mcastPartArrival gid part => Sys2Proof.Machine.execMcastPartArrival gid part s
  | .gangOperationEntry op => Sys2Proof.Machine.execGangOperationEntry op s
  | .mdrainEntry gid => Sys2Proof.Machine.execMdrainEntry gid s
  | .mstoreEntry gid => Sys2Proof.Machine.execMstoreEntry gid s
  | .mzeroEntry gid => Sys2Proof.Machine.execMzeroEntry gid s
  | .needlePass gid => Sys2Proof.Machine.execNeedlePass gid s
  | .queueEntryTake src => Sys2Proof.Machine.execQueueEntryTake src s
  | .teamPlace launch team core places => Sys2Proof.Machine.execTeamPlace launch team core places s
  | .teamEnd team => Sys2Proof.Machine.execTeamEnd team s
  | .launchComplete launch => Sys2Proof.Machine.execLaunchComplete launch s
  | .timeLimitExpiry launch => Sys2Proof.Machine.execTimeLimitExpiry launch s
  | .energyLimitReached launch => Sys2Proof.Machine.execEnergyLimitReached launch s
  | .passOpen launch => Sys2Proof.Machine.execPassOpen launch s
  | .skeinRecordArrival src => Sys2Proof.Machine.execSkeinRecordArrival src s
  | .skeinTimerExpiry skein => Sys2Proof.Machine.execSkeinTimerExpiry skein s
  | .skeinFire skein part slot => Sys2Proof.Machine.execSkeinFire skein part slot s
  | .watchdogExpiry skein => Sys2Proof.Machine.execWatchdogExpiry skein s
  | .postReplyArrival src => Sys2Proof.Machine.execPostReplyArrival src s
  | .layerFetchStart ctx => Sys2Proof.Machine.execLayerFetchStart ctx s
  | .layerArrival ctx => Sys2Proof.Machine.execLayerArrival ctx s
  | .layerFetchFault ctx cause => Sys2Proof.Machine.execLayerFetchFault ctx cause s
  | .evictionComplete ctx layer => Sys2Proof.Machine.execEvictionComplete ctx layer s
  | .reservoirRefill => Sys2Proof.Machine.execReservoirRefill s
  | .thermalLimitStep die reading => Sys2Proof.Machine.execThermalLimitStep die reading s
  | .idleThresholdExpiry vd => Sys2Proof.Machine.execIdleThresholdExpiry vd s
  | .collapseComplete vd => Sys2Proof.Machine.execCollapseComplete vd s
  | .wakeComplete vd => Sys2Proof.Machine.execWakeComplete vd s
  | .vaultPageRestore vd page => Sys2Proof.Machine.execVaultPageRestore vd page s
  | .scrubComplete vd va => Sys2Proof.Machine.execScrubComplete vd va s
  | .haltComplete vd => Sys2Proof.Machine.execHaltComplete vd s
  | .saveComplete vd => Sys2Proof.Machine.execSaveComplete vd s
  | .restoreComplete vd teams => Sys2Proof.Machine.execRestoreComplete vd teams s
  | .timeSliceExpiry launch lcore next => Sys2Proof.Machine.execTimeSliceExpiry launch lcore next s
  | .debuggerStop gid => Sys2Proof.Machine.execDebuggerStop gid s
  | .debuggerStep gid => Sys2Proof.Machine.execDebuggerStep gid s
  | .debuggerStepAll gid => Sys2Proof.Machine.execDebuggerStepAll gid s
  | .pwrlimWrite func value => Sys2Proof.Machine.execPwrlimWrite func value s
  | .heatlimWrite func die value => Sys2Proof.Machine.execHeatlimWrite func die value s
  | .healthWrite func value => Sys2Proof.Machine.execHealthWrite func value s
  | .attestation func nonce => Sys2Proof.Machine.execAttestation func nonce s
  | .firmwareUpdate func image signatures => Sys2Proof.Machine.execFirmwareUpdate func image signatures s
  | .wake func vd value => Sys2Proof.Machine.execWake func vd value s
  | .create func vd arg => Sys2Proof.Machine.execCreate func vd arg s
  | .destroy func vd arg => Sys2Proof.Machine.execDestroy func vd arg s
  | .grantq func vd arg => Sys2Proof.Machine.execGrantq func vd arg s
  | .revokeq func vd arg => Sys2Proof.Machine.execRevokeq func vd arg s
  | .grantcg func vd arg => Sys2Proof.Machine.execGrantcg func vd arg s
  | .revokecg func vd arg => Sys2Proof.Machine.execRevokecg func vd arg s
  | .preempt func vd arg => Sys2Proof.Machine.execPreempt func vd arg s
  | .resume func vd arg => Sys2Proof.Machine.execResume func vd arg s
  | .replay func vd arg => Sys2Proof.Machine.execReplay func vd arg s
  | .drain func vd arg => Sys2Proof.Machine.execDrain func vd arg s
  | .confirm func vd arg => Sys2Proof.Machine.execConfirm func vd arg s
  | .grantv func vd arg => Sys2Proof.Machine.execGrantv func vd arg s
  | .revokev func vd arg => Sys2Proof.Machine.execRevokev func vd arg s
  | .mapreply func vd value => Sys2Proof.Machine.execMapreply func vd value s
  | .ringIndexWrite func vd ring word value => Sys2Proof.Machine.execRingIndexWrite func vd ring word value s
  | .queueConfigWrite func queue word value => Sys2Proof.Machine.execQueueConfigWrite func queue word value s
  | .doorbell func queue offset size value => Sys2Proof.Machine.execDoorbell func queue offset size value s
  | .memoryWindowRead func offset size => Sys2Proof.Machine.execMemoryWindowRead func offset size s
  | .memoryWindowWrite func offset bytes => Sys2Proof.Machine.execMemoryWindowWrite func offset bytes s
  | .memoryWindowAtomic func offset size op operand swap => Sys2Proof.Machine.execMemoryWindowAtomic func offset size op operand swap s
  | .registerWrite func offset value => Sys2Proof.Machine.execRegisterWrite func offset value s
  | .functionLevelReset func => Sys2Proof.Machine.execFunctionLevelReset func s
  | .packageReset failedCores memoryKept => Sys2Proof.Machine.execPackageReset failedCores memoryKept s
  | .linkTraining ports domid devices => Sys2Proof.Machine.execLinkTraining ports domid devices s
  | .peerRequest req => Sys2Proof.Machine.execPeerRequest req s
  | .correctedError error => Sys2Proof.Machine.execCorrectedError error s
  | .uncorrectableError site => Sys2Proof.Machine.execUncorrectableError site s
  | .coreRetirement core => Sys2Proof.Machine.execCoreRetirement core s
  | .channelGroupWithdrawal group => Sys2Proof.Machine.execChannelGroupWithdrawal group s
  | .debuggerContinue gid => Sys2Proof.Machine.execDebuggerContinue gid s
  | .debuggerAttach attached => Sys2Proof.Machine.execDebuggerAttach attached s
  | .memoryWindowServiceTimeout index => Sys2Proof.Machine.execMemoryWindowServiceTimeout index s
  | .postQueuePartPerformed gid => Sys2Proof.Machine.execPostQueuePartPerformed gid s
  | .scatterRowWrite gid part => Sys2Proof.Machine.execScatterRowWrite gid part s
  | .unloggedMarkNotice notice => Sys2Proof.Machine.execUnloggedMarkNotice notice s

end Sys2Proof.Machine
end

