-- ==== Sys2Proof/Machine/Issue.lean ====
section
/-! DEFINITION. Whose turn it is, and what surrounds an instruction's meaning (03 R34-R38, 07 R69-R78, 23 R295, R296): a turn
of the agenda (log 2) or of the device's own choice, the frame and the decoded word, the interlocks and the stall counts
before the meaning, the counts, the scoreboard and the slots after it, and the waits that have ended. -/

namespace Sys2Proof.Machine

/-! Stall counts (R77, R78). -/

/-- R77: the producers that fall short for an instruction that reads these. -/
def Group.shortfalls (g : Group) (rs : List Res) : List Producer :=
  g.prods.filter fun p => p.dist < p.lat && p.mask ≠ 0 && rs.contains p.res

/-- The value a resource holds now. -/
def Group.valueOf (g : Group) (r : Res) : OldValue :=
  match r with
  | .v n => .vec (g.vreg n)
  | .s n => .word (g.sreg n)
  | .p n => .mask (g.preg n)
  | .q n => .mask (if g.qreg n then allLanes else 0)
  | .g k => .slot (g.gslot k)
  | .x _ => .mask 0

/-- R78, with the scoreboard off: what the instruction reads of a short producer's result: in each lane the value before it or
the result, by a fresh free value (log 6). -/
def Group.blur (g : Group) (n : Nat) (p : Producer) : Hazards :=
  let old := maskOf fun i => hasLane p.mask i && !Config.hazardNew (n + i)
  let h := g.hz
  match p.res, p.old with
  | .v r, .vec o =>
    let now := g.vsrc r
    { h with v := (r, lanes fun i => if hasLane old i then o.lane i else now.lane i) :: h.v }
  | .s r, .word o => { h with s := (r, lanes fun i => if hasLane old i then o else g.bsrc r i) :: h.s }
  | .p r, .mask o => { h with p := (r, (o &&& old) ||| (g.psrc r &&& ~~~old)) :: h.p }
  | .q r, .mask o => { h with q := (r, (o &&& old) ||| (g.qsrc r &&& ~~~old)) :: h.q }
  | .g k, .slot o => { h with g := (k, o, old) :: h.g }
  | _, _ => h

/-- What the instruction reads where these producers fall short. -/
def blurAll : List Producer → State → State
  | [], s => s
  | p :: ps, s => blurAll ps ((s.modGrp fun g => { g with hz := g.blur s.free p }).bumpFree 32)

/-- R77: the distances after an instruction of this count has issued; a producer whose result is readable is dropped. -/
def advance (c : Nat) (ps : List Producer) : List Producer :=
  (ps.map fun p => { p with dist := p.dist + 1 + c }).filter fun p => p.dist < p.lat

/-- R76, R77: the producers after an instruction of this shape has executed in the lanes `m` and written in the lanes `w`: what it
wrote replaces what earlier ones wrote there. `before` is the group as it was. -/
def produce (sh : Shape) (before : Group) (m w : Mask) (ps : List Producer) : List Producer :=
  let ws := sh.writes before
  let laneWise := fun (r : Res) => match r with | .v _ => true | .p _ => true | _ => false
  let kept := (ps.map fun p =>
    if ws.contains p.res then { p with mask := if laneWise p.res then minus p.mask w else 0 } else p).filter fun p => p.mask ≠ 0
  if sh.latency = 0 || m = 0 then kept
  else kept ++ ws.map fun r =>
    { res := r, dist := 0, lat := sh.latency, old := before.valueOf r, mask := if laneWise r then w else allLanes }

/-- R72: the clk that a count of 7 waits for the results in flight. -/
def settleClk (ps : List Producer) : Nat := ps.foldl (fun n p => max n (p.lat - p.dist)) 1

/-! What a turn does. -/

/-- A path that the debugger steps in the place of the current one (R337). -/
structure SteppedPath where
  pc : DWord
  exec : Mask
  above : List StackEntry
  below : List StackEntry
  retry : Option Retry
  deriving DecidableEq, Repr

/-- An instruction about to issue: the machine as it is before, its group having the turn, its stall count and shape, and the lanes
in which it executes and in which it writes, by the guard as it reads it (R78). -/
structure Issue where
  pre : State
  shape : Shape
  count : Nat
  lanes : Mask
  wrote : Mask
  path : Option SteppedPath

/-- What a turn comes to: a state reached without a meaning, an event, or an instruction of the group that has the turn. -/
inductive Choice where
  | settled (s : State)
  | event (i : Instr) (s : State)
  | issue (i : Instr) (n : Issue) (s : State)

/-- R73: a count of 7 is due: entry to a handler, or a group that could not even fetch. -/
def Group.clearCounts (g : Group) : Group := { g with prods := [], hz := {} }

/-- A clk in which the group that has the turn had an issue that came to no instruction: its fetch stalls or faults, or its word is
illegal. It uses the partition's clk and counts as having issued for its age (R36 speaks of issued instructions only: DEDUCED, log 17). -/
def State.tick (s : State) : State :=
  let g := s.grp
  ((s.modGrp fun g => { g with lastIssue := some s.clock }).useClk g.core g.part 0).closeClk

/-- The decoded instruction of the group that has the turn: its interlocks, and what it reads where counts fell short. -/
def State.prepare (s : State) (i : Instr) (count : Nat) (path : Option SteppedPath) : Choice :=
  match shapeOf i with
  | none => .settled s
  | some sh =>
    let s := s.modGrp fun g =>
      { g with
        long := isLong i, tookTrap := none
        exec := match g.retry with | some r => if isControl i then minus r.smask g.retired else g.exec | none => g.exec }
    let sh := s.sizedShape i sh
    let g := s.grp
    let rs := sh.reads g ++ sh.writes g
    if g.exec = 0 then .settled (if isLong i then s.completeL else s.complete).tick
    else if g.conflict rs then .settled (s.park (.interlock rs)).tick
    else
      let now := if g.checkmode then s else blurAll (g.shortfalls (sh.reads g)) s
      let m := sh.lanes now.grp
      .issue i { pre := s, shape := sh, count := count, lanes := m, wrote := wroteLanes i now.grp m, path := path } now

/-- The group that has the turn issues: a replay divergence traps (R336), the frame is fetched where it has none (R71), and
the slot's word is decoded (R94). -/
def State.issueHere (s : State) (path : Option SteppedPath) : Choice :=
  let g := s.grp
  let diverged := (g.launch.bind s.launch).bind fun x => x.diverged
  match (if g.level = .supervisor && g.diverging then none else diverged) with
  | some k => .settled (s.trap causeReplay k g.exec 0).tick
  | none =>
    let s := s.modGrp fun g => { g with tookTrap := none }
    let s := if s.grp.hasFrame then s else s.fetchFrame s.grp.id
    if s.grp.tookTrap.isSome || s.grp.wait.isSome || !s.grp.hasFrame then .settled s.tick
    else
      let sl := s.grp.slotAt
      let s := s.modGrp fun g => { g with long := longWord (sl.n = 7) sl.word }
      match decodeWord sl.u (sl.n = 7) sl.word sl.next with
      | .error _ => .settled (s.trapAll causeIllegal).tick
      | .ok i => s.prepare i sl.count path

/-- The group of this name issues, if it may. -/
def State.issueTurn (s : State) (gid : Nat) (stepped : Bool) : Choice :=
  match s.group gid with
  | none => .settled s
  | some g => if s.mayIssue g stepped then ((if stepped then s else s.noteTie g).focus gid).issueHere none else .settled s

/-- R337: the n-th entry of the group's stack, counted from its lowest, steps in the place of the current path, which waits
meanwhile above what lies below it. -/
def State.pathTurn (s : State) (gid n : Nat) : Choice :=
  if n = 0 then s.issueTurn gid true
  else match s.group gid with
  | none => .settled s
  | some g =>
    let k := g.stack.length - n
    match g.stack[k]? with
    | none => .settled s
    | some e =>
      if !s.mayIssue g true || !e.pending || n ≤ g.hidden || g.stack.length < n then .settled s
      else
        let path : SteppedPath :=
          { pc := g.pc, exec := g.exec, above := g.stack.take k, below := g.stack.drop (k + 1), retry := g.retry }
        let s := (s.focus gid).modGrp fun g =>
          { g with
            pc := e.pc, exec := e.mask, retry := none
            stack := { pending := true, pc := g.pc, mask := g.exec } :: (path.above ++ path.below) }
        s.issueHere (some path)

/-- R295: gauges grow, and clk are to pass: the device does meanwhile what is due (R43). -/
def State.elapse (s : State) (clk : Nat) (growth : List (Nat × Nat)) : State :=
  growth.foldl (fun s p =>
    let s := s.addGrowth p.1 p.2
    if p.1 < 2048 then { s with intervalGrowth := nset 0 s.intervalGrowth p.1 (nget 0 s.intervalGrowth p.1 + p.2) } else s)
    { s with agenda := if clk = 0 then s.agenda else .reach (s.clock + clk) :: s.agenda }

/-- Has the device something of its own to do in this clk? -/
def State.busyNow (s : State) : Bool :=
  (s.vdList.any s.commandDue) || s.nextOwn.isSome || s.nextTurn.isSome

/-- The clk at which something of the device's own is next due: a stall count, pipe or selection of an active group, a move of a
pending one (R35), an interlocked result (R75), the timer of a skein, or a power step (R20, R22). -/
def State.nextDue (s : State) : Option Nat :=
  let act := (s.groups.filter fun g => s.issuable g false).map fun g =>
    max g.stallUntil (max (nget 0 s.selFree (partKey g.core g.part)) (nget 0 s.pipeFree (pipeKey g.core g.part (s.needs g))))
  let moves := (s.groups.filter fun g => s.ready g && !g.active).flatMap fun g =>
    [nget 0 s.selFree (partKey g.core g.part), max g.readySince (nget 0 s.fullAt (partKey g.core g.part)) + 16, g.readySince + 64]
  let results := (s.groups.filter fun g => g.live && !g.saved).flatMap fun g => g.due.map fun d => d.2
  let timers := s.skeins.filterMap fun p => p.2.deadline
  let steps := s.refillDue :: (List.range 4).map s.thermalDue
  (leastKey (((act ++ moves ++ results ++ timers ++ steps).filter fun t => s.clock < t).map fun t => ([t], t))).map fun k => k.2

/-- With no turn named, the device does what R34 to R36 and R43 say: a skein's timer runs out, or its batch is placed; a power step
is made; every partition makes its move or issues what its pair's age matrix selects, clk by clk; else time passes to what is next due, to the end of
the µs of R296, or to the clk `last`. A command of the host that runs comes to its end first (R342). -/
def State.ownTurn (s : State) (last : Option Nat) : Choice :=
  match s.vdList.find? s.commandDue with
  | some v => .settled (s.endCommand v)
  | none =>
  match s.nextOwn with
  | some i => .event i s
  | none =>
  match s.nextTurn with
  | some (.issue gid) => s.issueTurn gid false
  | some (.fill core part) => .event (.activeSetFill core part) s
  | some (.rotate core part) => .event (.forcedRotation core part) s
  | none =>
    let due := max (s.clock + 1) (min (s.nextDue.getD (last.getD (s.clock + 1))) (s.intervalStart + clkPerUs))
    let due := match last with | some c => min due c | none => due
    match s.groups.find? fun g => s.issuable g false && g.stallUntil = due && s.clock < due with
    | some g => .event (.stallCountElapse g.id) s
    | none => .settled { s with clock := due }

/-- A turn of the agenda. -/
def State.takeTurn (s : State) (t : Turn) : Choice :=
  match t with
  | .event i => if (shapeOf i).isNone then .event i s else .settled s
  | .issue gid => s.issueTurn gid false
  | .elapse clk growth => .settled (s.elapse clk growth)
  | .reach clk => if clk ≤ s.clock then .settled s else ({ s with agenda := .reach clk :: s.agenda } : State).ownTurn (some clk)
  | .windowSize func log2 => .settled (s.setWindow func log2)
  | .pathStep gid n => s.pathTurn gid n

/-- The turn that comes next. -/
def State.choose (s : State) : Choice :=
  match s.agenda with
  | t :: rest => ({ s with agenda := rest } : State).takeTurn t
  | [] => s.ownTurn none

/-! After an instruction. -/

/-- Does the group wait to issue the same instruction again? -/
def Wait.reissues (w : Wait) : Bool :=
  match w with
  | .bar _ _ _ _ | .barwait _ _ _ | .phase _ _ _ | .drained _ _ | .filled _ _ | .npass | .latch _ _ _ _ | .reply _ _ _ _ _ _ _ | .map _ _ _ _ _
  | .halted => false
  | _ => true

/-- R73: did the instruction act as a count of 7: its own kind, a trap, or a path that changed by a JOIN, or by resume()? -/
def tookSeven (i : Instr) (before after : Group) : Bool :=
  actsAsSeven i || after.tookTrap.isSome ||
    match i with
    | .join => after.pc ≠ nextSlot before.pc || match before.stack with | e :: _ => e.pending && !before.stackEmpty | [] => false
    | .exit | .cdone => true
    | .brk _ => after.stack.length ≠ before.stack.length
    | _ => false

/-- R296: `n` issue slots are used on a gauge. -/
def State.useSlots (s : State) (key l n : Nat) : State :=
  { s with slots := match s.slots.find? fun e => e.1 = key && e.2.1 = l with
      | some _ => s.slots.map fun e => if e.1 = key && e.2.1 = l then (key, l, e.2.2 + n) else e
      | none => s.slots ++ [(key, l, n)] }

/-- R247, R272, R296 (the key of a quadrant's or half's gauge is its unit's number): an instruction of the group has issued: one slot,
and the first issue of its launch or combiner. -/
def State.noteIssue (s : State) (g : Group) : State :=
  let s := s.useSlots (s.unitOf g) (g.launch.getD 0) 1
  match g.kind with
  | .combiner k => s.modSkein k fun x => { x with firstIssue := if x.gid = g.id then x.firstIssue.or (some s.clock) else x.firstIssue }
  | _ => match g.launch with
    | some l => s.modLaunch l fun x => { x with startClk := x.startClk.or (some s.clock) }
    | none => s

/-- R31-R33: the instruction uses its partition's selection, with the extra clk of its operand reads, and its pipe or port. Those extra
clk do not keep a port that the partner shares (R37). -/
def State.occupy (s : State) (i : Instr) (sh : Shape) (g : Group) : State :=
  let extra := extraClk i sh g
  let s := s.useClk g.core g.part extra
  let pipe := pipeOf i sh
  if pipe = .slot then s
  else
    let key := pipeKey g.core g.part pipe
    let kept := if pipe.shared then pipeClk i sh else extra + pipeClk i sh
    { s with
      pipeFree := nset 0 s.pipeFree key (s.clock + kept), pipeTaken := nset 0 s.pipeTaken key (s.clock + 1) }

/-- The counts after the instruction (R72, R77): `s` is the state its meaning gave. One that waits to be issued again counts its
slot once (R296). What it writes and no access or engine owes is an interlocked result where R74 gives it no latency (R75). -/
def State.account (s : State) (i : Instr) (n : Issue) : State :=
  let g := n.pre.grp
  let s := s.occupy i n.shape g
  let s := if g.noted then s else s.noteIssue g
  match s.group g.id with
  | none => s.closeClk
  | some h =>
    if match h.wait with | some w => w.reissues | none => false then
      (s.modGroup g.id fun h => { h with hz := {}, tookTrap := none, noted := true }).closeClk
    else
      let trapped := h.tookTrap.isSome
      let c := if n.count = 7 || tookSeven i g h then 7 else n.count
      let due := if trapped || n.shape.lat ≠ 0 || n.lanes = 0 || h.wait.isSome then []
        else ((n.shape.writes g).filter fun r => !h.owed.contains r).map fun r => (r, s.clock + Config.resultClk s.clock)
      let ps := if trapped then [] else produce n.shape g n.lanes n.wrote h.prods
      let t := s.clock
      (s.modGroup g.id fun h =>
        { h with
          hz := {}, tookTrap := none, noted := false, lastIssue := some t, due := h.due ++ due
          prods := if c = 7 then [] else advance c ps
          stallUntil := if c = 7 then t + settleClk (if trapped then g.prods else ps) else t + 1 + c }).closeClk

/-- R337: the path that stepped goes back to its place, and the current one goes on; a path that trapped, waits or is over
stays as the meaning left it. -/
def State.putBack (s : State) (n : Issue) : State :=
  match n.path with
  | none => s
  | some p =>
    let g0 := n.pre.grp
    match s.group g0.id with
    | none => s
    | some g =>
      let more := g.stack.length - g0.stack.length
      if g.tookTrap.isSome || g.wait.isSome || !g.live then
        (if p.retry.isSome then n.pre.modGroup g0.id fun g =>
            { g with pc := p.pc, exec := p.exec, retry := p.retry
                     stack := p.above ++ { pending := true, pc := g0.pc, mask := g0.exec } :: p.below }
          else s)
      else if g.stack.length < g0.stack.length then s.modGroup g0.id fun g => { g with retry := p.retry }
      else s.modGroup g0.id fun g =>
        { g with
          pc := p.pc, exec := p.exec, retry := p.retry
          stack := p.above ++ { pending := true, pc := g.pc, mask := g.exec } :: (g.stack.take more ++ p.below) }

/-- R95: the trap conditions that come before the stall count. -/
def earlyCauses : List Nat := [causeIllegal, causeOperand, causeTarget, causeRange, causeWindow]

/-- R95, R125: do the fields of an instruction give its illegal-operand or register-range trap (R95 steps 3 and 4)? One that the values
of its registers, or what they name in memory, give is a trap of its execution, which its entry adds (R95 step 6): of LDTS (R208),
GATH and SCAT (R210), MCAST (R213), BAR and BARARR (R216), MGANG (R230), MMA (R66), MSTORE (R239), SEAL (R251), VDONE (R258), POST, ENQ
(R265), REPLY (R275), LWAIT and LDONE (R289) (DEDUCED, log 1). -/
def State.fieldTrap (s : State) (i : Instr) : Bool :=
  let g := s.grp
  let outside := fun (f : BitVec 7) (last : Nat) => f.toNat < 112 || last < f.toNat
  match i with
  | .ldts x d a _ _ => (g.memFault false (Space.global x.toNat) [rd d.toNat, (Space.global x.toNat).opnd a.toNat]).isSome
  | .gath d a _ => outside a 120 || outside d 126
  | .scat d a _ _ _ => outside a 120 || outside d 126
  | .mcast d a => outside a 122 || (g.vecFault [wr d.toNat]).isSome
  | .bar d a _ _ => (g.vecFault [wr d.toNat, rd a.toNat]).isSome
  | .bararr d a _ _ => (g.vecFault [wr d.toNat, rd a.toNat]).isSome
  | .mgang a => outside a 125
  | .mma d a _ t => g.gang.isNone || s.tileLimit g ≤ t.toNat || (g.vecFault [rd d.toNat, rdRun a.toNat 32]).isSome
  | .mstore a k _ c n t => outside a 124 || s.tileLimit g ≤ t.toNat || c = 3 || (k = 1 && !(n = 1 && c = 0))
  | .seal a => !s.isAnytime g || a.toNat ≤ 111
  | .vdone a m => outside a 125 || 126 < m.toNat
  | .post _ _ _ j => 125 < j.toNat
  | .enq _ _ e j => (if e = 1 then 124 else 125) < j.toNat
  | .reply d a => s.replyFields d a
  | .lwait a j => outside a 124 || 125 < j.toNat
  | .ldone a => outside a 124
  | _ => true

/-- R95: does a trap of the instruction come before the stall count? TRAMP's invalid entry is a trap of its execution (R92, R94). -/
def State.earlyTrap (s : State) (i : Instr) (cause : Nat) : Bool :=
  earlyCauses.contains cause && match i with
    | .tramp _ _ => cause ≠ causeIllegal
    | _ => cause = causeIllegal || s.fieldTrap i

/-- R78: with the scoreboard on, does the instruction take the stall-count trap in place of what its meaning did? Where the short source
is its own guard, act(i) is that of the producer's result (DEDUCED, log 1). -/
def State.stalls (s : State) (i : Instr) (n : Issue) : Bool :=
  let g := n.pre.grp
  g.checkmode && !(g.shortfalls (n.shape.reads g)).isEmpty && n.shape.lanes g ≠ 0 &&
    match (s.group g.id).bind fun h => h.tookTrap with
    | some c => !n.pre.earlyTrap i c
    | none => true

/-- What follows an instruction's meaning: the stall-count trap in its place (R78), the counts, and the debugger's path. -/
def State.afterIssue (s : State) (i : Instr) (n : Issue) : State :=
  let s := if s.stalls i n then n.pre.trap causeStall 0 (n.shape.lanes n.pre.grp) 0 else s
  match n.path with
  | none => s.account i n
  | some _ => ((s.putBack n).account i n).modGroup n.pre.grp.id Group.clearCounts

/-- R43: an event that comes at a later clk waits until the device has done what is due before it. -/
def State.defers (before : State) (s : State) : Bool :=
  before.clock < s.clock && (before.busyNow || match before.nextDue with | some c => c < s.clock | none => false)

/-- R296, R228: a gang operation that has entered occupies the array of its unit, from when the one before it is done, and counts
those clk in the intervals in which they lie. A move uses up its clk. -/
def State.afterEvent (before : State) (i : Instr) (s : State) : State :=
  if before.defers s then { before with agenda := .reach s.clock :: .event i :: before.agenda }
  else match i with
  | .gangOperationEntry id =>
    match before.gangOps.find? fun o => o.id = id with
    | some o =>
      if s.gangOps.any fun o => o.id = id then s
      else
        let n := o.members.length
        let l := (before.team o.team).bind fun t => t.launch
        let start := (s.arrays.filter fun a => a.1 = o.unit).foldl (fun n a => max n a.2.2.2) s.clock
        { s with arrays := s.arrays ++ [(o.unit, l.getD 0, start, start + n * (if field o.fmt.toNat 0 4 = 0 then 128 else 32))] }
    | none => s
  | .activeSetFill _ _ => s.closeClk
  | .forcedRotation _ _ => s.closeClk
  | _ => s

/-! Waits that have ended (R38). -/

/-- Is the wait of a group over, so that its instruction issues again? -/
def State.waitOver (s : State) (g : Group) (w : Wait) : Bool :=
  let page := fun (acc : Access) (va : DWord) => match s.translate g.agent g.vd acc va with | .stall => false | _ => true
  let both := fun (va : DWord) => page .load va && page .store va
  let team := s.team g.team
  match w with
  | .interlock rs => !g.conflict rs
  | .lines as => match team with | some t => as.all fun a => (t.line (a / 128)).state ≠ .empty | none => true
  | .pages vas => vas.all both
  | .fetch va => page .fetch va
  | .paths p => !g.held p
  | .remote _ _ _ _ => g.remote.isSome
  | .engines => g.queues.all fun q => q.2.isEmpty
  | .pendingFull obj => match team with | some t => bPending (t.obj obj) ≠ 0x7FFF | none => true
  | .batch n => !g.batchOpen n
  | .needle => s.holdsNeedle g
  | .pass => match g.launch.bind s.launch with | some x => x.passRes (g.passno + 1).toNat != .wait | none => true
  | .version desc demand =>
    let o := s.devRead g.vd desc 64
    versionReady o (s.devRead g.vd (vHdraddr o) 64) demand
  | .token => match g.launch.bind s.launch with | some x => x.token = (g.teamid, g.groupid) | none => true
  | .confirm => !s.confirmWaits g.vd g.drains
  | .layer va L _ pinned =>
    !pinned && match s.ctxIndex g.vd va with
      | some _ =>
        let e := s.layerEntry g.vd (s.devRead g.vd va 64) L
        lState e = 4 || (lState e = 2 && lPin e < 0xFFFF)
      | none => true
  | _ => false

/-- The continuation of a wait that goes on elsewhere, once its condition holds (R218, R223). PHASE is read as the group's own load
(R182, R185). -/
def State.waitNext (s : State) (g : Group) (w : Wait) : Option DWord :=
  let team := s.team g.team
  match w with
  | .phase a tok next => match team with | some t => if s.phaseOf g t a ≠ tok then some next else none | none => none
  | .drained q next => if (g.queue q).isEmpty then some next else none
  | .filled a next => match team with | some t => if t.worst a 1 ≠ .empty then some next else none | none => none
  | _ => none

/-- A group whose wait has ended is ready. -/
def State.wakeGroup (s : State) (g : Group) : Group :=
  match g.wait with
  | none => g
  | some w =>
    if g.saved then g
    else match s.waitNext g w with
      | some next => g.finishAt next
      | none => if s.waitOver g w then { g with wait := none } else g

/-- R249: groups that wait in PASS open the pass, where it can be opened. -/
def State.openWaiting (s : State) : State :=
  (((s.groups.filter fun g => g.wait == some .pass && !g.saved).filterMap fun g => g.launch).eraseDups).foldl State.openPass s

/-- A group of the pending set that waited, or was active, is ready from now on (R35). -/
def State.stampReady (old s : State) : State :=
  s.modGroups (fun g => g.id ≠ 0 && g.wait.isNone && !g.active &&
      match old.group g.id with | some h => h.wait.isSome || h.active | none => false)
    fun g => { g with readySince := s.clock }

/-- A combiner or node group that has ended, with nothing outstanding. -/
def Group.gone (g : Group) : Bool :=
  g.id ≠ 0 && !g.live && g.kind ≠ .launch && (g.queues.all fun q => q.2.isEmpty) && g.storeQ.isEmpty && g.pend.isEmpty

/-- Combiner and node groups that have ended, with nothing outstanding, leave the machine; the pins that a node group still holds
are released then, after its accesses (R291). -/
def State.sweep (s : State) : State :=
  ((s.groups.filter Group.gone).foldl (fun s g => s.releasePins g.vd g.pins) s).dropGroups Group.gone

/-- R296: a µs ends: each gauge's growth is divided among the launches by the slots they used on it. -/
def State.closeInterval (s : State) : State :=
  if s.clock < s.intervalStart + clkPerUs then s
  else
    let last := s.intervalStart + clkPerUs
    let s := s.arrays.foldl (fun s a => s.useSlots a.1 a.2.1 (min a.2.2.2 last - max a.2.2.1 s.intervalStart)) s
    let share := fun (s : State) (e : Nat × Nat × Nat) =>
      let total := (s.slots.filter fun f => f.1 = e.1).foldl (fun n f => n + f.2.2) 0
      let growth := nget 0 s.intervalGrowth e.1
      if e.2.1 = 0 || growth = 0 then s
      else s.modLaunch e.2.1 fun x => { x with energy := x.energy.add { num := growth * e.2.2, den := max 1 total } }
    { s.slots.foldl share s with
      slots := [], intervalGrowth := [], intervalStart := s.clock / clkPerUs * clkPerUs
      arrays := s.arrays.filter fun a => s.clock < a.2.2.2 }

/-- R73: entry to a handler acts as a count of 7 where no instruction of the group issued: the handler's first instruction waits for
the results in flight. -/
def State.settleTraps (old s : State) : State :=
  s.modGroups (fun g => g.id ≠ 0 && g.tookTrap.isSome) fun g =>
    { g with
      tookTrap := none
      stallUntil := match old.group g.id with
        | some h => if h.prods.isEmpty then g.stallUntil else max g.stallUntil (s.clock + settleClk h.prods)
        | none => g.stallUntil }

/-- What the device does of itself before the next turn: records that waited are admitted and skeins turn, decisions the log
has space for are made, host and peer requests are served, answered groups go on, waits that have ended end. -/
def State.settleAll (old s : State) : State :=
  let s := (State.settleTraps old s).writeDue.admitAll.skTurnAll
  let s := s.vdList.foldl (fun s v => s.flushLog v ((s.vd v).heldLog.length)) s
  let s := s.serveWindows.servePeers
  let ids := (s.groups.filter fun g => g.wait.isSome).map fun g => g.id
  let s := ids.foldl (fun s g => ((s.finishReply g).finishMap g).finishLayer g) s
  let s := s.openWaiting
  let s := { s with grp := s.wakeGroup s.grp, others := s.others.map s.wakeGroup }
  let s := (s.launches.map fun x => x.id).foldl State.replayCut s.flushHeaders
  ((State.stampReady old s.interlockAll).sweep.noteIdle).noteFull.closeInterval

/-- The end of a step: an engine access to an address that does not exist stops the machine (R165); else the device settles. -/
def State.finish (old s : State) : Out :=
  match s.busError with
  | some a => .fault (.unimplementedAddress a)
  | none => .next (State.settleAll old s)

end Sys2Proof.Machine
end

