-- ==== Sys2Proof/Machine/Step.lean ====
section
/-! DEFINITION. One step of the machine: the next turn, the meaning it runs, and what the device then does of itself. -/

namespace Sys2Proof.Machine

/-- One step. -/
def step (s : State) : Host.Outcome State Fault Refusal :=
  match s.choose with
  | .settled t => State.finish s t
  | .event i t => match exec i t with
    | .next u => State.finish s (State.afterEvent t i u)
    | .fault f => .fault f
    | .refused r => .refused r
  | .issue i n t => match exec i t with
    | .next u => State.finish s (u.afterIssue i n)
    | .fault f => .fault f
    | .refused r => .refused r

/-- R171: the tables through which `withFetchWord` maps the lowest GiB of device 0 onto itself, readable, writable and
executable: a root at 0x0, one table at 0x10000 and a leaf at 0x20000. -/
def fetchTables (m : NMap Byte) : NMap Byte :=
  putBytes (putBytes (putBytes m 0 (toBytes 8 0x10001)) 0x10000 (toBytes 8 0x20001)) 0x20000 (toBytes 8 0x3D)

/-- The machine with the instruction of `w` in slot 1 of a code frame at 0x30000 (a header of zeros; bits 63 to 32 in slot 2,
an L-form's literal), and a group of device 0 that is about to issue it (log 12). -/
def State.withFetchWord (s : State) (nbits w : Nat) : State :=
  let gid := s.nextGid
  let g : Group := { id := gid, live := true, active := true, vd := 0, exec := allLanes, pc := 0x30004 }
  let mem := putBytes (fetchTables s.mem) 0x30000 (toBytes 32 ((w % 2 ^ max nbits 32 % 2 ^ 64) * 2 ^ 32))
  { s.modVd 0 fun d => { d with ptroot := 0 } with
    mem := mem, grp := g, others := if s.grp.id = 0 then s.others else s.grp :: s.others, nextGid := gid + 1
    agenda := [.issue gid] }

end Sys2Proof.Machine
end

