-- ==== Sys2Proof/Safety.lean ====
section
/-! DEFINITION. The terms the claims use: what a sound state and a run are, and the manual's tables of the compute words
(11 R127-R142), one row per word, as the manual gives the operation and not as the machine computes it. -/

namespace Sys2Proof.Machine

/-! Sound states and runs. -/

/-- The group's reconvergence stack keeps R54's limit. -/
def Group.stackBounded (g : Group) : Bool := g.stack.length ≤ stackLimit

/-- Memory has its canonical form, and no group's stack holds more than 24 entries. -/
def State.sound (s : State) : Bool := Memory.wf s.mem && s.groups.all Group.stackBounded

/-- States that steps lead to. -/
inductive Reaches : State → State → Prop
  | refl (s : State) : Reaches s s
  | step {s t u : State} (h : Reaches s t) (k : Machine.step t = .next u) : Reaches s u

/-! The manual's operations on words. -/

/-- A field of b that gives a position and a width (R128): p = b[7:0] and w = min(b[15:8], 32). -/
def fieldOf (b : Word) : Nat × Nat := (b.toNat % 256, min (b.toNat / 256 % 256) 32)

/-- R128: ⌊x ÷ 2^p⌋ mod 2^w. -/
def extracted (x : Int) (b : Word) : Nat := (x / 2 ^ (fieldOf b).1 % 2 ^ (fieldOf b).2).toNat

/-- R130: BFI. -/
def inserted (a b d : Word) : Word :=
  let p := (fieldOf b).1
  let w := (fieldOf b).2
  if w = 0 ∨ 32 ≤ p then d
  else
    let m := BitVec.ofNat 32 ((2 ^ min w (32 - p) - 1) * 2 ^ p)
    (d &&& ~~~m) ||| (BitVec.ofNat 32 (a.toNat * 2 ^ p) &&& m)

/-- R132: bits [w·j + w − 1 : w·j], extended. -/
def packedElement (isUnsigned : Bool) (w j : Nat) (x : Word) : Int :=
  if isUnsigned then (x.extractLsb' (w * j) w).toNat else (x.extractLsb' (w * j) w).toInt

/-- R132: the exact sum of the products. -/
def packedDot (n w : Nat) (m : BitVec 2) (a b : Word) : Int :=
  ((List.range n).map fun j => packedElement (m.getLsbD 1) w j a * packedElement (m.getLsbD 0) w j b).sum

/-! Rows. -/

/-- A word that writes one register from registers: its U bit, guard slot (0: none), destination, sources, operation (its
argument gives the value of source 0, 1, 2), and whether it is an L-form. -/
structure Compute where
  u : Bool
  guard : Nat
  d : Nat
  srcs : List Nat
  op : (Nat → Word) → Word
  long : Bool

/-- A row with two sources. -/
def row2 (u : Bool) (g : BitVec 3) (d a b : BitVec 7) (op : Word → Word → Word) : Option Compute :=
  some { u := u, guard := g.toNat, d := d.toNat, srcs := [a.toNat, b.toNat], op := fun r => op (r 0) (r 1), long := false }
/-- A row with one source. -/
def row1 (u : Bool) (g : BitVec 3) (d a : BitVec 7) (op : Word → Word) : Option Compute :=
  some { u := u, guard := g.toNat, d := d.toNat, srcs := [a.toNat], op := fun r => op (r 0), long := false }
/-- An accumulating row: a, b and the old d. -/
def row3 (u : Bool) (g : BitVec 2) (d a b : BitVec 7) (op : Word → Word → Word → Word) : Option Compute :=
  some { u := u, guard := g.toNat, d := d.toNat, srcs := [a.toNat, b.toNat, d.toNat]
         op := fun r => op (r 0) (r 1) (r 2), long := false }
/-- An L-form's row: a and the literal. -/
def rowL (u : Bool) (d a : BitVec 7) (op : Word → Word) : Option Compute :=
  some { u := u, guard := 0, d := d.toNat, srcs := [a.toNat], op := fun r => op (r 0), long := true }

/-- R127-R136, R141, R142: the compute words. -/
def computeOf : Instr → Option Compute
  | .mov u g d a => row1 u g d a fun x => x
  | .iadd u g d a b => row2 u g d a b fun x y => x + y
  | .isub u g d a b => row2 u g d a b fun x y => x - y
  | .imullo u g d a b => row2 u g d a b fun x y => x * y
  | .imulhi u g d a b => row2 u g d a b fun x y => BitVec.ofInt 32 (x.toInt * y.toInt / 2 ^ 32)
  | .imulhiu u g d a b => row2 u g d a b fun x y => BitVec.ofNat 32 (x.toNat * y.toNat / 2 ^ 32)
  | .imin u g d a b => row2 u g d a b fun x y => BitVec.ofInt 32 (min x.toInt y.toInt)
  | .imax u g d a b => row2 u g d a b fun x y => BitVec.ofInt 32 (max x.toInt y.toInt)
  | .umin u g d a b => row2 u g d a b fun x y => BitVec.ofNat 32 (min x.toNat y.toNat)
  | .umax u g d a b => row2 u g d a b fun x y => BitVec.ofNat 32 (max x.toNat y.toNat)
  | .and u g d a b => row2 u g d a b fun x y => x &&& y
  | .or u g d a b => row2 u g d a b fun x y => x ||| y
  | .xor u g d a b => row2 u g d a b fun x y => x ^^^ y
  | .andn u g d a b => row2 u g d a b fun x y => x &&& ~~~y
  | .shl u g d a b => row2 u g d a b fun x y => BitVec.ofNat 32 (x.toNat * 2 ^ y.toNat)
  | .shr u g d a b => row2 u g d a b fun x y => BitVec.ofNat 32 (x.toNat / 2 ^ y.toNat)
  | .sar u g d a b => row2 u g d a b fun x y => BitVec.ofInt 32 (x.toInt / 2 ^ y.toNat)
  | .bfeu u g d a b => row2 u g d a b fun x y => BitVec.ofNat 32 (extracted x.toNat y)
  | .bfes u g d a b => row2 u g d a b fun x y =>
      if (fieldOf y).2 = 0 then 0
      else BitVec.ofInt 32 ((BitVec.ofNat (fieldOf y).2 (extracted x.toInt y)).toInt)
  | .popc u g d a => row1 u g d a fun x => BitVec.ofNat 32 ((List.range 32).countP fun j => x.getLsbD j)
  | .clz u g d a => row1 u g d a fun x =>
      BitVec.ofNat 32 ((List.range 32).takeWhile fun j => !x.getLsbD (31 - j)).length
  | .brev u g d a => row1 u g d a BitVec.reverse
  | .fadd u g d a b => row2 u g d a b (fadd32 .rn)
  | .fsub u g d a b => row2 u g d a b (fsub32 .rn)
  | .fmul u g d a b => row2 u g d a b (fmul32 .rn)
  | .fmin u g d a b => row2 u g d a b (fpick32 false)
  | .fmax u g d a b => row2 u g d a b (fpick32 true)
  | .hadd2 u g d a b => row2 u g d a b (packed2 (fp16.addBits .rn))
  | .hmul2 u g d a b => row2 u g d a b (packed2 (fp16.mulBits .rn))
  | .badd2 u g d a b => row2 u g d a b (packed2 (bf16.addBits .rn))
  | .bmul2 u g d a b => row2 u g d a b (packed2 (bf16.mulBits .rn))
  | .frcp u g d a => row1 u g d a (special frcpBits)
  | .frsq u g d a => row1 u g d a (special frsqBits)
  | .fex2 u g d a => row1 u g d a (special fex2Bits)
  | .flg2 u g d a => row1 u g d a (special flg2Bits)
  | .fsin u g d a => row1 u g d a (special fsinBits)
  | .fcos u g d a => row1 u g d a (special fcosBits)
  | .iaddi u g d a i => row1 u g d a fun x => x + i.signExtend 32
  | .andi u g d a i => row1 u g d a fun x => x &&& i.setWidth 32
  | .ori u g d a i => row1 u g d a fun x => x ||| i.setWidth 32
  | .xori u g d a i => row1 u g d a fun x => x ^^^ i.setWidth 32
  | .shli u g d a i => row1 u g d a fun x => BitVec.ofNat 32 (x.toNat * 2 ^ i.toNat)
  | .shri u g d a i => row1 u g d a fun x => BitVec.ofNat 32 (x.toNat / 2 ^ i.toNat)
  | .sari u g d a i => row1 u g d a fun x => BitVec.ofInt 32 (x.toInt / 2 ^ i.toNat)
  | .imuli u g d a i => row1 u g d a fun x => x * i.signExtend 32
  | .movi u g d i =>
    some { u := u, guard := g.toNat, d := d.toNat, srcs := [], op := fun _ => i.signExtend 32, long := false }
  | .cvt u g d a i => row1 u g d a (cvt32 (i.toNat % 32) (i.toNat / 32))
  | .imad u g d a b => row3 u g d a b fun x y z => x * y + z
  | .bfi u g d a b => row3 u g d a b inserted
  | .iadd3 u g d a b => row3 u g d a b fun x y z => x + y + z
  | .isad u g d a b => row3 u g d a b fun x y z => BitVec.ofInt 32 ((x.toInt - y.toInt).natAbs + z.toNat)
  | .iaddminSs u g d a b => row3 u g d a b fun x y z =>
      BitVec.ofInt 32 (min (max (-(2 ^ 31)) (min (x.toInt + y.toInt) (2 ^ 31 - 1))) z.toInt)
  | .iaddminNn u g d a b => row3 u g d a b fun x y z =>
      BitVec.ofNat 32 (min (min (x.toNat + y.toNat) (2 ^ 32 - 1)) z.toNat)
  | .dp4 u m g d a b => row3 u g d a b fun x y z => z + BitVec.ofInt 32 (packedDot 4 8 m x y)
  | .dp8 u m g d a b => row3 u g d a b fun x y z => z + BitVec.ofInt 32 (packedDot 8 4 m x y)
  | .ffma u m g d a b => row3 u g d a b (ffma32 (modeOf m) false)
  | .ffmn u m g d a b => row3 u g d a b (ffma32 (modeOf m) true)
  | .hfma2 u m g d a b => row3 u g d a b (packed3 (fp16.fmaBits (modeOf m) false))
  | .bfma2 u m g d a b => row3 u g d a b (packed3 (bf16.fmaBits (modeOf m) false))
  | .movl u d lit =>
    some { u := u, guard := 0, d := d.toNat, srcs := [], op := fun _ => lit, long := true }
  | .iaddl u d a lit => rowL u d a fun x => x + lit
  | .andl u d a lit => rowL u d a fun x => x &&& lit
  | .orl u d a lit => rowL u d a fun x => x ||| lit
  | .xorl u d a lit => rowL u d a fun x => x ^^^ lit
  | .imull u d a lit => rowL u d a fun x => x * lit
  | .faddl u d a lit => rowL u d a fun x => fadd32 .rn x lit
  | .fmull u d a lit => rowL u d a fun x => fmul32 .rn x lit
  | .ffmal u d a lit =>
    some { u := u, guard := 0, d := d.toNat, srcs := [a.toNat, d.toNat], op := fun r => ffma32 .rn false (r 0) lit (r 1)
           long := true }
  | _ => none

/-- A compare (R137): its predicate d is true where `holds` is of its sources. -/
structure Compare where
  u : Bool
  guard : Nat
  d : Nat
  srcs : List Nat
  holds : (Nat → Word) → Bool
  long : Bool

/-- A compare of two registers. -/
def cmpRow (u : Bool) (g : BitVec 3) (d a b : BitVec 7) (holds : Word → Word → Bool) : Option Compare :=
  some { u := u, guard := g.toNat, d := d.toNat, srcs := [a.toNat, b.toNat], holds := fun r => holds (r 0) (r 1), long := false }
/-- A compare of a register with a constant of the word. -/
def cmpRow1 (u : Bool) (g d a : Nat) (long : Bool) (holds : Word → Bool) : Option Compare :=
  some { u := u, guard := g, d := d, srcs := [a], holds := fun r => holds (r 0), long := long }

/-- The order of two FP32 words: none where either is NaN; −0 equals +0. -/
def fpOrder (x y : Word) : Option Int := (fp32.decode x.toNat).cmp (fp32.decode y.toNat)

/-- R137: the compares. -/
def compareOf : Instr → Option Compare
  | .icmpeq u g d a b => cmpRow u g d a b fun x y => decide (x = y)
  | .icmpne u g d a b => cmpRow u g d a b fun x y => decide (x ≠ y)
  | .icmplt u g d a b => cmpRow u g d a b fun x y => decide (x.toInt < y.toInt)
  | .icmple u g d a b => cmpRow u g d a b fun x y => decide (x.toInt ≤ y.toInt)
  | .ucmplt u g d a b => cmpRow u g d a b fun x y => decide (x.toNat < y.toNat)
  | .ucmple u g d a b => cmpRow u g d a b fun x y => decide (x.toNat ≤ y.toNat)
  | .fcmpeq u g d a b => cmpRow u g d a b fun x y => decide (fpOrder x y = some 0)
  | .fcmpne u g d a b => cmpRow u g d a b fun x y => decide (fpOrder x y ≠ some 0)
  | .fcmplt u g d a b => cmpRow u g d a b fun x y => decide (fpOrder x y = some (-1))
  | .fcmple u g d a b => cmpRow u g d a b fun x y => decide (fpOrder x y = some (-1) ∨ fpOrder x y = some 0)
  | .fcmpun u g d a b => cmpRow u g d a b fun x y => isNan32 x || isNan32 y
  | .icmpeqi u g d a i => cmpRow1 u g.toNat d.toNat a.toNat false fun x => decide (x.toInt = i.toInt)
  | .icmplti u g d a i => cmpRow1 u g.toNat d.toNat a.toNat false fun x => decide (x.toInt < i.toInt)
  | .icmpgti u g d a i => cmpRow1 u g.toNat d.toNat a.toNat false fun x => decide (i.toInt < x.toInt)
  | .icmpeql u d a lit => cmpRow1 u 0 d.toNat a.toNat true fun x => decide (x = lit)
  | .icmpltl u d a lit => cmpRow1 u 0 d.toNat a.toNat true fun x => decide (x.toInt < lit.toInt)
  | .fcmpltl u d a lit => cmpRow1 u 0 d.toNat a.toNat true fun x => decide (fpOrder x lit = some (-1))
  | _ => none

/-- A predicate instruction (R138). -/
structure Logic where
  u : Bool
  guard : Nat
  d : Nat
  a : Nat
  b : Nat
  op : Bool → Bool → Bool

/-- R138: the predicate instructions. -/
def logicOf : Instr → Option Logic
  | .pand u g d a b => some ⟨u, g.toNat, d.toNat, a.toNat, b.toNat, fun x y => x && y⟩
  | .por u g d a b => some ⟨u, g.toNat, d.toNat, a.toNat, b.toNat, fun x y => x || y⟩
  | .pxor u g d a b => some ⟨u, g.toNat, d.toNat, a.toNat, b.toNat, fun x y => x ^^ y⟩
  | .pandn u g d a b => some ⟨u, g.toNat, d.toNat, a.toNat, b.toNat, fun x y => x && !y⟩
  | _ => none

/-- A shuffle or lane shift (R144, R145): its guard, destination, source and other register source, a count field that must
name a broadcast, and the lane it reads for lane i, given the word of b in that lane; none where there is no such lane. -/
structure Exchange where
  guard : Nat
  d : Nat
  a : Nat
  other : Option Nat
  count : Option Nat
  source : Word → Nat → Option Nat

/-- R144, R145: the shuffles and lane shifts. -/
def exchangeOf : Instr → Option Exchange
  | .shflidx g d a b => some ⟨g.toNat, d.toNat, a.toNat, some b.toNat, none, fun x _ => some (x.toNat % 32)⟩
  | .shflxor g d a b => some ⟨g.toNat, d.toNat, a.toNat, none, some b.toNat, fun x i => some (i ^^^ x.toNat % 32)⟩
  | .shflxori g d a n => some ⟨g.toNat, d.toNat, a.toNat, none, none, fun _ i => some (i ^^^ n.toNat)⟩
  | .lshup g d a b => some ⟨g.toNat, d.toNat, a.toNat, none, some b.toNat, fun x i =>
      if x.toNat ≤ i then some (i - x.toNat) else none⟩
  | .lshdn g d a b => some ⟨g.toNat, d.toNat, a.toNat, none, some b.toNat, fun x i =>
      if i + x.toNat < 32 then some (i + x.toNat) else none⟩
  | .lshupi g d a n => some ⟨g.toNat, d.toNat, a.toNat, none, none, fun _ i =>
      if n.toNat ≤ i then some (i - n.toNat) else none⟩
  | .lshdni g d a n => some ⟨g.toNat, d.toNat, a.toNat, none, none, fun _ i =>
      if i + n.toNat < 32 then some (i + n.toNat) else none⟩
  | _ => none

/-! Operands. -/

/-- Every field of these that names a vector register lies within the group's allocation (05 R46). -/
def Group.allocated (g : Group) (fs : List Nat) : Prop := ∀ f ∈ fs, f ≤ 111 → 16 * g.winbase.toNat + f < g.alloc

/-- A single destination a vector instruction may name: a register, or 127, which discards (05 R46). -/
def goodDest (d : Nat) : Prop := d ≤ 111 ∨ d = 127

/-! Floating-point values as numbers. -/

/-- The number a finite value is. -/
def FVal.value : FVal → Rat
  | .fin neg m e => (if neg then -1 else 1) * (m : Rat) * (2 : Rat) ^ e
  | _ => 0

/-- Is the value finite? -/
def FVal.finite : FVal → Bool
  | .fin .. => true
  | _ => false

/-- Half a unit beyond the greatest finite magnitude: from there on RN overflows. -/
def Fmt.limit (f : Fmt) : Rat := ((2 ^ (f.fbits + 2) - 1 : Nat) : Rat) * (2 : Rat) ^ (f.qmin + (2 ^ f.ebits : Nat) - 4)

/-! Memory words. -/

/-- A load or store (R198-R201): its form, space, data and address fields, offset and size in bytes, sign extension, and
whether it is LDA or STREL. -/
structure MemForm where
  u : Bool
  space : Space
  d : Nat
  a : Nat
  off : Nat
  size : Nat
  signExt : Bool
  ordered : Bool

/-- R198-R201: the loads, for the size codes that are legal. -/
def loadOf : Instr → Option MemForm
  | .ld u x d a z c => if z.toNat ≤ 4 then
      some ⟨u, .global x.toNat, d.toNat, a.toNat, c.toNat * 2 ^ z.toNat, 2 ^ z.toNat, false, false⟩ else none
  | .lds u x d a z c => some ⟨u, .global x.toNat, d.toNat, a.toNat, c.toNat * 2 ^ z.toNat, 2 ^ z.toNat, true, false⟩
  | .sld u d a z c => if z.toNat ≤ 4 then
      some ⟨u, .scratch, d.toNat, a.toNat, c.toNat * 2 ^ z.toNat, 2 ^ z.toNat, false, false⟩ else none
  | .slds u d a z c => some ⟨u, .scratch, d.toNat, a.toNat, c.toNat * 2 ^ z.toNat, 2 ^ z.toNat, true, false⟩
  | .lda u x d a z _ => if z.toNat ≤ 4 then
      some ⟨u, .global x.toNat, d.toNat, a.toNat, 0, 2 ^ z.toNat, false, true⟩ else none
  | _ => none

/-- R198-R201: the stores, for the size codes that are legal. -/
def storeOf : Instr → Option MemForm
  | .st u x d a z c => if z.toNat ≤ 4 then
      some ⟨u, .global x.toNat, d.toNat, a.toNat, c.toNat * 2 ^ z.toNat, 2 ^ z.toNat, false, false⟩ else none
  | .sst u d a z c => if z.toNat ≤ 4 then
      some ⟨u, .scratch, d.toNat, a.toNat, c.toNat * 2 ^ z.toNat, 2 ^ z.toNat, false, false⟩ else none
  | .strel u x d a z _ => if z.toNat ≤ 4 then
      some ⟨u, .global x.toNat, d.toNat, a.toNat, 0, 2 ^ z.toNat, false, true⟩ else none
  | _ => none

/-- An atomic (R203): whether it returns the old value, its space, fields, size in bytes and operation. -/
structure AtomicForm where
  returns : Bool
  space : Space
  d : Nat
  a : Nat
  size : Nat
  op : Nat

/-- R203: the atomics. -/
def atomicOf : Instr → Option AtomicForm
  | .atom x d a z o _ => some ⟨true, .global x.toNat, d.toNat, a.toNat, 4 * 2 ^ z.toNat, o.toNat⟩
  | .red x d a z o _ => some ⟨false, .global x.toNat, d.toNat, a.toNat, 4 * 2 ^ z.toNat, o.toNat⟩
  | .satom d a z o => some ⟨true, .scratch, d.toNat, a.toNat, 4 * 2 ^ z.toNat, o.toNat⟩
  | _ => none

/-- R203: what an atomic writes of w bits, from the word in memory, the operand, and CAS's new value. -/
def atomicResult (op w old x new : Nat) : Nat :=
  let s := fun (n : Nat) => (BitVec.ofNat w n).toInt
  if op = 0 then (old + x) % 2 ^ w
  else if op = 1 then (if s x < s old then x else old)
  else if op = 2 then (if s old < s x then x else old)
  else if op = 3 then old &&& x
  else if op = 4 then old ||| x
  else if op = 5 then old ^^^ x
  else if op = 6 then x
  else if op = 7 then (if old = x then new else old)
  else (if old ≥ x then 0 else old + 1)

/-- R176: the trap that lanes raise together: cause, detail and address of the first lane among those whose condition stands first
in the order. -/
def LaneList.trapsFirst (ls : LaneList) (cause detail : Nat) (addr : DWord) : Prop :=
  ∃ (before after : LaneList) (lane rank : Nat), ls = before ++ (lane, .trap rank cause detail addr) :: after ∧
    (∀ x ∈ before, ∀ r c d a, x.2 = .trap r c d a → rank < r) ∧ (∀ x ∈ after, ∀ r c d a, x.2 = .trap r c d a → rank ≤ r)

/-- R176: the mask holds exactly the lanes that meet a condition, a wait counting as one. -/
def LaneList.inCondition (ls : LaneList) (m : Mask) : Prop :=
  ∀ j < 32, hasLane m j = ls.any fun x => x.1 = j && match x.2 with | .trap .. | .waitLine _ | .waitPage _ => true | _ => false

/-- Is some lane's access at the host or a peer? -/
def LaneList.leaves (ls : LaneList) : Prop := ∃ x ∈ ls, ∃ va loc, x.2 = .remote va loc

/-- Does some lane meet a trap condition? -/
def LaneList.traps (ls : LaneList) : Prop := ∃ x ∈ ls, ∃ r c d a, x.2 = .trap r c d a

/-- The lanes that meet nothing, with their addresses and places. -/
def LaneList.clear (ls : LaneList) : List (Nat × DWord × MemLoc) :=
  ls.filterMap fun x => match x.2 with | .ok va loc => some (x.1, va, loc) | _ => none

/-- The address a lane of an access forms (R175): in scratchpad the register plus the offset; without a translation register
the pair plus the offset; else the register and the offset beyond VBASE. -/
def Group.addressOf (g : Group) (u : Bool) (sp : Space) (a off lane : Nat) : DWord :=
  let r := fun n => if u then g.uni (a + n) else g.lane (a + n) lane
  match sp with
  | .scratch => BitVec.ofNat 64 ((r 0).toNat + off)
  | .global 0 => (r 1 ++ r 0 : DWord) + BitVec.ofNat 64 off
  | .global x => (g.xreg x).vbase + BitVec.ofNat 64 ((r 0).toNat + off)

end Sys2Proof.Machine
end

