-- ==== Sys2Proof/Certificates/Slice0/Obligations.lean ====
section
/-! DEFINITION. The statements for the provers. Each docstring says which rules of spec/ the statement rests on. -/

open Sys2Proof Sys2Proof.Machine

/-! Decoding and the step. -/

/-- 07 R88-R93: the words the manual works out by hand decode to the instructions it says they are: IADD v3, v1, s2; FFMA v9,
v4, v14; LD.B4 v20, x1+v2+0; (g2) BRA +5 and (g2) BRA −3; PROBE 0x12; (g1) TRAMP 3; and MOVL v5, 0x3F80_0000 with its literal,
which is no instruction in slot 7. -/
def Obligations.DecodesTheSpecsWords : Prop :=
  decodeWord false false 0x0200C0F2#32 0 = .ok (.iadd false 0 3 1 114) ∧
  decodeWord false false 0x8002420E#32 0 = .ok (.ffma false 0 0 9 4 14) ∧
  decodeWord false false 0xA04A0240#32 0 = .ok (.ld false 1 20 2 2 0) ∧
  decodeWord false false 0xE1000005#32 0 = .ok (.bra false 2 5) ∧
  decodeWord false false 0xE17FFFFD#32 0 = .ok (.bra false 2 0x7FFFFD) ∧
  decodeWord false false 0xF8000012#32 0 = .ok (.probe 0x12) ∧
  decodeWord false false 0xF4800003#32 0 = .ok (.tramp 1 3) ∧
  decodeWord false false 0xF0028000#32 0x3F800000#32 = .ok (.movl false 5 0x3F800000) ∧
  decodeWord false true 0xF0028000#32 0x3F800000#32 = .error .lFormInSlot7

/-- 07 R80-R88: every well-formed instruction but for the events has words, one or, for an L-form, two, and the decoder reads
them back as that instruction with every operand, in every slot that may hold it: no bit of an operand is dropped. -/
def Obligations.EncodeThenDecode : Prop :=
  ∀ i : Instr, i.wellFormed = true → (shapeOf i).isSome = true →
    ∃ u w, (encode i = some (u, [w]) ∧ ∀ slot7 next, decodeWord u slot7 w next = .ok i) ∨
      ∃ lit, encode i = some (u, [w, lit]) ∧ decodeWord u false w lit = .ok i

/-- 07 R80-R88, R94: a word has one meaning: whatever a slot's word decodes to is well-formed, and encodes to that word again,
with its literal where it is an L-form. So no two words are one instruction, and no reserved bit is passed over. -/
def Obligations.DecodeThenEncode : Prop :=
  ∀ (u slot7 : Bool) (w next : Word) (i : Instr), decodeWord u slot7 w next = .ok i →
    i.wellFormed = true ∧ (encode i = some (u, [w]) ∨ encode i = some (u, [w, next]))

/-- 03 R36, 07 R71, R72: the step runs the decoded instruction: where the next turn is an issue of the group that has the turn, by the agenda or by the
device's own choice, which may issue and has its frame, and the slot its PC names holds the word of an instruction whose sources
and destinations owe no interlocked result and whose sources are all readable, the step is exec of that instruction in that
state, followed by the counts of 07 R72-R78 (afterIssue) and the device's own work (finish). The device takes that turn of itself where the
agenda is empty, no command of the host comes to its end (27 R342) and neither a skein's turn nor a power step comes first
(03 R43, 01 R20, R22, log 2). Beside the turn, the state notes
only the tie for a port that the group has won, that the instruction is an L-form, that no trap has been taken and, where TRET 0
has sent back a control instruction (25 R318, log 31), its mask SMASK − RETIRED. The agenda and the order of turns are the model's
(logs 2, 17). An event of the agenda is performed by exec in the state
without that turn, followed by the device's own work; where it would come at a later clk while something is due before, it waits for
that (afterEvent, log 11). -/
def Obligations.StepRunsTheDecodedInstruction : Prop :=
  (∀ (s : State) (rest : List Turn) (i : Instr) (sh : Shape),
    let sl := s.grp.slotAt
    let q : State := { s with agenda := rest }
    let m : Mask := match s.grp.retry with
      | some r => if isControl i then r.smask &&& ~~~s.grp.retired else s.grp.exec
      | none => s.grp.exec
    let p : State := { q.noteTie s.grp with grp := { s.grp with long := isLong i, tookTrap := none, exec := m } }
    (s.agenda = .issue s.grp.id :: rest ∨
      s.agenda = [] ∧ rest = [] ∧ (∀ v ∈ s.vdList, s.commandDue v = false) ∧ s.nextOwn = none ∧
        s.nextTurn = some (.issue s.grp.id)) →
    q.mayIssue s.grp false = true → s.grp.hasFrame = true →
    (s.grp.launch.bind s.launch).bind (fun x => x.diverged) = none →
    decodeWord sl.u (sl.n = 7) sl.word sl.next = .ok i → shapeOf i = some sh → m ≠ 0 →
    p.grp.conflict ((p.sizedShape i sh).reads p.grp ++ (p.sizedShape i sh).writes p.grp) = false →
    p.grp.shortfalls ((p.sizedShape i sh).reads p.grp) = [] →
    step s = match exec i p with
      | .next t => State.finish s (t.afterIssue i
          { pre := p, shape := p.sizedShape i sh, count := sl.count, lanes := (p.sizedShape i sh).lanes p.grp
            wrote := wroteLanes i p.grp ((p.sizedShape i sh).lanes p.grp), path := none })
      | .fault f => .fault f
      | .refused r => .refused r) ∧
  (∀ (s : State) (rest : List Turn) (i : Instr), s.agenda = .event i :: rest → shapeOf i = none →
    step s = match exec i { s with agenda := rest } with
      | .next t => State.finish s (State.afterEvent { s with agenda := rest } i t)
      | .fault f => .fault f
      | .refused r => .refused r)

/-- 07 R94, R71, R96: a slot whose word is no instruction takes the illegal-instruction trap in every lane of EXECMASK when it
would issue; a frame whose header has bits [31:29] or bit 0 set takes the illegal-frame trap when it is fetched; a PC that is
no slot (bits [1:0] not 0, or a header's address) takes the misaligned-target trap. 05 R46, 07 R95: a vector compute word that
some lane executes takes the illegal-operand trap, in the lanes with act(i), where its destination is one of the broadcast
fields 112-126, and otherwise the register-range trap where a field names a register beyond the allocation. With no lane in
act it only goes on, whatever its fields. That FADDR is 0 for these causes, which have no address, is the model's convention
(log 18). -/
def Obligations.WhatIsNoInstructionTraps : Prop :=
  ((∀ (s : State) (rest : List Turn) (e : DecodeError),
    let sl := s.grp.slotAt
    let q : State := { s with agenda := rest }
    let p : State := { q.noteTie s.grp with grp := { s.grp with long := longWord (sl.n = 7) sl.word, tookTrap := none } }
    s.agenda = .issue s.grp.id :: rest → q.mayIssue s.grp false = true → s.grp.hasFrame = true →
    (s.grp.launch.bind s.launch).bind (fun x => x.diverged) = none →
    decodeWord sl.u (sl.n = 7) sl.word sl.next = .error e →
    step s = State.finish s (p.trap 0x04 0 s.grp.exec 0).tick) ∧
  (∀ (s : State) (pa : Nat), s.grp.live = true → s.grp.saved = false → s.grp.stopped = false → s.grp.wait = none →
    s.grp.pc.extractLsb' 0 2 = 0 → s.grp.pc.extractLsb' 0 5 ≠ 0 →
    s.translate s.grp.agent s.grp.vd .fetch (frameBase s.grp.pc) = .ok pa → s.badRange pa 32 = false →
    exec (.frameFetch s.grp.id) s = .next (
      let t := s.tlbFill s.grp.agent s.grp.vd .fetch (frameBase s.grp.pc)
      if s.num pa 4 / 2 ^ 29 ≠ 0 ∨ s.num pa 4 % 2 = 1 then t.trapGroup s.grp.id 0x05 0 s.grp.exec 0
      else { t with grp := { t.grp with frame := some (frameBase s.grp.pc, toWords 8 (s.num pa 32)) } })) ∧
  (∀ s : State, s.grp.live = true → s.grp.saved = false → s.grp.stopped = false → s.grp.wait = none →
    s.grp.pc.extractLsb' 0 2 ≠ 0 ∨ s.grp.pc.extractLsb' 0 5 = 0 →
    exec (.frameFetch s.grp.id) s = .next (s.trapGroup s.grp.id 0x08 0 s.grp.exec 0))) ∧
  (∀ (i : Instr) (c : Compute) (s : State), computeOf i = some c → c.u = false →
    let m := s.grp.act c.guard
    (m ≠ 0 → ¬ goodDest c.d → exec i s = .next (s.trap 0x06 0 m 0)) ∧
    (m ≠ 0 → goodDest c.d → ¬ s.grp.allocated (c.d :: c.srcs) → exec i s = .next (s.trap 0x09 0 m 0)) ∧
    (m = 0 → s.grp.retry = none → exec i s = .next { s with grp := { s.grp with
      pc := if c.long then nextSlot (s.grp.pc + 4) else nextSlot s.grp.pc } }))

/-- No instruction and no event stops the machine: exec answers a next state for every instruction in every state. (The one
stop of the model, an access of the device's own engines to an address that does not exist, is the step's, not exec's.) -/
def Obligations.EveryInstructionAnswersANextState : Prop :=
  ∀ (i : Instr) (s : State), ∃ t, exec i s = .next t

/-! Invariants. -/

/-- Memory keeps its canonical form: a step from any state whose memory lists its bytes with addresses rising and no byte that
reads as an unlisted one leads only to such a state. So equal memories are equal data. -/
def Obligations.MemoryStaysCanonical : Prop :=
  ∀ s t : State, Memory.wf s.mem = true → step s = .next t → Memory.wf t.mem = true

/-- 05 R54: a reconvergence stack holds at most 24 entries: a step from any state in which every group keeps the limit leads only
to such a state. That the entries hidden from a handler count towards the 24 is the model's reading (log 33). -/
def Obligations.StacksStayBounded : Prop :=
  ∀ s t : State, (∀ g ∈ s.groups, g.stack.length ≤ 24) → step s = .next t → ∀ g ∈ t.groups, g.stack.length ≤ 24

/-- The state after package reset meets both invariants. -/
def Obligations.ResetIsSound : Prop :=
  Memory.wf State.reset.mem = true ∧ ∀ g ∈ State.reset.groups, g.stack.length ≤ 24

/-- 01 R21-R23, 05 R56, 23 R298, 25 R313, R327, 27 R340, R341, R343, R349: what package reset leaves in the registers whose
reset value the manual gives: CLOCK 0; PWRLIM 0x960; HEATLIM 700 W in force on every die; CAPS with 256 cores, VDMAX 255, 24
channel groups and no ports; HEALTH 0; no quadrant owned; no device created, each with IDLETHR 1,000, TENSION 8, RTIMEOUT 50,
MWBASE 0 and its rings 0; every queue configuration 0; no group, team or launch. -/
def Obligations.ResetRegisters : Prop :=
  let s := State.reset
  s.clock = 0 ∧ s.pwrlim = 0x960 ∧ (∀ die < 4, s.inforce die = 700) ∧ s.caps = 0x18FF0100 ∧ s.health = 0 ∧
  (∀ q, nget .free s.quads q = .free) ∧
  (∀ v, let d := s.vd v
    d.created = false ∧ d.idlethr = 1000 ∧ d.tension = 8 ∧ d.rtimeout = 50 ∧ d.mwbase = 0 ∧ d.pstate = .awake ∧ d.wakes = 0 ∧
    d.faultq = {} ∧ d.reclog = {} ∧ d.frames = {} ∧ d.vaults = {}) ∧
  (∀ q, nget {} s.queues q = ({} : QueueCfg)) ∧ (∀ g ∈ s.groups, g.live = false) ∧ s.teams = [] ∧ s.launches = []

/-- 25 R316, 05 R56: STV changes only at supervisor level: an instruction of a group below that level leaves the group's STV as
it was, whatever it does. -/
def Obligations.OnlySupervisorChangesStv : Prop :=
  ∀ (i : Instr) (s t : State), (shapeOf i).isSome = true → s.grp.level ≠ .supervisor → exec i s = .next t →
    t.grp.stv = s.grp.stv

/-! Taking an exception and returning (25 R315-R320). -/

/-- 25 R316, R317: taking an exception. A user trap (cause below 0x20) at program level goes to the user handler where UTV is
not 0; every other trap goes to the supervisor handler, a user trap of the user handler with cause 0x29 and the inner cause as
detail; in the supervisor handler, or where STV is 0, the group halts. The entered level saves the PC, EXECMASK and the stack
depth (during a retry SMASK and SDEPTH keep their first values), TRAPCAUSE, TRAPPC, TRAPMASK and FADDR are written, the mask
becomes the trapping lanes, the handler sees an empty stack, and the PC is 32·vector + 4. The user level's trap registers are kept
while the supervisor handler runs. A wait, an answer to it and the counts in flight are gone (07 R73). Nothing else changes. That a
group which halts keeps the trap's own cause, PC, mask and FADDR in its trap registers, with no 0x29 around it where STV is 0, is the
model's reading (log 18): R316 and R320 only say that it halts. -/
def Obligations.TrapEntersItsHandler : Prop :=
  ∀ (s : State) (cause detail : Nat) (m : Mask) (faddr : DWord), cause < 64 → detail < 2 ^ 26 →
    let g := s.grp
    let toUser : Bool := g.level = .program && cause < 0x20 && g.utv ≠ 0
    let nested : Bool := g.level = .user && cause < 0x20
    let t := s.trap cause detail m faddr
    if g.level = .supervisor ∨ (toUser = false ∧ g.stv = 0) then
      t = State.halt { s with grp := { g with
        trap := { cause := BitVec.ofNat 32 (cause * 2 ^ 26 + detail), pc := g.pc, mask := m, faddr := faddr }
        tookTrap := some cause } } g.id
    else
      let saved := if toUser then t.grp.user else t.grp.super
      t = { s with grp := t.grp } ∧
      t.grp = { g with
        level := if toUser then .user else .supervisor
        trap := t.grp.trap, trapUser := t.grp.trapUser, user := t.grp.user, super := t.grp.super
        exec := m, hidden := g.stack.length, retry := none, wait := none, remote := none, prods := []
        noted := false, tookTrap := t.grp.tookTrap
        pc := 32 * (if toUser then g.utv else g.stv).setWidth 64 + 4 } ∧
      t.grp.trap.cause.toNat = (if nested then 0x29 * 2 ^ 26 + cause else cause * 2 ^ 26 + detail) ∧
      t.grp.trap.pc = g.pc ∧ t.grp.trap.mask = m ∧ t.grp.trap.faddr = faddr ∧
      (toUser = true → t.grp.super = g.super ∧ t.grp.trapUser = g.trapUser) ∧
      (toUser = false → t.grp.user = g.user ∧ t.grp.trapUser = g.trap) ∧
      saved.spc = g.pc ∧ saved.fromLevel = g.level ∧
      (g.retry = none → saved.smask = g.exec ∧ saved.sdepth = g.stack.length) ∧
      (∀ r, g.retry = some r → saved.smask = r.smask ∧ saved.sdepth = r.sdepth) ∧
      t.grp.stackEmpty = true

/-- 07 R93, 25 R319: PROBE, TRAP and SYS take their trap in every lane of EXECMASK, with the number they carry as its detail,
and BKPT does where no debugger is attached; with one attached it completes and stops every live group of its team, whose fixed-latency and special-function work in flight
completes (11 R153, log 19). None does
anything else (TrapEntersItsHandler says what the entry does). -/
def Obligations.SystemCallsTakeTheirTrap : Prop :=
  ∀ s : State,
    (∀ n : BitVec 26, exec (.probe n) s = .next (s.trap 0x01 n.toNat s.grp.exec 0)) ∧
    (∀ n : BitVec 23, exec (.trap n) s = .next (s.trap 0x02 n.toNat s.grp.exec 0)) ∧
    (∀ n : BitVec 23, exec (.sys n) s = .next (s.trap 0x21 n.toNat s.grp.exec 0)) ∧
    (∀ n : BitVec 23, s.debugger = false → exec (.bkpt n) s = .next (s.trap 0x03 n.toNat s.grp.exec 0)) ∧
    (∀ n : BitVec 23, s.debugger = true → s.grp.retry = none → s.grp.live = true →
      exec (.bkpt n) s = .next { s with
        grp := { s.grp with pc := nextSlot s.grp.pc, stopped := true, prods := [], hz := {}, due := [] }
        others := s.others.map fun g =>
          if g.team = s.grp.team && g.live then { g with stopped := true, prods := [], hz := {}, due := [] } else g })

/-- 25 R318: TRET. Outside a handler it is an illegal operand and with m = 3 an illegal instruction. It first confirms the drains
the group left unconfirmed, and waits where one awaits an atomic that
the host or a peer has not answered, or that was answered and has not issued again (13 R179, log 39). TRET.HALT halts the group, and so does TRET 0 or TRET 1 after a replay divergence. TRET 1 restores
the stack and the level, leaves SMASK − RETIRED as the mask, and goes on after the instruction at SPC; TRET 0 goes back to SPC
with the lanes of TRAPMASK − RETIRED, to take SMASK − RETIRED when the instruction completes (log 31); a control instruction so
sent back issues in SMASK − RETIRED. Leaving the supervisor handler gives back the user level's trap registers. That FADDR is 0 for the
causes of the first two clauses, which have no address, is the model's convention (log 18). -/
def Obligations.TretLeavesTheHandler : Prop :=
  (∀ s : State,
    let u : State := s.confirmOwn
    let g : Group := u.grp
    let r : Saved := if g.level = .supervisor then g.super else g.user
    let left : Group := { g with
      level := r.fromLevel
      trap := if g.level = Level.supervisor then g.trapUser else g.trap
      stack := g.stack.drop (g.stack.length - g.hidden)
      hidden := match r.fromLevel with | .program => 0 | .user => g.user.sdepth | .supervisor => g.super.sdepth }
    exec (.tret 3) s = .next (s.trap 0x04 0 s.grp.exec 0) ∧
    (s.grp.level = .program → ∀ m, m ≠ 3 → exec (.tret m) s = .next (s.trap 0x06 0 s.grp.exec 0)) ∧
    (s.grp.level ≠ .program → s.confirmWaits s.grp.vd s.grp.drains = true → ∀ m, m ≠ 3 → exec (.tret m) s = .next (s.park .confirm)) ∧
    (s.grp.level ≠ .program → s.confirmWaits s.grp.vd s.grp.drains = false →
      exec (.tret 2) s = .next (u.halt g.id) ∧
      (g.trap.cause.toNat / 2 ^ 26 = 0x27 → exec (.tret 0) s = .next (u.halt g.id) ∧ exec (.tret 1) s = .next (u.halt g.id)) ∧
      (g.trap.cause.toNat / 2 ^ 26 ≠ 0x27 → r.smask &&& ~~~g.retired ≠ 0 →
        exec (.tret 1) s = .next { u with grp := { left with
          exec := r.smask &&& ~~~g.retired
          pc := if r.long then nextSlot (r.spc + 4) else nextSlot r.spc
          retry := none } } ∧
        exec (.tret 0) s = .next { u with grp := { left with
          exec := g.trap.mask &&& ~~~g.retired
          pc := r.spc
          retry := some { tmask := g.trap.mask &&& ~~~g.retired, smask := r.smask, sdepth := r.sdepth } } }))) ∧
  (∀ (s : State) (i : Instr) (sh : Shape) (r : Retry) (n : Nat), s.grp.retry = some r → isControl i = true → shapeOf i = some sh →
    let p : State := { s with grp := { s.grp with long := false, tookTrap := none, exec := r.smask &&& ~~~s.grp.retired } }
    p.grp.exec ≠ 0 → p.grp.conflict (sh.reads p.grp ++ sh.writes p.grp) = false → p.grp.shortfalls (sh.reads p.grp) = [] →
    ∃ c, s.prepare i n none = .issue i c p ∧ c.pre = p ∧ c.count = n)

/-- 25 R317, R318: a TRAP of a group at program level with a user handler, followed at once by TRET 1, changes nothing but the
trap registers and the PC, which stands at the slot after the TRAP: mask (less the retired lanes), stack, registers,
predicates and memory are as before. 25 R318: an instruction that TRET 0 has sent back re-executes as it would otherwise, in
the lanes it re-executes in, and on completion EXECMASK is SMASK − RETIRED. Stated for every word of 11 R127-R142 that writes
one register, in its vector form. -/
def Obligations.TrapThenReturnResumes : Prop :=
  (∀ (s t u : State) (n : BitVec 23), s.grp.level = .program → s.grp.utv ≠ 0 → s.grp.retry = none → s.grp.drains = [] →
    s.grp.long = false → s.grp.exec &&& ~~~s.grp.retired ≠ 0 → exec (.trap n) s = .next t → exec (.tret 1) t = .next u →
    u = { s with grp := u.grp } ∧
    u.grp = { s.grp with
      exec := s.grp.exec &&& ~~~s.grp.retired, pc := nextSlot s.grp.pc, hidden := 0, trap := u.grp.trap, user := u.grp.user
      wait := none, remote := none, prods := [], noted := false, tookTrap := u.grp.tookTrap }) ∧
  (∀ (i : Instr) (c : Compute) (s : State) (r : Retry), computeOf i = some c → c.u = false → s.grp.retry = some r →
    c.d ≤ 111 ∨ c.d = 127 → (∀ f ∈ c.d :: c.srcs, f ≤ 111 → 16 * s.grp.winbase.toNat + f < s.grp.alloc) →
    r.smask &&& ~~~s.grp.retired ≠ 0 →
    ∃ t, exec i { s with grp := { s.grp with retry := none } } = .next t ∧
      exec i s = .next { t with grp := { t.grp with exec := r.smask &&& ~~~s.grp.retired, retry := none } })

/-- 25 R320: a group of a launch that halts posts a KIND 1 record with its trap registers, device, core, partition, slot and
launch to its device's fault queue, issues no more, and its launch is cut with status 0x32; it has not ended by this (03 R30: only
its lanes' EXIT or the cut ends it). 11 R154: resume(). Popping the
visible stack from its top, entries of kind REJOIN whose lanes have all retired are passed over; the first other entry gives
the path: a PENDING one its address and mask, a REJOIN one the slot after its address and its lanes that have not retired.
Where every visible entry is passed over, the group ends. 03 R30: a group of a launch ends: it lives no longer, with nothing
in its mask; where its launch is not deterministic and goes on, with a team to place or a group alive, and no other group waits
for it at a latch, nothing else changes. 19 R259: where it was the last of its launch, neither cut nor diverged, no cut or early
finish waits any longer, and the header of an anytime launch turns to FINISHED or, where it finishes early, FINISHED_EARLY. -/
def Obligations.GroupsHaltResumeAndEnd : Prop :=
  (∀ (s : State) (l : Nat) (x : Launch), let g := s.grp
    g.kind = .launch → g.launch = some l → s.launch l = some x → x.diverged = none →
    let posted := s.postRecord g.vd (faultRecord g.trap.faddr.toNat g.trap.pc.toNat g.trap.cause.toNat g.trap.mask.toNat 1 g.vd
      g.core g.part 0 g.slot x.seqno)
    s.halt g.id = State.cutLaunch
      { posted with grp := { posted.grp with wait := some .halted, active := false } } l 0x32) ∧
  ((∀ (s : State) (dead rest : List StackEntry), let g := s.grp
    (∀ e ∈ dead, e.pending = false ∧ e.mask &&& ~~~g.retired = 0) →
    (∀ e : StackEntry, g.stack = dead ++ e :: rest → g.hidden ≤ rest.length →
      (e.pending = true → s.resume = { s with grp := { g with stack := rest, pc := e.pc, exec := e.mask } }) ∧
      (e.pending = false → e.mask &&& ~~~g.retired ≠ 0 →
        s.resume = { s with grp := { g with stack := rest, pc := nextSlot e.pc, exec := e.mask &&& ~~~g.retired } })) ∧
    (g.stack = dead ++ rest → rest.length = g.hidden → s.resume = State.endGroup { s with grp := { g with stack := rest } })) ∧
  (∀ s : State, s.grp.kind = .launch → (∀ w ∈ s.others, w.wait = none) →
    let t : State := { s with grp := { s.grp with live := false, active := false, exec := 0, wait := none, committed := false } }
    ((∀ l x, s.grp.launch = some l → s.launch l = some x → dDet x.desc = false ∧
        (x.nextTeam < dTeams x.desc ∨ ∃ w ∈ s.others, w.launch = some l ∧ w.live = true)) → s.endGroup = t) ∧
    (∀ l x, s.grp.launch = some l → s.launch l = some x → dDet x.desc = false → x.cut = none → x.diverged = none →
      dTeams x.desc ≤ x.nextTeam → (∀ w ∈ s.others, w.launch = some l → w.live = false) →
      s.endGroup = (((t.unhold x.vd (.cut l)).unhold x.vd (.plan l)).modLaunch l fun y => { y with waitCut := none }).leaveRunning x
        (if x.finishNow then 2 else 1) 0)))

/-! Control flow (11 R154-R161, 07 R89-R92). -/

/-- 11 R155, R156, 07 R89: BRA and CALL, whose target is PC + 4·sext(off). A vector branch is taken by the lanes with act(i): a
target on a frame header traps in them; where some but not all lanes take it and the stack holds 24 entries, the overflow trap is
taken in every lane; else, with none taking it the next slot follows, with all the target, and with some a PENDING entry of them
is pushed and the others go on. The uniform form takes every lane where its guard holds and does nothing where it does not.
CALL also writes the link, the low word of the next slot's address, to s126, whether or not a lane takes it; BRA does not. That
the hidden entries count towards the 24 is log 33, and that an untaken uniform CALL writes no link log 21: the model's readings. -/
def Obligations.BranchesTakeTheirPaths : Prop :=
  ∀ (s : State) (k : BitVec 3) (o : BitVec 23) (call : Bool),
    let g := s.grp
    let i := fun u => if call then Instr.call u k o else Instr.bra u k o
    let base := if call then g.setS 126 ((nextSlot g.pc).extractLsb' 0 32) else g
    let tgt := g.pc + 4 * o.signExtend 64
    let t := g.act k.toNat
    let f := g.exec &&& ~~~t
    (t ≠ 0 → tgt.toNat % 32 = 0 → exec (i false) s = .next (s.trap 0x08 0 t 0)) ∧
    (tgt.toNat % 32 ≠ 0 →
      (t ≠ 0 → f ≠ 0 → 24 ≤ g.stack.length → exec (i false) s = .next (s.trap 0x0E 0 g.exec 0)) ∧
      (t ≠ 0 → f ≠ 0 → g.stack.length < 24 → exec (i false) s = .next { s with grp := { base with
        stack := { pending := true, pc := tgt, mask := t } :: g.stack, exec := f, pc := nextSlot g.pc, retry := none } }) ∧
      (t ≠ 0 → f = 0 → exec (i false) s = .next { s with grp := { base with pc := tgt, retry := none } })) ∧
    (t = 0 → exec (i false) s = .next { s with grp := { base with pc := nextSlot g.pc, retry := none } }) ∧
    (g.uniGuard k.toNat = none → exec (i true) s = .next (s.trap 0x06 0 g.exec 0)) ∧
    (g.uniGuard k.toNat = some false → exec (i true) s = .next { s with grp := { g with pc := nextSlot g.pc, retry := none } }) ∧
    (g.uniGuard k.toNat = some true → g.exec ≠ 0 →
      exec (i true) s = .next (if tgt.toNat % 32 = 0 then s.trap 0x08 0 g.exec 0
        else { s with grp := { base with pc := tgt, retry := none } }))

/-- 11 R158, R159: JOIN pops the top entry, and BRK takes its lanes out of the mask. JOIN with an empty visible stack only goes
on; a PENDING entry gives its mask and address, a REJOIN entry the lanes of its mask that have not retired, at the next slot.
BRK with no lane only goes on, and without a REJOIN entry in sight, those hidden from a handler left aside (log 33: the model's
reading), it takes the overflow trap in its lanes. Where JOIN or BRK
would leave no lane, resume() runs. 11 R160, R161, 25 R318: RET goes to the link in s126 or s125 within the 4 GiB of its own
address, and JMPI to the address in a pair of uniform registers; an address that is no slot is a misaligned target in every
lane, and a JMPI pair that reaches field 127 an illegal operand. EXIT retires the lanes of the mask: at program level resume()
runs, and in a handler it then leaves as TRET 1 does, where no drain of the group awaits an atomic (13 R179). -/
def Obligations.PathsJoinBreakAndReturn : Prop :=
  (∀ s : State, let g := s.grp
    (g.stack.length ≤ g.hidden → exec .join s = .next { s with grp := { g with pc := nextSlot g.pc, retry := none } }) ∧
    (∀ e rest, g.stack = e :: rest → g.hidden ≤ rest.length →
      let m := if e.pending then e.mask else e.mask &&& ~~~g.retired
      let t : State := { s with grp := { g with
        stack := rest, exec := m, pc := if e.pending then e.pc else nextSlot g.pc, retry := none } }
      exec .join s = .next (if m = 0 then t.resume else t)) ∧
    (∀ k : BitVec 3, let b := g.act k.toNat
      let m := g.exec &&& ~~~b
      let t : State := { s with grp := { g with exec := m, pc := nextSlot g.pc, retry := none } };
      (b = 0 → exec (.brk k) s = .next { s with grp := { g with pc := nextSlot g.pc, retry := none } }) ∧
      (b ≠ 0 → (∀ e ∈ g.stack.take (g.stack.length - g.hidden), e.pending = true) → exec (.brk k) s = .next (s.trap 0x0E 0 b 0)) ∧
      (b ≠ 0 → (∃ e ∈ g.stack.take (g.stack.length - g.hidden), e.pending = false) →
        exec (.brk k) s = .next (if m = 0 then t.resume else t)))) ∧
  (∀ s : State, s.grp.hz = {} → let g := s.grp
    (∀ l : BitVec 1, let tgt : DWord := g.pc.extractLsb' 32 32 ++ g.uni (if l = 1 then 125 else 126)
      (tgt.toNat % 4 = 0 → tgt.toNat % 32 ≠ 0 → exec (.ret l) s = .next { s with grp := { g with pc := tgt, retry := none } }) ∧
      (tgt.toNat % 4 ≠ 0 ∨ tgt.toNat % 32 = 0 → exec (.ret l) s = .next (s.trap 0x08 0 g.exec 0))) ∧
    (∀ a : BitVec 7, let tgt : DWord := g.uni (a.toNat + 1) ++ g.uni a.toNat
      (126 ≤ a.toNat → exec (.jmpi a) s = .next (s.trap 0x06 0 g.exec 0)) ∧
      (a.toNat < 126 → tgt.toNat % 4 = 0 → tgt.toNat % 32 ≠ 0 →
        exec (.jmpi a) s = .next { s with grp := { g with pc := tgt, retry := none } }) ∧
      (a.toNat < 126 → tgt.toNat % 4 ≠ 0 ∨ tgt.toNat % 32 = 0 → exec (.jmpi a) s = .next (s.trap 0x08 0 g.exec 0))) ∧
    (let t : State := { s with grp := { g with retired := g.retired ||| g.exec, exec := 0, retry := none } };
      (g.level = .program → exec .exit s = .next t.resume) ∧
      (g.level ≠ .program → g.trap.cause.toNat / 2 ^ 26 ≠ 0x27 → s.confirmWaits g.vd g.drains = false →
        let r : Saved := if g.level = .supervisor then g.super else g.user
        r.smask &&& ~~~(g.retired ||| g.exec) ≠ 0 → exec .exit s = exec (.tret 1) t)))

/-- 07 R91, R92: TRAMP k reads entry k of the table at 65,536·TRB as a load of the group, after its earlier loads and with its own
queued stores (log 49), once no QFENCE holds the ordinary path back for a queue (13 R195). Where the entry is there to read on this device, is valid and
names a slot, s125 takes the link, and the branch is taken by the lanes with act(i) as BRA's is. An entry that is not valid, or
has a reserved bit set, is an illegal instruction, and one on a frame header a misaligned target, in the lanes with act(i); with
no such lane nothing happens at all, not even the link. That bits [1:0] of TARGET are not reserved is log 20, and that the hidden
entries count towards the 24 log 33: the model's readings, as is the FADDR of 0 for these causes, which have no address (log 18). -/
def Obligations.TrampolinesFollowTheirEntry : Prop :=
  ∀ (s : State) (k : BitVec 3) (n : BitVec 16) (pa : Nat),
    let q := s.loadsFirst
    let g := q.grp
    let va : DWord := BitVec.ofNat 64 (65536 * g.trb.toNat + 16 * n.toNat)
    (g.held 0 = true → exec (.tramp k n) s = .next (q.park (.paths 0))) ∧
    (g.held 0 = false → g.remote = none → q.translate g.agent g.vd .load va = .ok pa → q.badRange pa 16 = false →
     q.isRemote pa = false →
    let e := ofBytes (q.loadBytes g g.seq (.phys (q.alias pa)) 16)
    let tgt : DWord := BitVec.ofNat 64 e
    let u := q.tlbFill g.agent g.vd .load va
    let t := g.act k.toNat
    let f := g.exec &&& ~~~t
    let base := g.setS 125 ((nextSlot g.pc).extractLsb' 0 32)
    u.grp = g ∧
    (e / 2 ^ 64 ≠ 1 ∨ tgt.toNat % 32 = 0 →
      exec (.tramp k n) s = .next (if t = 0 then { u with grp := { g with pc := nextSlot g.pc, retry := none } }
        else u.trap (if e / 2 ^ 64 ≠ 1 then 0x04 else 0x08) 0 t 0)) ∧
    (e / 2 ^ 64 = 1 → tgt.toNat % 32 ≠ 0 →
      (t ≠ 0 → f ≠ 0 → 24 ≤ g.stack.length → exec (.tramp k n) s = .next (u.trap 0x0E 0 g.exec 0)) ∧
      (t ≠ 0 → f ≠ 0 → g.stack.length < 24 → exec (.tramp k n) s = .next { u with grp := { base with
        stack := { pending := true, pc := tgt, mask := t } :: g.stack, exec := f, pc := nextSlot g.pc, retry := none } }) ∧
      (t ≠ 0 → f = 0 → exec (.tramp k n) s = .next { u with grp := { base with pc := tgt, retry := none } }) ∧
      (t = 0 → exec (.tramp k n) s = .next { u with grp := { base with pc := nextSlot g.pc, retry := none } })))

/-! Compute words (11 R125-R142). -/

/-- 11 R125, R127-R136, R141, R142, 05 R46: a compute word in its vector form, with operands the group may name, writes to its
destination, in the lanes of the mask where its guard holds, what the manual's table gives of its sources in that lane
(computeOf), goes on at the next slot (past the literal of an L-form), and changes nothing else: no other register, no lane
without act(i), no byte of memory. Field 127 discards. Which values the fused operations, the special functions and the conversions
give is said on its own in SumsAndProductsAreExact. -/
def Obligations.VectorComputeResults : Prop :=
  ∀ (i : Instr) (c : Compute) (s : State), computeOf i = some c → c.u = false → s.grp.retry = none → goodDest c.d →
    s.grp.allocated (c.d :: c.srcs) →
    ∃ v, exec i s = .next { s with grp := { s.grp with
        v := v, pc := if c.long then nextSlot (s.grp.pc + 4) else nextSlot s.grp.pc } } ∧
      ∀ n k, k < 32 → (nget zeroVec v n).lane k =
        if c.d ≤ 111 ∧ n = 16 * s.grp.winbase.toNat + c.d ∧ hasLane (s.grp.act c.guard) k then
          c.op fun j => s.grp.lane (c.srcs.getD j 127) k
        else (s.grp.vreg n).lane k

/-- 11 R126, R127-R136, R141, R142, 05 R48, R51: a compute word in its uniform form executes once where its guard, a uniform
predicate, holds: it writes the uniform register d and goes on, changing nothing else; field 127 discards. Where the guard does
not hold it only goes on. A guard slot that names a vector predicate is an illegal operand in every lane. -/
def Obligations.UniformComputeResults : Prop :=
  ∀ (i : Instr) (c : Compute) (s : State), computeOf i = some c → c.u = true → s.grp.retry = none →
    let next := if c.long then nextSlot (s.grp.pc + 4) else nextSlot s.grp.pc
    (s.grp.uniGuard c.guard = none → exec i s = .next (s.trap 0x06 0 s.grp.exec 0)) ∧
    (s.grp.uniGuard c.guard = some false → exec i s = .next { s with grp := { s.grp with pc := next } }) ∧
    (s.grp.uniGuard c.guard = some true → ∃ r, exec i s = .next { s with grp := { s.grp with s := r, pc := next } } ∧
      ∀ n, nget 0 r n = if n = c.d ∧ n ≠ 127 then c.op fun j => s.grp.uni (c.srcs.getD j 127) else nget 0 s.grp.s n)

/-- 11 R137: a compare writes predicate d in the lanes with act(i), p0 discarding; its uniform form writes q d once where its
guard holds, q0 discarding, a d above 15 being an illegal operand. What it finds is the manual's table (compareOf). Nothing else
changes. -/
def Obligations.CompareResults : Prop :=
  ∀ (i : Instr) (c : Compare) (s : State), compareOf i = some c → s.grp.retry = none →
    let next := if c.long then nextSlot (s.grp.pc + 4) else nextSlot s.grp.pc
    (c.u = false → s.grp.allocated c.srcs →
      ∃ p, exec i s = .next { s with grp := { s.grp with p := p, pc := next } } ∧
        ∀ n k, k < 32 → hasLane (nget 0 p n) k =
          if n = c.d ∧ n ≠ 0 ∧ hasLane (s.grp.act c.guard) k then c.holds fun j => s.grp.lane (c.srcs.getD j 127) k
          else hasLane (nget 0 s.grp.p n) k) ∧
    (c.u = true → s.grp.uniGuard c.guard = none → exec i s = .next (s.trap 0x06 0 s.grp.exec 0)) ∧
    (c.u = true → s.grp.uniGuard c.guard = some false → exec i s = .next { s with grp := { s.grp with pc := next } }) ∧
    (c.u = true → s.grp.uniGuard c.guard = some true →
      (15 < c.d → exec i s = .next (s.trap 0x06 0 s.grp.exec 0)) ∧
      (c.d ≤ 15 → ∃ q : BitVec 16, exec i s = .next { s with grp := { s.grp with q := q, pc := next } } ∧
        ∀ n, n < 16 → q.getLsbD n =
          if n = c.d ∧ n ≠ 0 then c.holds fun j => s.grp.uni (c.srcs.getD j 127) else s.grp.q.getLsbD n))

/-- 11 R138: PAND, POR, PXOR and PANDN write predicate d from predicates a and b, lane by lane where act(i) holds; the uniform
forms work on uniform predicates once, and a field above 15 is then an illegal operand. Nothing else changes. 11 R139: PSAVE
puts the 32 predicates of a bank, of each lane with act(i), into the bits of that lane's d; PLOAD puts the bits of a lane's a
into the predicates of a bank, p0 discarding. A bank above 3 is an illegal operand in the lanes with act(i). The uniform forms
move the uniform predicates q0-q15 (q0 as 1) to the low half of S[d], and S[a] to q1-q15. -/
def Obligations.PredicateResults : Prop :=
  (∀ (i : Instr) (c : Logic) (s : State), logicOf i = some c → s.grp.retry = none →
    (c.u = false → ∃ p, exec i s = .next { s with grp := { s.grp with p := p, pc := nextSlot s.grp.pc } } ∧
      ∀ n k, k < 32 → hasLane (nget 0 p n) k =
        if n = c.d ∧ n ≠ 0 ∧ hasLane (s.grp.act c.guard) k then c.op (hasLane (s.grp.psrc c.a) k) (hasLane (s.grp.psrc c.b) k)
        else hasLane (nget 0 s.grp.p n) k) ∧
    (c.u = true → s.grp.uniGuard c.guard = none → exec i s = .next (s.trap 0x06 0 s.grp.exec 0)) ∧
    (c.u = true → s.grp.uniGuard c.guard = some false →
      exec i s = .next { s with grp := { s.grp with pc := nextSlot s.grp.pc } }) ∧
    (c.u = true → s.grp.uniGuard c.guard = some true →
      (15 < c.d ∨ 15 < c.a ∨ 15 < c.b → exec i s = .next (s.trap 0x06 0 s.grp.exec 0)) ∧
      (c.d ≤ 15 → c.a ≤ 15 → c.b ≤ 15 →
        ∃ q : BitVec 16, exec i s = .next { s with grp := { s.grp with q := q, pc := nextSlot s.grp.pc } } ∧
          ∀ n, n < 16 → q.getLsbD n =
            if n = c.d ∧ n ≠ 0 then c.op (hasLane (s.grp.qsrc c.a) 0) (hasLane (s.grp.qsrc c.b) 0) else s.grp.q.getLsbD n))) ∧
  (∀ (s : State) (k : BitVec 3) (d a : BitVec 7), s.grp.retry = none →
    let m := s.grp.act k.toNat
    (3 < a.toNat → m ≠ 0 → exec (.psave false k d a) s = .next (s.trap 0x06 0 m 0)) ∧
    (a.toNat ≤ 3 → goodDest d.toNat → s.grp.allocated [d.toNat] →
      ∃ v, exec (.psave false k d a) s = .next { s with grp := { s.grp with v := v, pc := nextSlot s.grp.pc } } ∧
        ∀ n i, i < 32 →
          (d.toNat ≤ 111 ∧ n = 16 * s.grp.winbase.toNat + d.toNat ∧ hasLane m i → ∀ j < 32,
            ((nget zeroVec v n).lane i).getLsbD j = hasLane (s.grp.psrc (32 * a.toNat + j)) i) ∧
          (¬ (d.toNat ≤ 111 ∧ n = 16 * s.grp.winbase.toNat + d.toNat ∧ hasLane m i) →
            (nget zeroVec v n).lane i = (s.grp.vreg n).lane i)) ∧
    (3 < d.toNat → m ≠ 0 → exec (.pload false k d a) s = .next (s.trap 0x06 0 m 0)) ∧
    (d.toNat ≤ 3 → s.grp.allocated [a.toNat] →
      ∃ p, exec (.pload false k d a) s = .next { s with grp := { s.grp with p := p, pc := nextSlot s.grp.pc } } ∧
        ∀ n i, i < 32 → hasLane (nget 0 p n) i =
          if n / 32 = d.toNat ∧ n ≠ 0 ∧ hasLane m i then (s.grp.lane a.toNat i).getLsbD (n % 32)
          else hasLane (nget 0 s.grp.p n) i) ∧
    (s.grp.uniGuard k.toNat = some true →
      (∃ r, exec (.psave true k d a) s = .next { s with grp := { s.grp with s := r, pc := nextSlot s.grp.pc } } ∧
        (∀ n, n ≠ d.toNat ∨ n = 127 → nget 0 r n = nget 0 s.grp.s n) ∧
        (d.toNat ≠ 127 → ∀ j, (nget 0 r d.toNat).getLsbD j = (decide (j < 16) && hasLane (s.grp.qsrc j) 0))) ∧
      (∃ q : BitVec 16, exec (.pload true k d a) s = .next { s with grp := { s.grp with q := q, pc := nextSlot s.grp.pc } } ∧
        ∀ j, j < 16 → q.getLsbD j = if j = 0 then s.grp.q.getLsbD 0 else (s.grp.uni a.toNat).getLsbD j)))

/-- 11 R130, R140: SEL writes, in every lane of the mask, a where the guard holds and b where it does not, so the guard masks
nothing; its uniform form does so once. IADD64 adds the sign-extended b to the pair a+1 ‖ a and writes the pair d+1 ‖ d; its
sources are read before either half is written, and a pair that enters the broadcast fields, or reaches uniform field 127, is an
illegal operand. -/
def Obligations.SelectAndPairResults : Prop :=
  ∀ (s : State) (k : BitVec 3) (g : BitVec 2) (d a b : BitVec 7), s.grp.retry = none →
    let m := s.grp.act g.toNat
    let sum := fun i => (s.grp.lane (a.toNat + 1) i ++ s.grp.lane a.toNat i : DWord) + (s.grp.lane b.toNat i).signExtend 64
    let total := (s.grp.uni (a.toNat + 1) ++ s.grp.uni a.toNat : DWord) + (s.grp.uni b.toNat).signExtend 64
    (goodDest d.toNat → s.grp.allocated [d.toNat, a.toNat, b.toNat] →
      ∃ v, exec (.sel false k d a b) s = .next { s with grp := { s.grp with v := v, pc := nextSlot s.grp.pc } } ∧
        ∀ n i, i < 32 → (nget zeroVec v n).lane i =
          if d.toNat ≤ 111 ∧ n = 16 * s.grp.winbase.toNat + d.toNat ∧ hasLane s.grp.exec i then
            s.grp.lane (if hasLane (s.grp.guardHolds k.toNat) i then a.toNat else b.toNat) i
          else (s.grp.vreg n).lane i) ∧
    (∀ c, s.grp.uniGuard k.toNat = some c →
      ∃ r, exec (.sel true k d a b) s = .next { s with grp := { s.grp with s := r, pc := nextSlot s.grp.pc } } ∧
        ∀ n, nget 0 r n = if n = d.toNat ∧ n ≠ 127 then s.grp.uni (if c then a.toNat else b.toNat) else nget 0 s.grp.s n) ∧
    (m ≠ 0 → 111 ≤ d.toNat ∨ 111 ≤ a.toNat → exec (.iadd64 false g d a b) s = .next (s.trap 0x06 0 m 0)) ∧
    (d.toNat < 111 → a.toNat < 111 → s.grp.allocated [d.toNat + 1, a.toNat + 1, b.toNat] →
      ∃ v, exec (.iadd64 false g d a b) s = .next { s with grp := { s.grp with v := v, pc := nextSlot s.grp.pc } } ∧
        ∀ n i, i < 32 → (nget zeroVec v n).lane i =
          if n = 16 * s.grp.winbase.toNat + d.toNat ∧ hasLane m i then (sum i).extractLsb' 0 32
          else if n = 16 * s.grp.winbase.toNat + d.toNat + 1 ∧ hasLane m i then (sum i).extractLsb' 32 32
          else (s.grp.vreg n).lane i) ∧
    (s.grp.uniGuard g.toNat = some true → 126 ≤ d.toNat ∨ 126 ≤ a.toNat →
      exec (.iadd64 true g d a b) s = .next (s.trap 0x06 0 s.grp.exec 0)) ∧
    (s.grp.uniGuard g.toNat = some true → d.toNat < 126 → a.toNat < 126 →
      ∃ r, exec (.iadd64 true g d a b) s = .next { s with grp := { s.grp with s := r, pc := nextSlot s.grp.pc } } ∧
        ∀ n, nget 0 r n =
          if n = d.toNat then total.extractLsb' 0 32 else if n = d.toNat + 1 then total.extractLsb' 32 32 else nget 0 s.grp.s n)

/-- 11 R143-R145: a shuffle or lane shift gives each lane with act(i) the word of a in the lane its table row names (exchangeOf),
as that register stands, in lanes outside the mask too; a lane the row names none for keeps its word. The counts of SHFLXOR,
LSHUP and LSHDN must be broadcasts: a vector field there is an illegal operand in the lanes with act(i). 11 R146: VOTEBAL
writes to d, in the lanes with act(i), the word whose bit j is act(j) and predicate a in lane j; VOTEANY and VOTEALL write to
predicate d, in those lanes, whether some lane with act(j), or every one, has predicate a. -/
def Obligations.LaneExchangeResults : Prop :=
  (∀ (i : Instr) (x : Exchange) (s : State), exchangeOf i = some x → s.grp.retry = none →
    let m := s.grp.act x.guard
    let b := x.other.or x.count
    (∀ n, x.count = some n → n ≤ 111 → m ≠ 0 → exec i s = .next (s.trap 0x06 0 m 0)) ∧
    ((∀ n, x.count = some n → 111 < n) → goodDest x.d → s.grp.allocated (x.d :: x.a :: x.other.toList) →
      ∃ v, exec i s = .next { s with grp := { s.grp with v := v, pc := nextSlot s.grp.pc } } ∧
        ∀ n k, k < 32 → (nget zeroVec v n).lane k =
          match (if x.d ≤ 111 ∧ n = 16 * s.grp.winbase.toNat + x.d ∧ hasLane m k then
              x.source (s.grp.lane (b.getD 127) k) k else none) with
          | some j => s.grp.lane x.a j
          | none => (s.grp.vreg n).lane k)) ∧
  (∀ (s : State) (k : BitVec 3) (d a : BitVec 7), s.grp.retry = none →
    let m := s.grp.act k.toNat
    let pa := s.grp.psrc a.toNat
    let writesV := fun (i : Instr) (w : Word) =>
      ∃ v, exec i s = .next { s with grp := { s.grp with v := v, pc := nextSlot s.grp.pc } } ∧
        ∀ n j, j < 32 → (nget zeroVec v n).lane j =
          if d.toNat ≤ 111 ∧ n = 16 * s.grp.winbase.toNat + d.toNat ∧ hasLane m j then w else (s.grp.vreg n).lane j
    let writesP := fun (i : Instr) (holds : Prop) =>
      ∃ p, exec i s = .next { s with grp := { s.grp with p := p, pc := nextSlot s.grp.pc } } ∧
        ∀ n j, j < 32 →
          (n = d.toNat ∧ n ≠ 0 ∧ hasLane m j → (hasLane (nget 0 p n) j ↔ holds)) ∧
          (¬ (n = d.toNat ∧ n ≠ 0 ∧ hasLane m j) → hasLane (nget 0 p n) j = hasLane (nget 0 s.grp.p n) j)
    (goodDest d.toNat → s.grp.allocated [d.toNat] → writesV (.votebal k d a) (m &&& pa)) ∧
    writesP (.voteany k d a) (∃ j < 32, hasLane m j ∧ hasLane pa j) ∧
    writesP (.voteall k d a) (∀ j < 32, hasLane m j → hasLane pa j))

/-- 05 R45, R50, R55, R56, 11 R148-R151: SRD, SWR, GSET and WIN. An index from 0x20 on is an illegal instruction in every lane.
SRD writes d with the register's content: 0x00 the lane's number, 0x01-0x06 the group's place in its team and grid, 0x07-0x0B where it
stands, 0x0C the mask, 0x0D the clock's low half, whose read latches the high half for 0x0E, 0x0F the pass, 0x10-0x14 and 0x1C what SWR
writes, 0x15-0x1A the trap registers, 0x1B GENTAG, 0x1D and 0x1E ARG, and 0x1F the window base. SWR changes SPB, BARBASE (bits [31:4]), TRB, UTV, STV and CHECKMODE (bit 0), ignores the
others, and takes the privilege trap for STV below supervisor level. GSET writes guard slot 1-7 and traps on any other, and on
a uniform predicate above 15. WIN moves the window, but for one that would put v0 beyond the allocation. 05 R46, R48, R49: the
constant registers. Vector field 127 reads 0 in every lane and discards what is written; uniform field 127 reads 0 and
discards; p0 and q0 read true and discard. -/
def Obligations.SpecialAndConstantRegisters : Prop :=
  (∀ (s : State) (k : BitVec 3) (d a : BitVec 7) (n : BitVec 8) (i : BitVec 2) (w : BitVec 4), s.grp.retry = none →
    let g := s.grp
    let m := g.act k.toNat
    let latch := if n = 0x0D then BitVec.ofNat 32 (s.clock / 2 ^ 32) else g.clockLatch
    let written := fun (x : Word) => { g with
      spb := if n = 0x10 then x else g.spb
      barbase := if n = 0x11 then x &&& 0xFFFFFFF0 else g.barbase
      trb := if n = 0x12 then x else g.trb
      utv := if n = 0x13 then x else g.utv
      stv := if n = 0x14 then x else g.stv
      checkmode := if n = 0x1C then x.getLsbD 0 else g.checkmode
      pc := nextSlot g.pc }
    (∀ l, s.special 0x00 l = BitVec.ofNat 32 l ∧ s.special 0x0C l = g.exec ∧
      s.special 0x0D l = BitVec.ofNat 32 s.clock ∧ s.special 0x0E l = g.clockLatch) ∧
    (∀ l,
      s.special 0x01 l = BitVec.ofNat 32 g.groupid ∧ s.special 0x02 l = BitVec.ofNat 32 g.ngroups ∧
      s.special 0x03 l = BitVec.ofNat 32 g.teamid ∧ s.special 0x04 l = g.nteams ∧
      s.special 0x05 l = BitVec.ofNat 32 g.role ∧ s.special 0x06 l = BitVec.ofNat 32 g.roleidx ∧
      s.special 0x07 l = BitVec.ofNat 32 (g.part + 256 * g.slot) ∧ s.special 0x08 l = BitVec.ofNat 32 (g.part / 8) ∧
      s.special 0x09 l = BitVec.ofNat 32 g.core ∧ s.special 0x0A l = BitVec.ofNat 32 g.lcore ∧
      s.special 0x0B l = BitVec.ofNat 32 (g.core / 64) ∧ s.special 0x0F l = g.passno ∧
      s.special 0x10 l = g.spb ∧ s.special 0x11 l = g.barbase ∧ s.special 0x12 l = g.trb ∧ s.special 0x13 l = g.utv ∧
      s.special 0x14 l = g.stv ∧ s.special 0x15 l = g.trap.cause ∧
      s.special 0x17 l ++ s.special 0x16 l = g.trap.pc ∧ s.special 0x18 l = g.trap.mask ∧
      s.special 0x1A l ++ s.special 0x19 l = g.trap.faddr ∧ s.special 0x1B l = g.gentag ∧
      s.special 0x1C l = (if g.checkmode then 1 else 0) ∧ s.special 0x1E l ++ s.special 0x1D l = g.arg ∧
      s.special 0x1F l = g.winbase.setWidth 32) ∧
    (0x20 ≤ n.toNat → ∀ u, exec (.srd u k d n) s = .next (s.trap 0x04 0 g.exec 0) ∧
      exec (.swr u k a n) s = .next (s.trap 0x04 0 g.exec 0)) ∧
    (n.toNat < 0x20 →
      (m ≠ 0 → goodDest d.toNat → g.allocated [d.toNat] →
        ∃ v, exec (.srd false k d n) s = .next { s with grp := { g with v := v, clockLatch := latch, pc := nextSlot g.pc } } ∧
          ∀ r l, l < 32 → (nget zeroVec v r).lane l =
            if d.toNat ≤ 111 ∧ r = 16 * g.winbase.toNat + d.toNat ∧ hasLane m l then s.special n.toNat l
            else (g.vreg r).lane l) ∧
      (g.uniGuard k.toNat = some true →
        exec (.srd true k d n) s =
          .next { s with grp := { g.setS d.toNat (s.special n.toNat 0) with clockLatch := latch, pc := nextSlot g.pc } }) ∧
      (n = 0x14 → g.level ≠ .supervisor →
        (m ≠ 0 → g.allocated [a.toNat] → exec (.swr false k a n) s = .next (s.trap 0x22 0 m 0)) ∧
        (g.uniGuard k.toNat = some true → exec (.swr true k a n) s = .next (s.trap 0x22 0 g.exec 0))) ∧
      (n ≠ 0x14 ∨ g.level = .supervisor →
        (∀ f, f < 32 → hasLane m f → (∀ j < f, hasLane m j = false) → g.allocated [a.toNat] →
          exec (.swr false k a n) s = .next { s with grp := written (g.lane a.toNat f) }) ∧
        (g.uniGuard k.toNat = some true → exec (.swr true k a n) s = .next { s with grp := written (g.uni a.toNat) }))) ∧
    (d = 0 ∨ 7 < d.toNat ∨ (i.getLsbD 1 = true ∧ 15 < a.toNat) → exec (.gset d a i) s = .next (s.trap 0x06 0 g.exec 0)) ∧
    (1 ≤ d.toNat → d.toNat ≤ 7 → i.getLsbD 1 = false ∨ a.toNat ≤ 15 →
      ∃ r, exec (.gset d a i) s = .next { s with grp := { g with gs := r, pc := nextSlot g.pc } } ∧
        ∀ j, nget 0 r j = if j = d.toNat then (i.extractLsb' 0 1 ++ i.extractLsb' 1 1 ++ a) else g.gslot j) ∧
    (g.alloc ≤ 16 * w.toNat → exec (.win w) s = .next (s.trap 0x0A 0 g.exec 0)) ∧
    (16 * w.toNat < g.alloc → exec (.win w) s = .next { s with grp := { g with winbase := w, pc := nextSlot g.pc } })) ∧
  (∀ g : Group,
    (∀ k, g.lane 127 k = 0) ∧ (∀ m val, g.putLanes 127 m val = g) ∧
    (∀ w, (g.setS 127 w).uni 127 = 0 ∧ g.setS 127 w = g) ∧
    (∀ m val, (g.putPred 0 m val).preg 0 = allLanes ∧ g.putPred 0 m val = g) ∧
    (∀ b, (g.setQ 0 b).qreg 0 = true ∧ g.setQ 0 b = g))

/-! Floating-point arithmetic (05 R60, R61). -/

/-- 05 R61: results round to nearest, ties to even. For FP32, FP16 and BF16, rounding an exact number that is not 0 gives a code
of the number's sign: from half a unit beyond the greatest finite magnitude on, the infinity; otherwise a finite code, nearer
to the number than any code of another value, or as near with an even fraction. Subnormal results are not flushed. 05 R61: RZ,
RU and RD. The finite code they give is the last one on the number's far side: towards 0, upwards, downwards; no code lies
between it and the number. Beyond the finite range RU gives +∞ for positive numbers and RD −∞ for negative ones, and otherwise
the largest finite value of the sign. -/
def Obligations.RoundsAsTheModeSays : Prop :=
  (∀ (f : Fmt) (neg : Bool) (m : Nat) (e : Int), f = fp32 ∨ f = fp16 ∨ f = bf16 → m ≠ 0 →
    let x := (FVal.fin neg m e).value
    let r := f.round .rn (.fin neg m e)
    r < 2 ^ f.width ∧ (r / 2 ^ (f.ebits + f.fbits) = if neg then 1 else 0) ∧
    (f.limit ≤ x.abs → r % 2 ^ (f.ebits + f.fbits) = f.infBits) ∧
    (x.abs < f.limit → (f.decode r).finite = true ∧
      ∀ c, c < 2 ^ f.width → (f.decode c).finite = true → (f.decode c).value ≠ (f.decode r).value →
        (x - (f.decode r).value).abs < (x - (f.decode c).value).abs ∨
          ((x - (f.decode r).value).abs = (x - (f.decode c).value).abs ∧ r % 2 = 0))) ∧
  (∀ (f : Fmt) (neg : Bool) (m : Nat) (e : Int), f = fp32 ∨ f = fp16 ∨ f = bf16 → m ≠ 0 →
    let x := (FVal.fin neg m e).value
    let val := fun w => (f.decode w).value
    let ok := fun c => c < 2 ^ f.width ∧ (f.decode c).finite = true
    let down := f.round .rd (.fin neg m e)
    let up := f.round .ru (.fin neg m e)
    (f.round .rz (.fin neg m e) = if neg then up else down) ∧
    (ok down → val down ≤ x ∧ ∀ c, ok c → val c ≤ x → val c ≤ val down) ∧
    (ok up → x ≤ val up ∧ ∀ c, ok c → x ≤ val c → val up ≤ val c) ∧
    (¬ ok down → down = f.infBits + f.signBit ∧ ∀ c, ok c → x < val c) ∧
    (¬ ok up → up = f.infBits ∧ ∀ c, ok c → val c < x))

/-- 05 R61: sums and products are formed exactly before they round: of two finite values they are the sum and the product of the
numbers; NaN makes NaN, as do infinities of unlike sign in a sum and an infinity times 0; an exact sum of 0 is negative only of
two negative zeros or, under RD, of numbers that cancel. 11 R135: a fused operation rounds the exact a·b ± d once. 11 R136: FRCP and
FRSQ of a finite operand give the FP32 code nearest to 1/x and 1/√x (of two as near, an even one), FRCP the infinity of its sign from
half a unit beyond the finite range on; FEX2 of a whole number and FLG2 of a power of two are exact; and the special cases are the
table's. How FEX2, FLG2, FSIN and FCOS come to their other values is log 16. 05 R62-R64, 11 R141: the conversions of CVT. FP32 to an
integer rounds as the mode says, saturates, and gives 0 of a NaN; an integer becomes FP32, and FP32 becomes FP16 or BF16, by one
rounding, .RNS giving the largest finite value in the place of an infinity; FP16 and BF16 become FP32 exactly. -/
def Obligations.SumsAndProductsAreExact : Prop :=
  (∀ (mode : RMode) (x y : FVal),
    (x.finite = true → y.finite = true →
      (x.add mode y).finite = true ∧ (x.add mode y).value = x.value + y.value ∧
      (x.mul y).finite = true ∧ (x.mul y).value = x.value * y.value) ∧
    (x = .nan ∨ y = .nan → x.add mode y = .nan ∧ x.mul y = .nan) ∧
    (∀ a b, x = .inf a → y = .inf b → x.add mode y = (if a = b then .inf a else .nan) ∧ x.mul y = .inf (a != b)) ∧
    (∀ a b n e, x = .inf a → y = .fin b n e → x.add mode y = .inf a ∧ y.add mode x = .inf a ∧
      x.mul y = (if n = 0 then .nan else .inf (a != b)) ∧ y.mul x = if n = 0 then .nan else .inf (b != a)) ∧
    (∀ a b n k d e, x = .fin a n d → y = .fin b k e → x.value + y.value = 0 →
      ∃ q, x.add mode y = .fin (if n = 0 ∧ k = 0 ∧ a = b then a else decide (mode = .rd)) 0 q)) ∧
  (∀ (f : Fmt) (mode : RMode) (sub : Bool) (a b d : Nat),
    (f.decode a).finite = true → (f.decode b).finite = true → (f.decode d).finite = true →
    ∃ v : FVal, v.finite = true ∧ f.fmaBits mode sub a b d = f.round mode v ∧
      v.value = (f.decode a).value * (f.decode b).value + (if sub then -(f.decode d).value else (f.decode d).value)) ∧
  (∀ w : Nat, w < 2 ^ 32 → (fp32.decode w).finite = true →
    let val := fun c => (fp32.decode c).value
    let x := val w
    let ok := fun c => c < 2 ^ 32 ∧ (fp32.decode c).finite = true
    (x ≠ 0 → let r := frcpBits (fp32.decode w)
      (fp32.limit ≤ (1 / x).abs → r = fp32.infBits + if x < 0 then 2 ^ 31 else 0) ∧
      ((1 / x).abs < fp32.limit → ok r ∧ ∀ c, ok c → val c ≠ val r →
        (1 / x - val r).abs < (1 / x - val c).abs ∨ ((1 / x - val r).abs = (1 / x - val c).abs ∧ r % 2 = 0))) ∧
    (0 < x → let r := frsqBits (fp32.decode w)
      ok r ∧ 0 < val r ∧ ∀ c, ok c → let mid := (val r + val c) / 2
        (val r < val c → 1 < mid * mid * x ∨ (mid * mid * x = 1 ∧ r % 2 = 0)) ∧
        (val c < val r → mid < 0 ∨ mid * mid * x < 1 ∨ (mid * mid * x = 1 ∧ r % 2 = 0))) ∧
    (∀ n : Int, -149 ≤ n → n ≤ 127 → x = n → let r := fex2Bits (fp32.decode w); ok r ∧ val r = (2 : Rat) ^ n) ∧
    (∀ n : Int, x = (2 : Rat) ^ n → let r := flg2Bits (fp32.decode w); ok r ∧ val r = n)) ∧
  (∀ w : Word, w.extractLsb' 23 8 = 0xFF → w.extractLsb' 0 23 ≠ 0 →
    ∀ f ∈ [frcpBits, frsqBits, fex2Bits, flg2Bits, fsinBits, fcosBits], special f w = 0x7FC00000) ∧
  (∀ w : Word, w.msb = true → w.extractLsb' 0 31 ≠ 0 → ∀ f ∈ [frsqBits, flg2Bits], special f w = 0x7FC00000) ∧
  (special frcpBits 0 = 0x7F800000 ∧ special frcpBits 0x80000000 = 0xFF800000 ∧
    special frcpBits 0x7F800000 = 0 ∧ special frcpBits 0xFF800000 = 0x80000000 ∧
    special frsqBits 0 = 0x7F800000 ∧ special frsqBits 0x80000000 = 0xFF800000 ∧ special frsqBits 0x7F800000 = 0 ∧
    special fex2Bits 0xFF800000 = 0 ∧ special fex2Bits 0x7F800000 = 0x7F800000 ∧
    special flg2Bits 0 = 0xFF800000 ∧ special flg2Bits 0x80000000 = 0xFF800000 ∧ special flg2Bits 0x7F800000 = 0x7F800000 ∧
    special flg2Bits 0x3F800000 = 0 ∧ special fsinBits 0 = 0 ∧ special fsinBits 0x80000000 = 0x80000000 ∧
    special fsinBits 0x7F800000 = 0x7FC00000 ∧ special fsinBits 0xFF800000 = 0x7FC00000 ∧
    special fcosBits 0x7F800000 = 0x7FC00000 ∧ special fcosBits 0xFF800000 = 0x7FC00000) ∧
  (∀ (code m : Nat) (lo hi : Int) (a : Word), m < 5 →
    (code, lo, hi) ∈ [(0x08, -(2 ^ 31), 2 ^ 31 - 1), (0x09, 0, 2 ^ 32 - 1), (0x0C, -(2 ^ 15), 2 ^ 15 - 1), (0x0D, 0, 2 ^ 16 - 1),
      (0x0E, -(2 ^ 7), 2 ^ 7 - 1), (0x0F, 0, 2 ^ 8 - 1)] →
    let x := fp32.decode a.toNat
    (x = .nan → cvt32 code m a = 0) ∧
    (∀ neg, x = .inf neg → cvt32 code m a = BitVec.ofInt 32 (if neg then lo else hi)) ∧
    (x.finite = true → ∃ j : Int, cvt32 code m a = BitVec.ofInt 32 (max lo (min j hi)) ∧
      (m = 1 → (x.value < 0 → x.value ≤ j ∧ (j : Rat) < x.value + 1) ∧ (0 ≤ x.value → (j : Rat) ≤ x.value ∧ x.value < j + 1)) ∧
      (m = 2 → x.value ≤ j ∧ (j : Rat) < x.value + 1) ∧ (m = 3 → (j : Rat) ≤ x.value ∧ x.value < j + 1) ∧
      (m = 0 ∨ m = 4 → (x.value - j).abs ≤ 1 / 2 ∧ ((x.value - j).abs = 1 / 2 → j % 2 = 0)))) ∧
  (∀ (m : Nat) (a : Word), m < 5 →
    let mode := [RMode.rn, .rz, .ru, .rd, .rns].getD m .rn
    (∃ x y : FVal, x.finite = true ∧ x.value = (a.toInt : Rat) ∧ cvt32 0x0A m a = BitVec.ofNat 32 (fp32.round mode x) ∧
      y.finite = true ∧ y.value = (a.toNat : Rat) ∧ cvt32 0x0B m a = BitVec.ofNat 32 (fp32.round mode y)) ∧
    cvt32 0x00 m a = BitVec.ofNat 32 (fp16.round mode (fp32.decode a.toNat)) ∧
    cvt32 0x01 m a = BitVec.ofNat 32 (bf16.round mode (fp32.decode a.toNat)) ∧
    (∀ (f : Fmt) (x : FVal), f = fp32 ∨ f = fp16 ∨ f = bf16 → x ≠ .nan →
      f.round .rns x = if f.round .rn x % f.signBit = f.infBits then f.round .rn x - 1 else f.round .rn x) ∧
    ((fp16.decode (a.toNat % 2 ^ 16)).finite = true → (fp32.decode (cvt32 0x04 m a).toNat).finite = true ∧
      (fp32.decode (cvt32 0x04 m a).toNat).value = (fp16.decode (a.toNat % 2 ^ 16)).value) ∧
    ((bf16.decode (a.toNat % 2 ^ 16)).finite = true → (fp32.decode (cvt32 0x05 m a).toNat).finite = true ∧
      (fp32.decode (cvt32 0x05 m a).toNat).value = (bf16.decode (a.toNat % 2 ^ 16)).value))

/-! Memory (13 R175-R185, 15 R198-R214). -/

/-- 15 R198-R201, 13 R175, R176, R185, 07 R75: a load none of whose lanes meets a condition is outstanding from then on: it takes
the next number of the program order, with size, extension and destination, and each lane with its address: register plus offset
in scratchpad, the pair plus offset without a translation register, otherwise the register and offset beyond VBASE. Memory and
registers are untouched until it returns, and the PC goes on; the lookaside buffers take up the translations. Where a QFENCE names
the ordinary path, the group's earlier accesses are performed first (13 R195). LDA is performed at
once, after everything before it. A size code above 4 is an illegal instruction. In the vector form a d of 112 or more, where d is
a destination, is an illegal operand in every lane: 112-126 by 15 R200, and 127 by 15 R198, whose words log 52 holds against 05 R46's. -/
def Obligations.LoadsAreIssued : Prop :=
  (∀ (i : Instr) (f : MemForm) (s : State) (good : List (Nat × DWord × MemLoc)), loadOf i = some f →
    let g := s.grp
    let k : AccessKind := { size := f.size, write := false }
    let lanes := if f.u then [0] else lanesOf g.exec
    g.retry = none → g.remote = none → g.held 0 = false →
    g.memFault f.u f.space [{ f := f.d, k := runLen f.size, write := true }, f.space.opnd f.a] = none →
    s.laneResults g f.u f.space f.a f.off k lanes = good.map (fun x => (x.1, LaneRes.ok x.2.1 x.2.2)) →
    let load : PendLoad :=
      { seq := g.seq, tag := g.gentag, size := f.size, signExt := f.signExt
        dest := if f.u then (if f.d = 127 then .none else .uni f.d (runLen f.size))
          else if f.d ≤ 111 then .vec (16 * g.winbase.toNat + f.d) (runLen f.size) else .none
        lanes := good.map fun x => { lane := x.1, va := x.2.1, loc := x.2.2 } }
    let q := s.qfenceDrain 0
    let t : State := { q with
      tlb := (q.fillLanes g .load (g.accessVas f.u f.space f.a f.off k lanes)).tlb
      grp := { q.grp with seq := q.grp.seq + 1, pend := if good = [] then q.grp.pend else q.grp.pend ++ [load] } }
    good.map (fun x => (x.1, x.2.1)) = lanes.map (fun j => (j, g.addressOf f.u f.space f.a f.off j)) ∧
    (g.qfences = [] → q = s) ∧
    (f.ordered = false → exec i s = .next { t with grp := { t.grp with remote := none, pc := nextSlot g.pc } }) ∧
    (f.ordered = true →
      exec i s = .next { t.drainOwn with grp := { t.drainOwn.grp with remote := none, pc := nextSlot g.pc } })) ∧
  (∀ (i : Instr) (f : MemForm) (s : State), loadOf i = some f → f.u = false → 112 ≤ f.d →
    exec i s = .next (s.trap 0x06 0 s.grp.exec 0)) ∧
  (∀ (s : State) (u : Bool) (x : BitVec 3) (d a : BitVec 7) (z : BitVec 3) (c : BitVec 5) (e : BitVec 2), 4 < z.toNat →
    exec (.ld u x d a z c) s = .next (s.trap 0x04 0 s.grp.exec 0) ∧
    exec (.sld u d a z c) s = .next (s.trap 0x04 0 s.grp.exec 0) ∧
    exec (.lda u x d a z e) s = .next (s.trap 0x04 0 s.grp.exec 0))

/-- 15 R198-R201, 13 R185: a store none of whose lanes meets a condition enters the store queue as one entry holding every lane's
place and bytes, the low bytes of its run of registers; memory is untouched until it is performed, no register changes, and the
PC goes on. STREL first performs everything the group has outstanding. A size code above 4 is an illegal instruction. -/
def Obligations.StoresAreQueued : Prop :=
  (∀ (i : Instr) (f : MemForm) (s : State) (good : List (Nat × DWord × MemLoc)), storeOf i = some f →
    let g := s.grp
    let k : AccessKind := { size := f.size, write := true }
    let lanes := if f.u then [0] else lanesOf g.exec
    g.retry = none → g.remote = none → g.held 0 = false →
    g.memFault f.u f.space [{ f := f.d, k := runLen f.size, write := false }, f.space.opnd f.a] = none →
    s.laneResults g f.u f.space f.a f.off k lanes = good.map (fun x => (x.1, LaneRes.ok x.2.1 x.2.2)) →
    let word := fun lane j => if f.u then g.uni (f.d + j) else g.lane (f.d + j) lane
    let entry : StoreEntry :=
      { seq := g.seq, since := s.clock, vd := g.vd
        parts := good.map fun x => { lane := x.1, va := x.2.1, loc := x.2.2
                                     bytes := toBytes f.size (ofWords ((List.range (runLen f.size)).map (word x.1))) } }
    let t : State := { s with tlb := (s.fillLanes g .store (g.accessVas f.u f.space f.a f.off k lanes)).tlb }
    let queued := fun (h : Group) =>
      { h with seq := h.seq + 1, storeQ := if good = [] then h.storeQ else h.storeQ ++ [entry]
               remote := none, pc := nextSlot g.pc }
    good.map (fun x => (x.1, x.2.1)) = lanes.map (fun j => (j, g.addressOf f.u f.space f.a f.off j)) ∧
    (f.ordered = false → exec i s = .next { t with grp := queued g }) ∧
    (f.ordered = true → exec i s = .next { t.drainOwn with grp := queued t.drainOwn.grp })) ∧
  (∀ (s : State) (u : Bool) (x : BitVec 3) (d a : BitVec 7) (z : BitVec 3) (c : BitVec 5) (e : BitVec 2), 4 < z.toNat →
    exec (.st u x d a z c) s = .next (s.trap 0x04 0 s.grp.exec 0) ∧
    exec (.sst u d a z c) s = .next (s.trap 0x04 0 s.grp.exec 0) ∧
    exec (.strel u x d a z e) s = .next (s.trap 0x04 0 s.grp.exec 0))

/-- 13 R185, R192, 07 R75, 25 R326: LOAD_RETURN performs the oldest outstanding load of a group whose GENTAG it carries: each of its
lanes gets the words of the bytes at its place, as the group's own older stores leave them, extended below 4 bytes, in its run of
vector registers, or of uniform ones for the uniform form, field 127 discarding; no byte of memory and no other lane or register
changes. Where the group waits for the host or a peer, LOAD_RETURN brings that answer, with the places that were asked (13 R178, log 35); for a saved group, or with another GENTAG, it does
nothing. STORE_PERFORMED performs the oldest queued store where no older load is outstanding, and nothing otherwise: a byte of
memory, or of a team's scratchpad, reads afterwards as the highest lane that stores to it gives it, and every other byte as
before; the parts at peers leave the package with their DOMID and peer group (27 R346). -/
def Obligations.LoadsAndStoresArePerformed : Prop :=
  (∀ (s : State) (p : PendLoad) (ps : List PendLoad) (first n : Nat),
    let g := s.grp
    let words := fun (l : LaneLoad) => loadedWords p.size p.signExt
      ((List.range p.size).map fun b => (g.forwarded p.seq (l.loc.plus b)).getD (s.locByte l.loc b))
    g.saved = false → g.awaitsRemote = false → g.pend = p :: ps →
    (p.dest = .vec first n → (p.lanes.map fun l => l.lane).Nodup →
      ∃ v, exec (.loadReturn g.id g.gentag.toNat) s = .next { s with grp := { g with v := v, pend := ps } } ∧
        ∀ r k, k < 32 → (nget zeroVec v r).lane k =
          match p.lanes.find? fun l => l.lane = k with
          | some l => if first ≤ r ∧ r < first + (words l).length then (words l).getD (r - first) 0 else (g.vreg r).lane k
          | none => (g.vreg r).lane k) ∧
    (∀ l, p.dest = .uni first n → p.lanes = [l] →
      ∃ v, exec (.loadReturn g.id g.gentag.toNat) s = .next { s with grp := { g with s := v, pend := ps } } ∧
        ∀ r, nget 0 v r =
          if first ≤ r ∧ r < first + (words l).length ∧ r ≠ 127 then (words l).getD (r - first) 0 else nget 0 g.s r) ∧
    (p.dest = .none → exec (.loadReturn g.id g.gentag.toNat) s = .next { s with grp := { g with pend := ps } })) ∧
  (∀ (s : State) (tag : Nat), let g := s.grp
    (g.saved = true ∨ g.gentag.toNat ≠ tag ∨ (g.awaitsRemote = false ∧ g.pend = []) → exec (.loadReturn g.id tag) s = .next s) ∧
    (g.saved = false → g.awaitsRemote = true →
      exec (.loadReturn g.id g.gentag.toNat) s = .next { s with grp := { g with remote := some { places := g.asked } } })) ∧
  (∀ (s : State) (e : StoreEntry) (es : List StoreEntry),
    let g := s.grp
    g.storeQ = e :: es →
    ((∃ p ∈ g.pend, p.seq ≤ e.seq) → exec (.storePerformed g.id) s = .next s) ∧
    ((∀ p ∈ g.pend, e.seq < p.seq) →
      ∃ m ts, exec (.storePerformed g.id) s = .next { s with
          mem := m, teams := ts, grp := { g with storeQ := es }
          hostOut := s.hostOut ++ e.parts.filterMap fun p => match p.loc with
            | .phys a => if inPeer a then
                some (.remoteRequest { domid := s.domid, peerGroup := (s.vd e.vd).peergrp, addr := a, kind := .store p.bytes }) else none
            | .scratch _ _ => none } ∧
        (∀ a, nget unlistedByte m a = (e.parts.reverse.findSome? fun p => p.byteAt (.phys a)).getD (s.byte a)) ∧
        ts.length = s.teams.length ∧
        ∀ (i : Nat) (x y : Team), s.teams[i]? = some x → ts[i]? = some y → y = { x with scratch := y.scratch } ∧
          ∀ off, y.byte off = (e.parts.reverse.findSome? fun p => p.byteAt (.scratch x.id off)).getD (x.byte off))) ∧
  (∀ (size : Nat) (bs : List Byte), bs.length = size →
    loadedWords size false bs = (if size < 4 then [BitVec.ofNat 32 (ofBytes bs)] else toWords (size / 4) (ofBytes bs)) ∧
    (size < 4 → 0 < size → loadedWords size true bs = [(BitVec.ofNat (8 * size) (ofBytes bs)).signExtend 32]))

/-- 13 R185, R193, 15 R203: an atomic none of whose lanes meets a condition waits for everything the group has outstanding, and then
each lane in ascending order reads its place, writes the op's result there (atomicResult) and, for ATOM and SATOM, the old value
to its run of d; the operands are those from before. So lanes that name one place see each other's results. An op code from 9 on,
and CAS of RED, is an illegal instruction. -/
def Obligations.AtomicsReadModifyWrite : Prop :=
  (∀ (i : Instr) (f : AtomicForm) (s : State) (good : List (Nat × DWord × MemLoc)), atomicOf i = some f →
    let g := s.grp
    let k : AccessKind := { size := f.size, write := true, atomic := true, op := f.op }
    (8 < f.op ∨ (f.returns = false ∧ f.op = 7) → exec i s = .next (s.trap 0x04 0 g.exec 0)) ∧
    (f.op ≤ 8 → f.returns = true ∨ f.op ≠ 7 → g.retry = none → g.remote = none → g.held 0 = false →
      g.memFault false f.space
        [{ f := f.d, k := if f.op = 7 then f.size / 2 else f.size / 4, write := f.returns }, f.space.opnd f.a] = none →
      s.laneResults g false f.space f.a 0 k (lanesOf g.exec) = good.map (fun x => (x.1, LaneRes.ok x.2.1 x.2.2)) →
      let t : State := { s with tlb := (s.fillLanes g .store (g.accessVas false f.space f.a 0 k (lanesOf g.exec))).tlb }
      let dest := if f.returns = true ∧ f.d ≤ 111 then Dest.vec (16 * g.winbase.toNat + f.d) (f.size / 4) else .none
      let u := t.drainOwn.atomicLanes g f.d f.size f.op dest good
      good.map (fun x => (x.1, x.2.1)) = (lanesOf g.exec).map (fun j => (j, g.addressOf false f.space f.a 0 j)) ∧
      exec i s = .next { u with grp := { u.grp with remote := none, pc := nextSlot g.pc } })) ∧
  (∀ (s : State) (g : Group) (d size op lane : Nat) (va : DWord) (loc : MemLoc) (dest : Dest) (rest : List (Nat × DWord × MemLoc)),
    size = 4 ∨ size = 8 → op ≤ 8 →
    let n := size / 4
    let run := fun f => ofWords ((List.range n).map fun j => g.lane (f + j) lane)
    let old := ofBytes (s.locBytes loc size)
    let t := s.putLoc loc (toBytes size (atomicResult op (8 * size) old (run d) (run (d + n))))
    s.atomicLanes g d size op dest [] = s ∧
    s.atomicLanes g d size op dest ((lane, va, loc) :: rest) =
      State.atomicLanes { t with grp := t.grp.putWords dest lane 0 (toWords n old) } g d size op dest rest)

/-- 13 R175-R177, R170, 15 R204: what a lane of an access meets, in this order. In global memory: an address not a multiple of the
size is misaligned; then the page fault of its translation (detail as a load's, plus 0x10 for a write), ranked a non-canonical
address first and then in the order of R172's table; at the end of that rank the bad frame of a word with an uncorrectable error,
and of an atomic that the host window does not pass on; then, for a write, the write range; then a wait for its page; then, for a
load or an atomic at the host or a peer, the wait for its answer (log 35); otherwise it goes through to its physical address. In
scratchpad: misaligned; beyond the team's allocation the page fault 5 or 0x15; a POISONED line's copy fault; an EMPTY line's wait;
otherwise it goes through. -/
def Obligations.LanesMeetTheirConditions : Prop :=
  (pageRank 6 = 2 ∧ pageRank 1 = 3 ∧ pageRank 2 = 4 ∧ pageRank 3 = 5 ∧ pageRank 4 = 6) ∧
  ∀ (s : State) (g : Group) (k : AccessKind),
    let w := if k.write then 0x10 else 0
    (∀ a : GAddr,
      let r := s.resolve g (if k.write then .store else .load) a
      let range := if k.write && k.ranges then s.writeRange g k.atomic a.va k.size else none
      let reads := !k.write || k.atomic
      let bad := fun pa => (reads = true ∧ s.badRange pa k.size = true) ∨
        (k.atomic = true ∧ inHost (s.alias pa) = true ∧ k.op ≠ 0 ∧ k.op ≠ 6 ∧ k.op ≠ 7)
      (a.va.toNat % k.size ≠ 0 → s.globalLane g k a = .trap 0 0x07 0 a.va) ∧
      (a.va.toNat % k.size = 0 →
        (∀ d, r = .fault d → s.globalLane g k a = .trap (pageRank d) 0x20 (w + d) a.va) ∧
        (∀ pa, r = .ok pa → bad pa → s.globalLane g k a = .trap 6 0x20 (w + 4) a.va) ∧
        ((∀ d, r ≠ .fault d) → (∀ pa, r = .ok pa → ¬ bad pa) →
          (∀ d, range = some d → s.globalLane g k a = .trap 7 0x23 d a.va) ∧
          (range = none → r = .stall → s.globalLane g k a = .waitPage a.va) ∧
          (range = none → ∀ pa, r = .ok pa →
            (reads = true → s.isRemote pa = true → s.globalLane g k a = .remote a.va (.phys (s.alias pa))) ∧
            (reads = false ∨ s.isRemote pa = false → s.globalLane g k a = .ok a.va (.phys (s.alias pa))))))) ∧
    (∀ (off : Nat) (t : Team), s.team g.team = some t →
      (off % k.size ≠ 0 → s.scratchLane g k off = .trap 0 0x07 0 (BitVec.ofNat 64 off)) ∧
      (off % k.size = 0 → t.alloc < off + k.size → s.scratchLane g k off = .trap 1 0x20 (w + 5) (BitVec.ofNat 64 off)) ∧
      (off % k.size = 0 → off + k.size ≤ t.alloc →
        (t.worst off k.size = .full → s.scratchLane g k off = .ok (BitVec.ofNat 64 off) (.scratch t.id off)) ∧
        (t.worst off k.size = .empty → s.scratchLane g k off = .waitLine off) ∧
        (∀ r, t.worst off k.size = .poisoned → t.poison = some r →
          s.scratchLane g k off = .trap 8 0x28 r.detail r.addr)))

/-- 13 R176, 15 R199, R203, 11 R152: where lanes of a load, a store, LDA, STREL, an atomic or a spill meet conditions, and none is at
the host or a peer, one trap is taken: the cause, detail and address of the first lane among those whose condition stands first in
the order, in every lane that met a condition or a wait (in every lane of the mask for the uniform form; that a lane which waits for a
scrub-pending page counts, as one that waits for a line does, is log 18's reading of R176), after the lanes that
meet nothing have gone through: a load of them is outstanding, a store queued, LDA, STREL and an atomic performed as they are
without a trap. Where none meets a condition but some wait for lines, or for pages, the group parks and nothing is accessed. Where
lanes of a load or atomic go to the host or a peer, the group first waits for their answer, of those lanes (log 35): the requests of
those at peers leave with what they ask, DOMID and peer group (27 R346), after the group's earlier accesses for LDA and an atomic (13
R185) and after those that a QFENCE puts before it (13 R195). -/
def Obligations.ConditionsTrapAndWaitsPark : Prop :=
  ∀ s : State, let g := s.grp
    let outcome := fun (i : Instr) (u atomic drains : Bool) (size : Nat) (kind : Nat → PeerKind) (ls : LaneList) (through : State) =>
      let lines := ls.filterMap fun x => match x.2 with | .waitLine o => some o | _ => none
      let pages := ls.filterMap fun x => match x.2 with | .waitPage v => some v | _ => none
      (∀ c d addr m, ls.trapsFirst c d addr → ls.inCondition m → ¬ ls.leaves →
        exec i s = .next (State.trap { through with grp := { through.grp with remote := none } } c d (if u then g.exec else m) addr)) ∧
      (¬ ls.traps →
        (lines ≠ [] → exec i s = .next { s with grp := { g with wait := some (.lines lines), active := false } }) ∧
        (lines = [] → pages ≠ [] → exec i s = .next { s with grp := { g with wait := some (.pages pages), active := false } })) ∧
      (ls.leaves → ls.traps ∨ (lines = [] ∧ pages = []) →
        let q : State := if drains then s.drainOwn else s.qfenceDrain 0
        let places : List LaneLoad := ls.filterMap fun x => match x.2 with
          | .remote va loc => some { lane := x.1, va := va, loc := loc } | _ => none
        exec i s = .next { q with
          hostOut := q.hostOut ++ places.filterMap fun p => match p.loc with
            | .phys a => if inPeer a then
                some (.remoteRequest { domid := q.domid, peerGroup := (q.vd g.vd).peergrp, addr := a, kind := kind p.lane }) else none
            | .scratch _ _ => none
          grp := { q.grp with drained := false, wait := some (.remote atomic size places q.clock), active := false } })
    let loaded := fun (dest : Dest) (size : Nat) (signExt : Bool) (ls : LaneList) (vas : List GAddr) =>
      let q := s.qfenceDrain 0
      ({ q with
        tlb := (q.fillLanes g .load vas).tlb
        grp := { q.grp with
          seq := q.grp.seq + 1
          pend := if ls.clear = [] then q.grp.pend else q.grp.pend ++ [{
            seq := g.seq, tag := g.gentag, size := size, signExt := signExt, dest := dest
            lanes := ls.clear.map fun x => { lane := x.1, va := x.2.1, loc := x.2.2 } }] } } : State)
    let stored := fun (size : Nat) (word : Nat → Nat → Word) (release : Bool) (ls : LaneList) (vas : List GAddr) =>
      let t : State := { s with tlb := (s.fillLanes g .store vas).tlb }
      let t := if release then t.drainOwn else t
      ({ t with grp := { t.grp with
        seq := t.grp.seq + 1
        storeQ := if ls.clear = [] then t.grp.storeQ else t.grp.storeQ ++ [{
          seq := g.seq, since := s.clock, vd := g.vd
          parts := ls.clear.map fun x => {
            lane := x.1, va := x.2.1, loc := x.2.2
            bytes := toBytes size (ofWords ((List.range (runLen size)).map (word x.1))) } }] } } : State)
    let vec := fun (d n : Nat) => if d ≤ 111 then Dest.vec (16 * g.winbase.toNat + d) n else .none
    g.remote = none → g.held 0 = false →
    (∀ (i : Instr) (f : MemForm), loadOf i = some f →
      let k : AccessKind := { size := f.size, write := false }
      let lanes := if f.u then [0] else lanesOf g.exec
      let ls := s.laneResults g f.u f.space f.a f.off k lanes
      let dest := if f.u then (if f.d = 127 then .none else .uni f.d (runLen f.size)) else vec f.d (runLen f.size)
      let t := loaded dest f.size f.signExt ls (g.accessVas f.u f.space f.a f.off k lanes)
      (∀ c, g.memFault f.u f.space [{ f := f.d, k := runLen f.size, write := true }, f.space.opnd f.a] = some c →
        exec i s = .next (s.trap c 0 g.exec 0)) ∧
      (g.memFault f.u f.space [{ f := f.d, k := runLen f.size, write := true }, f.space.opnd f.a] = none →
        outcome i f.u false f.ordered f.size (fun _ => .load f.size) ls (if f.ordered then t.drainOwn else t))) ∧
    (∀ (i : Instr) (f : MemForm), storeOf i = some f →
      let k : AccessKind := { size := f.size, write := true }
      let lanes := if f.u then [0] else lanesOf g.exec
      let ls := s.laneResults g f.u f.space f.a f.off k lanes
      (∀ c, g.memFault f.u f.space [{ f := f.d, k := runLen f.size, write := false }, f.space.opnd f.a] = some c →
        exec i s = .next (s.trap c 0 g.exec 0)) ∧
      (g.memFault f.u f.space [{ f := f.d, k := runLen f.size, write := false }, f.space.opnd f.a] = none →
        outcome i f.u false false f.size (fun _ => .load f.size) ls (stored f.size (fun lane j => if f.u then g.uni (f.d + j) else g.lane (f.d + j) lane) f.ordered ls
          (g.accessVas f.u f.space f.a f.off k lanes)))) ∧
    (∀ (i : Instr) (f : AtomicForm), atomicOf i = some f → f.op ≤ 8 → f.returns = true ∨ f.op ≠ 7 →
      let k : AccessKind := { size := f.size, write := true, atomic := true, op := f.op }
      let ls := s.laneResults g false f.space f.a 0 k (lanesOf g.exec)
      let run := if f.op = 7 then f.size / 2 else f.size / 4
      let word := fun d j => ofWords ((List.range (f.size / 4)).map fun k => g.lane (d + k) j)
      let t : State := { s with tlb := (s.fillLanes g .store (g.accessVas false f.space f.a 0 k (lanesOf g.exec))).tlb }
      (∀ c, g.memFault false f.space [{ f := f.d, k := run, write := f.returns }, f.space.opnd f.a] = some c →
        exec i s = .next (s.trap c 0 g.exec 0)) ∧
      (g.memFault false f.space [{ f := f.d, k := run, write := f.returns }, f.space.opnd f.a] = none →
        outcome i false true true f.size (fun j => .atomic f.size f.op (BitVec.ofNat 64 (word f.d j))
          (if f.op = 7 then BitVec.ofNat 64 (word (f.d + f.size / 4) j) else 0)) ls (t.drainOwn.atomicLanes g f.d f.size f.op (if f.returns then vec f.d (f.size / 4) else .none) ls.clear))) ∧
    (∀ (k : BitVec 3) (d : BitVec 7) (n : BitVec 8),
      let m := g.act k.toNat
      let va := fun j => (BitVec.ofNat 64 (32768 * g.spb.toNat + 128 * n.toNat + 4 * j) : DWord)
      let meets := fun (write : Bool) => (lanesOf m).map fun j =>
        (j, s.globalLane g { size := 4, write := write, ranges := false } { va := va j, pa := none })
      let vas : List GAddr := (lanesOf m).map fun j => { va := va j, pa := none }
      m ≠ 0 → g.allocated [d.toNat] →
      (goodDest d.toNat → outcome (.ldspill k d n) false false false 4 (fun _ => .load 4) (meets false) (loaded (vec d.toNat 1) 4 false (meets false) vas)) ∧
      outcome (.stspill k d n) false false false 4 (fun _ => .load 4) (meets true) (stored 4 (fun lane _ => g.lane d.toNat lane) false (meets true) vas))

/-- 05 R58, 11 R152, 13 R174, 15 R202, R205: LDSPILL and STSPILL load and store one word a lane at 32,768·SPB + 128·k + 4·i, in the lanes
with act(i), through ordinary translation and no write range. PREF changes nothing but the lookaside buffers. XLAT makes
translation register k from the walk of the address in a pair: valid, writable as the page is, VBASE the address and BASE its
physical one, LIMIT reaching at least to the page's end, and ending there where the next page is not mapped; a k of 0 or above
7 or a pair outside the broadcasts is an illegal operand, and a walk that fails a page fault. -/
def Obligations.SpillsPrefetchAndXlat : Prop :=
  ∀ s : State, let g := s.grp
    g.retry = none → g.remote = none → g.held 0 = false →
    (∀ (k : BitVec 3) (d : BitVec 7) (n : BitVec 8) (good : List (Nat × DWord × MemLoc)),
      let m := g.act k.toNat
      let va := fun j => (BitVec.ofNat 64 (32768 * g.spb.toNat + 128 * n.toNat + 4 * j) : DWord)
      let meets := fun (write : Bool) => (lanesOf m).map fun j =>
        (j, s.globalLane g { size := 4, write := write, ranges := false } { va := va j, pa := none })
      let vas : List GAddr := (lanesOf m).map fun j => { va := va j, pa := none }
      (m ≠ 0 → goodDest d.toNat → g.allocated [d.toNat] → meets false = good.map (fun x => (x.1, LaneRes.ok x.2.1 x.2.2)) →
        let q := s.qfenceDrain 0
        exec (.ldspill k d n) s = .next { q with
          tlb := (q.fillLanes g .load vas).tlb
          grp := { q.grp with
            seq := q.grp.seq + 1, remote := none, pc := nextSlot g.pc
            pend := if good = [] then q.grp.pend else q.grp.pend ++ [{
              seq := g.seq, tag := g.gentag, size := 4, signExt := false
              dest := if d.toNat ≤ 111 then .vec (16 * g.winbase.toNat + d.toNat) 1 else .none
              lanes := good.map fun x => { lane := x.1, va := x.2.1, loc := x.2.2 } }] } }) ∧
      (m ≠ 0 → g.allocated [d.toNat] → meets true = good.map (fun x => (x.1, LaneRes.ok x.2.1 x.2.2)) →
        exec (.stspill k d n) s = .next { s with
          tlb := (s.fillLanes g .store vas).tlb
          grp := { g with
            seq := g.seq + 1, pc := nextSlot g.pc
            storeQ := if good = [] then g.storeQ else g.storeQ ++ [{
              seq := g.seq, since := s.clock, vd := g.vd
              parts := good.map fun x =>
                { lane := x.1, va := x.2.1, loc := x.2.2, bytes := toBytes 4 (g.lane d.toNat x.1).toNat } }] } }) ∧
      (m = 0 → exec (.ldspill k d n) s = .next { s with grp := { g with pc := nextSlot g.pc } } ∧
        exec (.stspill k d n) s = .next { s with grp := { g with pc := nextSlot g.pc } })) ∧
    (∀ (x : BitVec 3) (a : BitVec 7) (z : BitVec 3) (c : BitVec 5), z.toNat ≤ 4 →
      g.memFault false (.global x.toNat) [(Space.global x.toNat).opnd a.toNat] = none →
      ∃ l, exec (.pref x a z c) s = .next { s with tlb := l, grp := { g with pc := nextSlot g.pc } }) ∧
    (∀ (d a : BitVec 7) (w : BitVec 1), let va := g.spairSrc (a.toNat - 112)
      (d = 0 ∨ 7 < d.toNat ∨ a.toNat < 112 ∨ 125 < a.toNat → exec (.xlat d a w) s = .next (s.trap 0x06 0 g.exec 0)) ∧
      (1 ≤ d.toNat → d.toNat ≤ 7 → 112 ≤ a.toNat → a.toNat ≤ 125 →
        (∀ e, s.devTranslate g.vd .load va = .fault e → exec (.xlat d a w) s = .next (s.trap 0x20 e g.exec va)) ∧
        (∀ pa, s.devTranslate g.vd .load va = .ok pa →
          (∀ e, w = 1 → s.devTranslate g.vd .store va = .fault e →
            exec (.xlat d a w) s = .next (s.trap 0x20 (0x10 + e) g.exec va)) ∧
          (w = 0 ∨ (∃ pb, s.devTranslate g.vd .store va = .ok pb) →
            ∃ r x, exec (.xlat d a w) s = .next { s with grp := { g with xs := r, pc := nextSlot g.pc } } ∧
              (∀ j, nget {} r j = if j = d.toNat then x else g.xreg j) ∧ x.valid = true ∧ x.vbase = va ∧
              x.base = BitVec.ofNat 64 pa ∧ (∀ e sh, s.walk g.vd va.toNat = .leaf e sh → x.wr = e.testBit 3 ∧
                let left := 2 ^ sh - va.toNat % 2 ^ sh
                min 0xFFFFFFFF left ≤ x.limit.toNat ∧
                (s.walk g.vd (va.toNat + left) = .notPresent → x.limit.toNat = min 0xFFFFFFFF left))))))

/-- 15 R206-R214: copies and table commands hand their work to an engine queue and go on, changing no byte that they copy. CPY has one
part a lane, from and to where its direction says (0 global to scratchpad, 1 back, 2 and 3 within one space); LDTS one part a lane
into scratchpad, counted in PENDING of its barrier object; parts towards scratchpad make their lines EMPTY. GATH and SCAT queue
the block their operands give, GATH making every line of its area EMPTY; MCAST queues a part per 16 bytes for each resident team
of its mask with room for them, and marks the others dropped. Stated for operands that pass the checks of R206, R210 and R213. -/
def Obligations.CopiesAreQueued : Prop :=
  ∀ (s : State) (t : Team), let g := s.grp
    let queued := fun (u : State) (q : Nat) (kind : OpKind) => ({ u with grp := { g with
      queues := nset [] g.queues q (g.queue q ++ [{ seq := g.seq, kind := kind }]), seq := g.seq + 1, pc := nextSlot g.pc } } : State)
    g.retry = none → g.remote = none → g.qfences = [] → g.exec ≠ 0 → s.team g.team = some t →
    (∀ (x : BitVec 3) (d a : BitVec 7) (z : BitVec 3) (r q : BitVec 2),
      let n := 2 ^ z.toNat
      let srcSp := if r = 0 ∨ r = 3 then Space.global x.toNat else .scratch
      let dstSp := if r = 1 ∨ r = 3 then Space.global x.toNat else .scratch
      let place := fun (sp : Space) (f : Nat) (write : Bool) (i : Nat) => match sp with
        | .scratch => CopyEnd.scratch (g.lane f i).toNat
        | .global x => .global (g.globalAddr x (fun k => g.lane (f + k) i) 0 n write)
      let part := fun i => ({ src := place srcSp a.toNat false i, dst := place dstSp d.toNat true i, size := n } : CopyPart)
      2 ≤ z.toNat → z.toNat ≤ 4 → r ≠ 2 ∨ x = 0 → g.badX srcSp = false → g.badX dstSp = false →
      g.vecFault [srcSp.opnd a.toNat, dstSp.opnd d.toNat] = none →
      (∀ i ∈ lanesOf g.exec, s.endCheck (part i).src n false = none ∧ s.endCheck (part i).dst n true = none) →
      exec (.cpy x d a z r q) s = .next (queued { s with
        teams := (s.issueParts ((lanesOf g.exec).map part)).teams } q.toNat (.copy ((lanesOf g.exec).map part) none))) ∧
    (∀ (x : BitVec 3) (d a : BitVec 7) (z : BitVec 3) (q : BitVec 2) (b : Nat),
      let n := 2 ^ z.toNat
      let word := fun i => (g.lane d.toNat i).toNat
      let part := fun i => ({
        src := .global (g.globalAddr x.toNat (fun k => g.lane (a.toNat + k) i) 0 n false)
        dst := .scratch (word i % 2 ^ 21), size := n } : CopyPart)
      let obj := g.barbase.toNat / 16 * 16 + 16 * b
      let o := t.obj obj
      2 ≤ z.toNat → z.toNat ≤ 4 →
      g.memFault false (.global x.toNat) [rd d.toNat, (Space.global x.toNat).opnd a.toNat] = none →
      (∀ i ∈ lanesOf g.exec, word i / 2 ^ 27 = 0 ∧ word i / 2 ^ 21 = b ∧
        s.endCheck (part i).src n false = none ∧ s.endCheck (part i).dst n true = none) →
      obj + 16 ≤ t.alloc → bPending o < 0x7FFF →
      exec (.ldts x d a z q) s = .next (queued { s with
        teams := ((s.putScratch g.team obj (toBytes 16 (setField o 65 15 (bPending o + 1)))).issueParts
          ((lanesOf g.exec).map part)).teams } q.toNat (.copy ((lanesOf g.exec).map part) (some obj)))) ∧
    (∀ (d a : BitVec 7) (w : BitVec 1), 112 ≤ a.toNat → a.toNat ≤ 120 → 112 ≤ d.toNat → d.toNat ≤ 126 →
      let k := a.toNat - 112
      let b : TableBlock := {
        list := g.spairSrc k, table := g.spairSrc (k + 2), rowBytes := (g.ssrc (k + 4)).toNat, rows := (g.ssrc (k + 5)).toNat
        count := (g.ssrc (k + 6)).toNat, width := if w = 1 then 2 else 4, base := (g.ssrc (d.toNat - 112)).toNat }
      let parts := b.count * (b.rowBytes / 16)
      16 ≤ b.rowBytes → b.rowBytes ≤ 32768 → b.rowBytes % 16 = 0 → 1 ≤ b.rows → 1 ≤ b.count → b.count ≤ 4096 →
      b.list.toNat % b.width = 0 → b.table.toNat % 16 = 0 → b.base % 16 = 0 → b.base + b.count * b.rowBytes ≤ t.alloc →
      exec (.gath d a w) s = .next (queued { s with
          teams := ((List.range parts).foldl (fun u j => u.issuePart g.team (b.base + 16 * j) 16) s).teams } 5
        (.gather b (List.replicate b.count .unread) (List.replicate parts false))) ∧
      (∀ (kind : BitVec 2) (m : BitVec 1), kind ≠ 3 → m = 1 ∨ kind = 0 →
        exec (.scat d a kind m w) s =
          .next (queued s 5 (.scatter b (m = 1) kind.toNat false (List.replicate b.count .unread) [] [])))) ∧
    (∀ (d a : BitVec 7), 112 ≤ a.toNat → a.toNat ≤ 122 → goodDest d.toNat → g.allocated [d.toNat] →
      let r := fun j => (g.ssrc (a.toNat - 112 + j)).toNat
      let parts := ((List.range 16).filter fun m => (r 4).testBit m).flatMap fun m => s.mcastParts g (r 3) m (r 2) (r 1)
      16 ≤ r 1 → r 1 ≤ 65536 → r 1 % 16 = 0 → 0 < r 4 → r 4 < 0x10000 → r 0 % 16 = 0 → r 2 % 16 = 0 → r 0 + r 1 ≤ t.alloc →
      ∃ dropped, exec (.mcast d a) s = .next (queued s 5 (.mcast (r 0) (r 1) (r 2) parts none dropped
          (if d.toNat ≤ 111 then .vec (16 * g.winbase.toNat + d.toNat) 1 else .none) g.exec)) ∧
        ∀ m, m < 16 → (dropped.testBit m ↔ (r 4).testBit m ∧ ∀ p ∈ parts, p.m ≠ m))

/-- 13 R169, R170, 15 R206, R207, R211-R214: the parts of queued copies, gathers, scatters and multicasts, at the head of their
queue: what COPY_PART_ARRIVAL, COPY_PART_FAULT, SCATTER_ROW_WRITE and MCAST_PART_ARRIVAL complete with. A part of a copy or
gather whose source can be read arrives: its bytes stand at its destination, in scratchpad with the
count of its lines one lower and a line whose last part it was FULL; what it reads or writes at a peer leaves as a request (R346). A
part that fails leaves its detail and address in the queue's record, if that is empty, and poisons its lines: an unreadable source
(1), a destination's page (2) or write range (10); a gather's index read (3) or range (4) and row read (5); the same of a source or
destination at the host or a peer, where the access fails: the event's part numbers from the number of parts on name the second
access of a part, the write of a copy and the row of a gather. A copy that reads a POISONED line ends, whatever parts are not
done, all its destination lines POISONED (R170). The last part ends the operation, and an LDTS then arrives at its barrier object. A
scatter reads its indices, a row of POISONED lines failing (1), and then writes, part by part, each row once: .ORD the bytes of the
last position that names it, .ADD its own elements with those of every such position added in order, one rounding each (R212);
where no row is left it is over. A multicast reads its source once, when every line of it is FULL (log 50): an EMPTY line
delays it, a POISONED one drops every destination with detail 1. A destination accepts it, the counts of its lines raised by all
its parts, and each part then arrives, where its team still has the generation it was issued for; otherwise the part is dropped
and counted. The last part writes the status. A part that waits for its page or line stays. The addresses that records name, and
which of several failures of a part is recorded, are log 54's. -/
def Obligations.CopyPartsArriveOrFail : Prop :=
  (∀ l : Line,
    (l.issued 1 = { state := if l.state = .poisoned ∧ 0 < l.count then .poisoned else .empty, count := l.count + 1 }) ∧
    l.arrives = { state := if l.state = .empty ∧ l.count ≤ 1 then .full else l.state, count := l.count - 1 } ∧
    l.faults = { state := .poisoned, count := l.count - 1 }) ∧
  (∀ (s : State) (q seq i : Nat) (parts : List CopyPart) (bar : Option Nat) (rest : List EngineOp) (p : CopyPart),
    let g := s.grp
    let ps := parts.set i { p with done := true }
    let whole := fun (t : State) =>
      let u : State := { t with grp := t.grp.opDone q seq }
      match bar with | some a => u.copyArrival g.team a | none => u
    let finish := fun (t : State) =>
      if ps.all fun p => p.done then whole t else { t with grp := t.grp.setQueue q (⟨seq, .copy ps bar⟩ :: rest) }
    let ask := fun (u : State) (pa : Nat) (k : PeerKind) => if inPeer pa then ({ u with hostOut := u.hostOut ++ [.remoteRequest
      { domid := s.domid, peerGroup := (s.vd g.vd).peergrp, addr := pa, kind := k }] } : State) else u
    let asked : State := match p.src with
      | .scratch _ => s
      | .global a => match s.resolve g .load a with | .ok pa => ask s pa (.load p.size) | _ => s
    let noted := fun (u : State) (d : Nat) (a : DWord) => ({ u with grp := { g with
      records := nset none g.records q ((g.record q).or (some ⟨d, a⟩)) } } : State)
    let failed := fun (u : State) (d : Nat) (a : DWord) => match p.dst with
      | .scratch off => (noted u d a).modTeam g.team fun t =>
          { (linesTouched off p.size).foldl (fun t l => t.modLine l Line.faults) t with poison := some ⟨d, a⟩ }
      | .global _ => noted u d a
    let arrives := exec (.copyPartArrival g.id q i) s
    let faults := fun (second : Bool) => exec (.copyPartFault g.id q (if second then parts.length + i else i)) s
    g.saved = false → g.queue q = ⟨seq, .copy parts bar⟩ :: rest → parts[i]? = some p → p.done = false →
    (∀ a pa, p.src = .global a → s.resolve g .load a = .ok pa → s.badRange pa p.size = false →
      s.readPart g p.src p.size = .bytes (s.bytes pa p.size)) ∧
    (∀ off (t : Team), p.src = .scratch off → s.team g.team = some t → t.worst off p.size = .full →
      s.readPart g p.src p.size = .bytes ((List.range p.size).map fun k => t.byte (off + k))) ∧
    (∀ bs, s.readPart g p.src p.size = .bytes bs →
      (∀ off, p.dst = .scratch off →
        arrives = .next (finish (asked.modTeam g.team fun t =>
          (linesTouched off bs.length).foldl (fun t l => t.modLine l Line.arrives) { t with scratch := putBytes t.scratch off bs })) ∧
        ∀ a second, p.src = .global a → s.endRemote g .load p.src = true → faults second = .next (finish (failed asked 1 a.va))) ∧
      (∀ a pa, p.dst = .global a → s.inRanges g a.va p.size = true → s.resolve g .store a = .ok pa →
        arrives = .next (finish ((ask asked pa (.store bs)).putMem pa bs)) ∧
        (∀ b, p.src = .global b → s.endRemote g .load p.src = true → faults false = .next (finish (noted asked 1 b.va)) ∧
          (s.isRemote pa = false → faults true = .next (finish (noted asked 1 b.va)))) ∧
        (s.isRemote pa = true → faults true = .next (finish (noted (ask asked pa (.store bs)) 2 a.va)) ∧
          (s.endRemote g .load p.src = false → faults false = .next (finish (noted (ask asked pa (.store bs)) 2 a.va))))) ∧
      (∀ a second, p.dst = .global a → s.inRanges g a.va p.size = false →
        arrives = .next s ∧ faults second = .next (finish (noted asked 10 a.va))) ∧
      (∀ a d second, p.dst = .global a → s.inRanges g a.va p.size = true → s.resolve g .store a = .fault d →
        arrives = .next s ∧ faults second = .next (finish (noted asked 2 a.va))) ∧
      (∀ a, p.dst = .global a → s.inRanges g a.va p.size = true → s.resolve g .store a = .stall → arrives = .next s)) ∧
    (∀ a d x second, p.src = .global a → s.readPart g p.src p.size = .failed d x →
      arrives = .next s ∧ d = 1 ∧ x = a.va ∧ faults second = .next (finish (failed s 1 a.va))) ∧
    (∀ off (t : Team) second, p.src = .scratch off → s.team g.team = some t → t.worst off p.size = .poisoned →
      let u := s.endCopy g q (BitVec.ofNat 64 off) parts
      arrives = .next s ∧ faults second = .next (whole u) ∧
        u.grp.record q = (g.record q).or (some ⟨1, BitVec.ofNat 64 off⟩) ∧
        ∀ (t' : Team) (p' : CopyPart) (o : Nat), u.team g.team = some t' → p' ∈ parts → p'.dst = .scratch o → 0 < p'.size →
          t'.worst o p'.size = .poisoned) ∧
    (s.readPart g p.src p.size = .wait → arrives = .next s)) ∧
  (∀ (s : State) (seq k : Nat) (b : TableBlock) (index : List IndexState) (done : List Bool) (rest : List EngineOp),
    let g := s.grp
    let p := k / b.perRow
    let j := k % b.perRow
    let ask := fun (u : State) (pa : Nat) (k : PeerKind) => if inPeer pa then ({ u with hostOut := u.hostOut ++ [.remoteRequest
      { domid := s.domid, peerGroup := (s.vd g.vd).peergrp, addr := pa, kind := k }] } : State) else u
    let ix := match index.getD p .unread with | .unread => s.readIndex g b p 3 4 | i => i
    let asked : State := match index.getD p .unread with
      | .unread => match s.translate g.agent g.vd .load (b.indexVa p) with | .ok pa => ask s pa (.load b.width) | _ => s
      | _ => s
    let finish := fun (ix : IndexState) (t : State) =>
      if (done.set k true).all (· == true) then { t with grp := t.grp.opDone 5 seq }
      else { t with grp := t.grp.setQueue 5 (⟨seq, .gather b (index.set p ix) (done.set k true)⟩ :: rest) }
    let failed := fun (u : State) (d : Nat) (a : DWord) => State.modTeam { u with grp := { g with
        records := nset none g.records 5 ((g.record 5).or (some ⟨d, a⟩)) } } g.team fun t =>
      { (linesTouched (b.off p j) 16).foldl (fun t l => t.modLine l Line.faults) t with poison := some ⟨d, a⟩ }
    let far := index.getD p .unread = .unread ∧ s.endRemote g .load (.global ⟨b.indexVa p, none⟩) = true
    let arrives := exec (.copyPartArrival g.id 5 k) s
    let faults := fun (second : Bool) => exec (.copyPartFault g.id 5 (if second then done.length + k else k)) s
    g.saved = false → g.queue 5 = ⟨seq, .gather b index done⟩ :: rest → done[k]? = some false →
    (∀ r l, (∀ d, s.translate g.agent g.vd .load (b.indexVa p) = .fault d → s.readIndex g b p r l = .failed r) ∧
      (∀ pa, s.translate g.agent g.vd .load (b.indexVa p) = .ok pa →
        s.readIndex g b p r l = (if s.badRange pa b.width then .failed r
          else if b.rows ≤ s.num pa b.width then .failed l else .row (s.num pa b.width)))) ∧
    (∀ d second, ix = .failed d → arrives = .next s ∧ faults second = .next (finish ix (failed asked d (b.indexVa p)))) ∧
    (ix = .unread → arrives = .next s) ∧
    (∀ x, ix = .row x →
      (∀ pa, s.translate g.agent g.vd .load (b.rowVa x j) = .ok pa → s.badRange pa 16 = false →
        arrives = .next (finish ix ((ask asked pa (.load 16)).modTeam g.team fun t => (linesTouched (b.off p j) 16).foldl
          (fun t l => t.modLine l Line.arrives) { t with scratch := putBytes t.scratch (b.off p j) (s.bytes pa 16) })) ∧
        (far → faults false = .next (finish (.failed 3) (failed asked 3 (b.indexVa p))) ∧
          (s.isRemote pa = false → faults true = .next (finish (.failed 3) (failed asked 3 (b.indexVa p))))) ∧
        (s.isRemote pa = true → faults true = .next (finish ix (failed (ask asked pa (.load 16)) 5 (b.rowVa x j))) ∧
          (¬ far → faults false = .next (finish ix (failed (ask asked pa (.load 16)) 5 (b.rowVa x j)))))) ∧
      (∀ second, (∃ d, s.translate g.agent g.vd .load (b.rowVa x j) = .fault d) ∨
          (∃ pa, s.translate g.agent g.vd .load (b.rowVa x j) = .ok pa ∧ s.badRange pa 16 = true) →
        arrives = .next s ∧ faults second = .next (finish ix (failed asked 5 (b.rowVa x j)))) ∧
      (s.translate g.agent g.vd .load (b.rowVa x j) = .stall → arrives = .next s))) ∧
  (∀ (s : State) (seq : Nat) (b : TableBlock) (add : Bool) (kind k : Nat) (rest : List EngineOp) (index : List IndexState) (tm : Team),
    let g := s.grp
    let ask := fun (u : State) (pa : Nat) (k : PeerKind) => if inPeer pa then ({ u with hostOut := u.hostOut ++ [.remoteRequest
      { domid := s.domid, peerGroup := (s.vd g.vd).peergrp, addr := pa, kind := k }] } : State) else u
    let noted := fun (u : State) (d : Nat) (a : DWord) => ({ u with grp := { u.grp with
      records := nset none u.grp.records 5 ((u.grp.record 5).or (some ⟨d, a⟩)) } } : State)
    let writes := exec (.scatterRowWrite g.id k) s
    let faults := exec (.copyPartFault g.id 5 k) s
    g.saved = false → s.team g.team = some tm →
    (∀ (rows : List Nat) (done : List Bool), g.queue 5 = ⟨seq, .scatter b add kind true index rows done⟩ :: rest →
      done[k]? = some false →
      let x := rows.getD (k / b.perRow) 0
      let j := k % b.perRow
      let va := b.rowVa x j
      let finish := fun (t : State) =>
        if (done.set k true).all (· == true) then ({ t with grp := t.grp.opDone 5 seq } : State)
        else { t with grp := t.grp.setQueue 5 (⟨seq, .scatter b add kind true index rows (done.set k true)⟩ :: rest) }
      let all := (List.range index.length).filter fun p => index.getD p .unread = .row x
      let line := fun (p : Nat) => tm.worst (b.off p j) 16
      let good := all.filter fun p => line p ≠ .poisoned
      let began : State := match all.find? fun p => line p = .poisoned with
        | some p => noted s 1 (BitVec.ofNat 64 (b.off p j))
        | none => s
      let bytes := fun (p : Nat) => (List.range 16).map fun i => tm.byte (b.off p j + i)
      let element := fun (bs : List Byte) (e : Nat) => BitVec.ofNat 32 (ofBytes ((bs.drop (4 * e)).take 4))
      let combine := fun (t u : Word) =>
        if kind = 0 then fadd32 .rn t u else if kind = 1 then t + u else packed2 (bf16.addBits .rn) t u
      (s.inRanges g va 16 = false → writes = .next (finish (noted s 10 va)) ∧ faults = .next (finish (noted s 10 va))) ∧
      (s.inRanges g va 16 = true →
        (∀ d, s.translate g.agent g.vd .store va = .fault d →
          writes = .next (finish (noted s 8 va)) ∧ faults = .next (finish (noted s 8 va))) ∧
        (s.translate g.agent g.vd .store va = .stall → writes = .next s) ∧
        (∀ pa, s.translate g.agent g.vd .store va = .ok pa →
          ((∃ p ∈ all, line p = .empty) → writes = .next s) ∧
          ((∀ p ∈ all, line p ≠ .empty) → good = [] → writes = .next (finish began)) ∧
          ((∀ p ∈ all, line p ≠ .empty) → good ≠ [] → ∃ bs : List Byte, bs.length = 16 ∧
            (add = false → bs = bytes (good.getLast?.getD 0)) ∧
            (add = true → ∀ e < 4, element bs e =
              good.foldl (fun t p => combine t (element (bytes p) e)) (element (s.bytes pa 16) e)) ∧
            let sent := ask (if add then ask began pa (.load 16) else began) pa (.store bs)
            writes = .next (finish (sent.putMem pa bs)) ∧
            (s.isRemote pa = true → faults = .next (finish (noted sent 8 va))))))) ∧
    (g.queue 5 = ⟨seq, .scatter b add kind false index [] []⟩ :: rest →
      let got := fun (p : Nat) => match index.getD p .unread with | .unread => s.readIndex g b p 6 7 | i => i
      (k < b.count → index.getD k .unread = .unread → s.endRemote g .load (.global ⟨b.indexVa k, none⟩) = true →
        faults = .next { s with grp := g.setQueue 5 (⟨seq, .scatter b add kind false (index.set k (.failed 6)) [] []⟩ :: rest) }) ∧
      (tm.anyEmpty b = true ∨ (∃ p < b.count, got p = .unread) → writes = .next s) ∧
      (tm.anyEmpty b = false → (∀ p < b.count, got p ≠ .unread) →
        let ix := (List.range b.count).map fun p => match got p with
          | .row x => if tm.worst (b.off p 0) b.rowBytes = .poisoned then .failed 1 else .row x
          | i => i
        let asked := (List.range b.count).foldl (fun u p => match index.getD p .unread with
          | .unread => match s.translate g.agent g.vd .load (b.indexVa p) with | .ok pa => ask u pa (.load b.width) | _ => u
          | _ => u) s
        ∃ (rows : List Nat) (first : Option FaultRec), rows.Nodup ∧ (∀ x, x ∈ rows ↔ .row x ∈ ix) ∧
          (first = none ↔ ∀ d, .failed d ∉ ix) ∧
          (∀ p d, ix[p]? = some (.failed d) → (∀ p' < p, ∀ d', ix[p']? ≠ some (.failed d')) →
            first = some ⟨d, if d = 1 then BitVec.ofNat 64 (b.off p 0) else b.indexVa p⟩) ∧
          let began : State := match first with | some r => noted asked r.detail r.addr | none => asked
          (rows = [] → rest = [] → writes = .next { began with grp := began.grp.opDone 5 seq }) ∧
          (rows ≠ [] → let op := OpKind.scatter b add kind true ix rows (List.replicate (rows.length * b.perRow) false)
            writes = exec (.scatterRowWrite g.id k) { began with grp := began.grp.setQueue 5 (⟨seq, op⟩ :: rest) })))) ∧
  (∀ (s : State) (seq src bytes dst : Nat) (parts : List McastPart) (data : Option (List Byte)) (dropped : Nat) (dest : Dest)
      (m : Mask) (rest : List EngineOp) (own : Team),
    let g := s.grp
    let turn := fun (t : State) (ps : List McastPart) (bs : List Byte) (drop : Nat) =>
      if ps.all fun p => p.done then
        ({ t with grp := (t.grp.writeDest dest 0 m fun _ => mcastStatus ps drop).opDone 5 seq } : State)
      else { t with grp := t.grp.setQueue 5 (⟨seq, .mcast src bytes dst ps (some bs) drop dest m⟩ :: rest) }
    g.saved = false → g.queue 5 = ⟨seq, .mcast src bytes dst parts data dropped dest m⟩ :: rest → s.team g.team = some own →
    (data = none → own.worst src bytes = .empty → ∀ i, exec (.mcastPartArrival g.id i) s = .next s) ∧
    (data = none → own.worst src bytes = .poisoned → ∃ all, (∀ k < 16, all.testBit k = (dropped.testBit k || parts.any fun p => p.m = k)) ∧
      ∀ i, exec (.mcastPartArrival g.id i) s = .next { s with grp :=
        (Group.writeDest { g with records := nset none g.records 5 ((g.record 5).or (some ⟨1, BitVec.ofNat 64 src⟩)) } dest 0 m
          fun _ => mcastStatus (parts.map fun p => { p with done := true }) all).opDone 5 seq }) ∧
    (∀ bs, data = some bs ∨
        (data = none ∧ own.worst src bytes = .full ∧ bs = (List.range bytes).map fun i => own.byte (src + i)) →
      (∀ i, parts = [] → exec (.mcastPartArrival g.id i) s = .next (turn s [] bs dropped)) ∧
      (∀ (i : Nat) (p : McastPart) (other : Team), parts[i]? = some p → p.done = false → s.team p.team = some other →
        (other.saved = false → other.gen = p.gen → p.accepted = false →
          exec (.mcastPartArrival g.id i) s = .next (turn
            ((parts.filter fun x => x.m = p.m).foldl (fun u x => u.issuePart x.team x.off 16) s)
            (parts.map fun x => if x.m = p.m then { x with accepted := true } else x) bs dropped)) ∧
        (other.saved = false → other.gen = p.gen → p.accepted = true →
          exec (.mcastPartArrival g.id i) s = .next (turn
            (s.arrivePart p.team p.off ((bs.drop (p.off - dst)).take 16)) (parts.set i { p with done := true }) bs dropped))) ∧
      (∀ (i : Nat) (p : McastPart), parts[i]? = some p → p.done = false →
        (∀ other, s.team p.team = some other → other.saved = true ∨ other.gen ≠ p.gen) →
        exec (.mcastPartArrival g.id i) s = .next (turn (s.modVd g.vd fun d => { d with mcdrop := d.mcdrop + 1 })
          (parts.set i { p with done := true }) bs (dropped ||| 2 ^ p.m)))))

/-- 15 R215-R219: an arrival at object b of the team, at BARBASE + 16·b, comes after everything the group has outstanding, and after
a QFENCE that names the ordinary path, after the queues it names too (13 R195). It puts the
value of its lanes into ACC (alone where it is the first of the phase, else combined as the op says) and adds 1 to ARRIVED; with
as many arrived as expected, or reserved bits set, it is an illegal operand. BAR parks until the phase ends, BARARR goes on with
the token, the old PHASE, in d. The arrival that leaves ARRIVED equal to EXPECTED with nothing pending flips PHASE, clears ARRIVED
and gives every group of the team parked there ACC, or lets it go on from a BARWAIT. BARWAIT reads PHASE after the group's earlier
loads and with its own queued stores (13 R181, R182, R185), and goes on where it differs from its token, and parks otherwise. -/
def Obligations.BarriersEndTheirPhases : Prop :=
  ∀ (s : State) (d a : BitVec 7) (op : BitVec 2) (b : BitVec 6) (t0 t : Team),
    let g := s.grp
    let u := s.drainOwn
    let addr := g.barbase.toNat / 16 * 16 + 16 * b.toNat
    let o := t.obj addr
    let v := arrivalValue op.toNat ((lanesOf g.exec).map fun j => g.lane a.toNat j)
    let acc := if bArrived o = 0 then v else arrivalCombine op.toNat (bAcc o) v
    let o1 := setField (setField o 0 32 acc.toNat) 32 16 (bArrived o + 1)
    let flipped := setField (setField o1 32 16 0) 64 1 (if bPhase o1 then 0 else 1)
    let put := fun (x : State) (o : Nat) => x.putScratch g.team addr (toBytes 16 o)
    let woken := fun (w : Group) => match w.wait with
      | some (.bar x p dest m) => if (w.team = g.team ∧ x = addr ∧ p = bPhase o1) then
          (w.writeDest dest 0 m fun _ => bAcc o1).finish else w
      | some (.barwait x p next) => if (w.team = g.team ∧ x = addr ∧ p = bPhase o1) then w.finishAt next else w
      | _ => w
    let parked : Group := { u.grp with
      wait := some (.bar addr (bPhase o) (g.vdest d.toNat) u.grp.exec), active := false }
    let tokened := u.grp.putLanes d.toNat u.grp.exec fun _ => if bPhase o then 1 else 0
    g.retry = none → goodDest d.toNat → g.allocated [d.toNat, a.toNat] →
    s.team g.team = some t0 → addr + 16 ≤ t0.alloc → t0.worst addr 16 = .full → u.team g.team = some t →
    (u.grp.pend = [] ∧ u.grp.storeQ = []) ∧
    (g.held 0 = true →
      let p : State := { s with grp := { g with wait := some (.paths 0), active := false } }
      exec (.bar d a op b) s = .next p ∧ exec (.bararr d a op b) s = .next p) ∧
    (g.held 0 = false → bExpected o ≤ bArrived o ∨ field o 80 48 ≠ 0 →
      exec (.bar d a op b) s = .next (u.trap 0x06 0 u.grp.exec 0) ∧ exec (.bararr d a op b) s = .next (u.trap 0x06 0 u.grp.exec 0)) ∧
    (g.held 0 = false → bArrived o < bExpected o → field o 80 48 = 0 →
      (bArrived o1 ≠ bExpected o1 ∨ bPending o1 ≠ 0 →
        exec (.bar d a op b) s = .next { put u o1 with grp := parked } ∧
        exec (.bararr d a op b) s = .next { put u o1 with grp := { tokened with pc := nextSlot g.pc } }) ∧
      (bArrived o1 = bExpected o1 → bPending o1 = 0 →
        exec (.bar d a op b) s = .next { put u flipped with grp := woken parked, others := u.others.map woken } ∧
        (g.wait = none → exec (.bararr d a op b) s = .next { put u flipped with
          grp := { tokened with pc := nextSlot g.pc }, others := u.others.map woken }))) ∧
    (let tok := (g.lane a.toNat ((lowestLane g.exec).getD 0)).getLsbD 0
      let r := s.loadsFirst
      let phase := bPhase (ofBytes ((List.range 16).map fun i =>
        (r.grp.forwarded r.grp.seq (.scratch t0.id (addr + i))).getD (r.locByte (.scratch t0.id addr) i)))
      r.grp.pend = [] ∧
      (g.held 0 = true → exec (.barwait a b) s = .next { r with grp := { r.grp with wait := some (.paths 0), active := false } }) ∧
      (g.held 0 = false → phase ≠ tok → exec (.barwait a b) s = .next { r with grp := { r.grp with pc := nextSlot g.pc } }) ∧
      (g.held 0 = false → phase = tok → exec (.barwait a b) s = .next { r with
        grp := { r.grp with wait := some (.barwait addr tok (nextSlot g.pc)), active := false } }))

/-- 11 R127, 15 R220-R223, 25 R323: NOP only goes on. FENCE performs everything the group has outstanding, and at SYS raises the
sticky remote error, cleared, as the remote-fault trap with 0x10 added to its detail. QFENCE raises, cleared, the record of the
first queue it names as a copy fault, before a sticky error (the model's order, log 34: the rules give none), and else notes its
mask in the program order. PAUSE n makes the group the youngest for n clk,
or for as long as a pause still running, and changes nothing else; PAUSE 0 has no effect. YIELD goes to its continuation where its condition holds and parks with it otherwise (.BAR reads
PHASE as BARWAIT does); a continuation on a frame header is a misaligned target, and the reserved kind an illegal instruction. -/
def Obligations.FencesPausesAndYields : Prop :=
  ∀ s : State, let g := s.grp
    let u := s.drainOwn
    g.retry = none →
    (∀ f, exec (.nop f) s = .next { s with grp := { g with pc := nextSlot g.pc } }) ∧
    (∀ z : BitVec 2, u.grp.pend = [] ∧ u.grp.storeQ = [] ∧ u.grp.sticky = g.sticky ∧
      (z ≠ 3 ∨ g.sticky = none → exec (.fence z) s = .next { u with grp := { u.grp with pc := nextSlot g.pc } }) ∧
      (∀ r, z = 3 → g.sticky = some r → exec (.fence z) s =
        .next (State.trap { u with grp := { u.grp with sticky := none } } 0x25 (0x10 + r.detail) g.exec r.addr))) ∧
    (∀ (z : BitVec 2) (m : BitVec 8), let named := [0, 1, 2, 3, 5, 6].filter fun q => m.getLsbD (q + 1)
      (∀ before after q r, named = before ++ q :: after → (∀ p ∈ before, g.record p = none) → g.record q = some r →
        exec (.qfence z m) s = .next (State.trap { s with grp := { g with records := nset none g.records q none } } 0x28
          r.detail g.exec r.addr)) ∧
      ((∀ p ∈ named, g.record p = none) →
        (∀ r, z = 3 → g.sticky = some r → exec (.qfence z m) s =
          .next (State.trap { s with grp := { g with sticky := none } } 0x25 (0x10 + r.detail) g.exec r.addr)) ∧
        (z ≠ 3 ∨ g.sticky = none → ∃ fs, exec (.qfence z m) s = .next { s with
            grp := { g with seq := g.seq + 1, qfences := fs, pc := nextSlot g.pc } } ∧
          (∀ f ∈ fs, f ∈ g.qfences ∨ f = { seq := g.seq, mask := m }) ∧
          (m ≠ 0 → fs.getLast? = some { seq := g.seq, mask := m })))) ∧
    (∀ n : BitVec 16, exec (.pause n) s = .next { s with
      grp := { g with pausedUntil := if n = 0 then g.pausedUntil else max g.pausedUntil (s.clock + n.toNat), pc := nextSlot g.pc } }) ∧
    (∀ (o : BitVec 11) (k : BitVec 2) (r : BitVec 10),
      let tgt := g.pc + 4 * o.signExtend 64
      let goes : Host.Outcome State Fault Refusal := .next { s with grp := { g with pc := tgt } }
      let parks := fun w => (.next { s with grp := { g with wait := some w, active := false } } :
        Host.Outcome State Fault Refusal)
      (k = 3 → exec (.yield o k r) s = .next (s.trap 0x04 0 g.exec 0)) ∧
      (k ≠ 3 → k ≠ 2 ∨ r.toNat % 128 ≠ 127 → tgt.toNat % 32 = 0 → exec (.yield o k r) s = .next (s.trap 0x08 0 g.exec 0)) ∧
      (tgt.toNat % 32 ≠ 0 →
        (k = 0 → let q := r.toNat % 4
          (g.queue q = [] → exec (.yield o k r) s = goes) ∧
          (g.queue q ≠ [] → exec (.yield o k r) s = parks (.drained q tgt))) ∧
        (∀ t, s.team g.team = some t →
          (k = 1 → let a := g.barbase.toNat / 16 * 16 + 16 * (r.toNat % 64)
            a + 16 ≤ t.alloc →
              let x := s.loadsFirst
              let phase := bPhase (ofBytes ((List.range 16).map fun i =>
                (x.grp.forwarded x.grp.seq (.scratch t.id (a + i))).getD (x.locByte (.scratch t.id a) i)))
              let waits := fun w => (.next { x with grp := { x.grp with wait := some w, active := false } } :
                Host.Outcome State Fault Refusal)
              (g.held 0 = true → exec (.yield o k r) s = waits (.paths 0)) ∧
              (g.held 0 = false →
                (phase ≠ r.getLsbD 6 → exec (.yield o k r) s = .next { x with grp := { x.grp with pc := tgt } }) ∧
                (phase = r.getLsbD 6 → exec (.yield o k r) s = waits (.phase a (r.getLsbD 6) tgt)))) ∧
          (k = 2 → r.toNat % 128 ≠ 127 → let a := (g.ssrc (r.toNat % 128)).toNat
            a + 1 ≤ t.alloc →
              (t.worst a 1 ≠ .empty → exec (.yield o k r) s = goes) ∧
              (t.worst a 1 = .empty → exec (.yield o k r) s = parks (.filled a tgt))))))

/-! The matrix engine (17 R225-R243). -/

/-- 17 R229-R242: the matrix instructions. MGANG takes a legal gang register; an MMA whose gang is not yet complete waits at the
latch with its operands; the MMA that completes it puts one gang operation into the units' list and its place into every member's
queue, and all go on. MDRAIN, MZERO and MSTORE enter the matrix queue with what they read at issue. MFENCE closes what has been
queued since the last into a batch whose number modulo 16 goes to S[j]; MWAIT goes on once the batch is over, raising the
queue's record as a copy fault (one whose number no closed batch has too: log 34). NTAKE goes on where the gang holds the needle or the team has none, NPASS passes it. -/
def Obligations.MatrixWorkIsQueued : Prop :=
  ∀ (s : State) (r : DWord), let g := s.grp
    let j := fun (a : BitVec 7) => a.toNat - 112
    let matrix := fun (kind : OpKind) => (.next { s with grp := { g with
      queues := nset [] g.queues 4 (g.queue 4 ++ [{ seq := g.seq, kind := kind }]), openOps := g.openOps ++ [g.seq]
      seq := g.seq + 1, pc := nextSlot g.pc } } : Host.Outcome State Fault Refusal)
    let goes : Host.Outcome State Fault Refusal := .next { s with grp := { g with pc := nextSlot g.pc } }
    let parks := fun w => (.next { s with grp := { g with wait := some w, active := false } } : Host.Outcome State Fault Refusal)
    g.retry = none → g.qfences = [] →
    (∀ a : BitVec 7, 112 ≤ a.toNat → a.toNat ≤ 125 → s.gangLegal g (g.spairSrc (j a)) = true →
      exec (.mgang a) s = .next { s with grp := { g with gang := some (g.spairSrc (j a)), pc := nextSlot g.pc } }) ∧
    (∀ (d a : BitVec 7) (c : BitVec 1) (t : BitVec 3), g.gang = some r → t.toNat < s.tileLimit g →
      g.vecFault [rd d.toNat, rdRun a.toNat 32] = none →
      let p : State := { s with grp := { g with wait := some (.latch d.toNat a.toNat (c = 1) t.toNat), active := false } }
      let lists := (p.grp :: (p.others.filter fun w => p.awaits w p.grp)).map p.latchMembers
      ((∀ l ∈ lists, l = none) → exec (.mma d a c t) s = .next p) ∧
      (∀ before after ms, lists = before ++ some ms :: after → (∀ l ∈ before, l = none) →
        exec (.mma d a c t) s = .next (p.closeLatch ms))) ∧
    (∀ (m0 : Group) (ms : List Group) (f p : Nat) (clr : Bool) (tile : Nat) (w : Word),
      m0.wait = some (.latch f p clr tile) → (∀ m ∈ m0 :: ms, m.gang = m0.gang ∧ ∃ f' p', m.wait = some (.latch f' p' clr tile)) →
      (∀ m ∈ m0 :: ms, ∀ x ∈ m.formatWords, x = w) → m0.formatWords ≠ [] → formatLegal w = true →
      let op : GangOp := {
        id := s.nextOp, unit := s.unitOf m0, split := s.isSplit m0, tile := tile, clr := clr, fmt := w, team := m0.team
        pos := match m0.gang with | some r => gangPos r | none => 0
        members := (m0 :: ms).map fun m => { gid := m.id, seq := m.seq, panels := m.panels } }
      s.closeLatch (m0 :: ms) = (m0 :: ms).foldl (fun u m => u.modGroup m.id fun h => (h.enqueueMatrix (.gang op.id)).finish)
        { s with gangOps := s.gangOps ++ [op], nextOp := s.nextOp + 1 }) ∧
    (∀ (d : BitVec 7) (sl t : BitVec 3), t.toNat < s.tileLimit g → 8 * sl.toNat < s.tileRows g →
      g.vecFault [wrRun d.toNat 16] = none →
      exec (.mdrain d sl t) s = matrix (.mdrain (16 * g.winbase.toNat + d.toNat) t.toNat sl.toNat)) ∧
    (∀ (l : BitVec 1) (t : BitVec 3), (l = 1 ∧ t = 0) ∨ (l = 0 ∧ t.toNat < s.tileLimit g) →
      exec (.mzero l t) s = matrix (.mzero (l = 1) t.toNat)) ∧
    (∀ (a : BitVec 7) (k sp : BitVec 1) (c : BitVec 2) (n : BitVec 1) (t : BitVec 3) (tm : Team),
      let addr := g.spairSrc (j a)
      let pitch := (g.ssrc (j a + 2)).toNat
      let width := if c = 1 then 128 else 256
      112 ≤ a.toNat → a.toNat ≤ 124 → t.toNat < s.tileLimit g → c ≠ 3 → k = 0 ∨ (n = 1 ∧ c = 0) →
      sp = 0 ∨ addr.toNat < 2 ^ 32 → addr.toNat % 16 = 0 → pitch % 16 = 0 → width ≤ pitch →
      s.team g.team = some tm → sp = 0 ∨ addr.toNat + (s.tileRows g - 1) * pitch + width ≤ tm.alloc →
      exec (.mstore a k sp c n t) s = matrix (.mstore {
        addr := addr, pitch := pitch, tile := t.toNat, add := n = 1, conv := c.toNat, scratch := sp = 1, i32 := k = 1 })) ∧
    (∀ d : BitVec 7, 112 ≤ d.toNat → d.toNat ≤ 126 → g.nextBatch < 16 ∨ (∀ b ∈ g.batches, g.nextBatch - 16 < b.num) →
      let ops := g.openOps.filter fun o => (g.queue 4).any fun e => e.seq = o
      exec (.mfence d) s = .next { s with grp := { g.setS (j d) (BitVec.ofNat 32 (g.nextBatch % 16)) with
        nextBatch := g.nextBatch + 1, openOps := []
        batches := if ops = [] then g.batches else g.batches ++ [{ num := g.nextBatch, ops := ops }]
        pc := nextSlot g.pc } }) ∧
    (∀ n : BitVec 4,
      (∀ c, c < g.nextBatch → c % 16 = n.toNat → g.nextBatch ≤ c + 16 → (∃ b ∈ g.batches, b.num ≤ c) →
        exec (.mwait n) s = parks (.batch c)) ∧
      (g.batches = [] →
        (g.record 4 = none → exec (.mwait n) s = goes) ∧
        (∀ x, g.record 4 = some x → exec (.mwait n) s =
          .next (State.trap { s with grp := { g with records := nset none g.records 4 none } } 0x28 x.detail g.exec x.addr)))) ∧
    (g.gang = some r →
      (dNring (s.descOf g) = 0 → exec .ntake s = goes ∧ exec .npass s = goes) ∧
      (dNring (s.descOf g) ≠ 0 →
        (s.needleAt g = gangPos r → exec .ntake s = goes) ∧
        (s.needleAt g ≠ gangPos r → exec .ntake s = parks .needle ∧ exec .npass s = .next (s.trap 0x0D 0 g.exec 0)) ∧
        (s.needleAt g = gangPos r → (∀ o ∈ g.queue 4, ∀ i, o.kind ≠ .gang i) →
          exec .npass s = .next { s with
            teams := s.teams.map fun t => if t.id = g.team then { t with
              needles := nset 0 t.needles (s.unitIn g) ((gangPos r + 1) % dNring (s.descOf g)) } else t
            grp := { g with pc := nextSlot g.pc } })))

/-- 17 R227, R231-R240, 05 R65, R67: what enters a unit. A gang operation at the head of every member's queue, its gang holding the
needle where the team has one, is applied whole, its members in gang-list order, and leaves their queues. A member adds to each
element the exact sum of the products of its panels' row and column, rounded to FP32 first and then with the sum, or wrapping, or
saturating; a NaN product, or infinities of both signs, give the NaN 7FC00000 (what sign a zero sum has is log 48's). A drain writes eight
tile rows to sixteen registers in every lane; a zero clears the tile, or every tile of the owner; a store writes the tile, or,
where a part cannot be written, nothing, leaving detail 11 in the matrix queue's record; so too where every part could be, and one
then fails at the host or a peer, what it asked of a peer having left (log 51). The team notes the tiles that its operations read or
write. A group waiting in NPASS whose MMAs have
all entered passes the needle and goes on, or takes the gang-mismatch trap where its gang no longer holds it. -/
def Obligations.MatrixOperationsEnterTheirUnit : Prop :=
  ∀ s : State, let g := s.grp
    (∀ o : GangOp, s.gangOps.find? (fun x => x.id = o.id) = some o → s.gangReady o = true →
      exec (.gangOperationEntry o.id) s = .next (
        let t := o.members.foldl (fun u m => u.modGroup m.gid fun h => h.opDone 4 m.seq)
          ((s.applyGang o true o.members).useTile o.team o.unit o.tile)
        { t with gangOps := s.gangOps.filter fun x => x.id ≠ o.id })) ∧
    (∀ (t : State) (o : GangOp) (first : Bool) (m : GangMember) (ms : List GangMember), t.applyGang o first (m :: ms) =
      State.applyGang (t.putTile o.unit o.tile (if o.split then 32 else 64)
        (contribute o.fmt m.panels (if o.split then 32 else 64) (o.clr && first) (t.tile o.unit o.tile))) o false ms) ∧
    (∀ (fmt : Word) (ps : List LaneVec) (rows : Nat) (clr : Bool) (old : Nat → Nat → Word) (m n : Nat),
      formatLegal fmt = true → rows ≤ 64 → m < rows → n < 64 →
      let ca := fmt.toNat % 16
      let cb := fmt.toNat / 16 % 16
      let w := if ca = 0 then 32 else if ca ≤ 2 then 16 else if ca ≤ 6 then 8 else 4
      let ks := List.range (256 / w)
      let slice := fun (base r : Nat) =>
        ((List.range 8).map fun l => ((ps.getD (base + r / 4) zeroVec).lane (8 * (r % 4) + l)).toNat * 2 ^ (32 * l)).sum
      let bits := fun (base r k : Nat) => slice base r / 2 ^ (w * k) % 2 ^ w
      let t := if clr then 0 else old m n
      let now := contribute fmt ps rows clr old m n
      (fmt.toNat / 256 % 4 = 0 →
        let float := fun (c x : Nat) => if c = 0 then fp32.decode x else if c = 1 then fp16.decode x
          else if c = 2 then bf16.decode x else if c = 3 then f8.decode8 x else g8.decode8 x
        let a := fun k => float ca (bits 0 m k)
        let b := fun k => float cb (bits 16 n k)
        let added := fun (s : FVal) =>
          BitVec.ofNat 32 (fp32.round .rn ((fp32.decode t.toNat).add .rn (fp32.decode (fp32.round .rn s))))
        ((∀ k ∈ ks, (a k).finite = true ∧ (b k).finite = true) →
          ∃ s : FVal, s.finite = true ∧ s.value = (ks.map fun k => (a k).value * (b k).value).sum ∧ now = added s) ∧
        ((∃ k ∈ ks, (a k).mul (b k) = .nan) ∨ (∃ k ∈ ks, ∃ l ∈ ks, (a k).mul (b k) = .inf true ∧ (a l).mul (b l) = .inf false) →
          now = 0x7FC00000) ∧
        (∀ neg, (∃ k ∈ ks, (a k).mul (b k) = .inf neg) → (∀ k ∈ ks, (a k).mul (b k) ≠ .nan ∧ (a k).mul (b k) ≠ .inf (!neg)) →
          now = added (.inf neg))) ∧
      (fmt.toNat / 256 % 4 ≠ 0 →
        let int := fun (c x : Nat) => if c = 5 then (BitVec.ofNat 8 x).toInt else if c = 7 then (BitVec.ofNat 4 x).toInt else (x : Int)
        let s := t.toInt + (ks.map fun k => int ca (bits 0 m k) * int cb (bits 16 n k)).sum
        now = BitVec.ofInt 32 (if fmt.toNat / 256 % 4 = 2 then max (-(2 ^ 31)) (min s (2 ^ 31 - 1)) else s))) ∧
    (∀ (seq first tile slice : Nat) (rest : List EngineOp), g.saved = false →
      g.queue 4 = ⟨seq, .mdrain first tile slice⟩ :: rest →
      ∃ v, exec (.mdrainEntry g.id) s = .next { s.useTile g.team (s.unitOf g) tile with grp := Group.opDone { g with v := v } 4 seq } ∧
        ∀ n k, k < 32 → (nget zeroVec v n).lane k =
          if first ≤ n ∧ n < first + 16 then s.tile (s.unitOf g) tile (8 * slice + (n - first) / 2) (32 * ((n - first) % 2) + k)
          else (g.vreg n).lane k) ∧
    (∀ (seq tile : Nat) (all : Bool) (rest : List EngineOp), g.saved = false → g.queue 4 = ⟨seq, .mzero all tile⟩ :: rest →
      ∃ ts tm, exec (.mzeroEntry g.id) s = .next { s with tiles := ts, teams := tm, grp := g.opDone 4 seq } ∧
        (tm.map fun t => { t with tileUse := [] }) = (s.teams.map fun t => { t with tileUse := [] }) ∧
        ∀ t row col, t < 8 → row < 64 → col < 64 →
          nget 0 ts (tileKey (s.unitOf g) t row col) =
            if (if all then t < s.tileLimit g else t = tile) ∧ row < s.tileRows g then 0 else s.tile (s.unitOf g) t row col) ∧
    (∀ (seq : Nat) (t : StoreTile) (rest : List EngineOp), g.saved = false → g.queue 4 = ⟨seq, .mstore t⟩ :: rest →
      (∀ a, s.tilePlaces g t (t.parts (s.tileRows g)) [] = .failed a →
        let h : Group := { g with records := nset none g.records 4 ((g.record 4).or (some ⟨11, a⟩)) }
        exec (.mstoreEntry g.id) s = .next { s with grp := h.opDone 4 seq }) ∧
      (∀ k m p pa ps, s.tilePlaces g t (t.parts (s.tileRows g)) [] = .places ps → ps[k]? = some (m, p, .phys pa) →
        s.isRemote pa = true →
          let a := t.addr + BitVec.ofNat 64 (m * t.pitch + 16 * p)
          let h : Group := { g with records := nset none g.records 4 ((g.record 4).or (some ⟨11, a⟩)) }
          exec (.copyPartFault g.id 4 k) s = .next { s with
            hostOut := (s.writeTilePart g.vd (s.unitOf g) t m p (.phys pa)).hostOut, grp := h.opDone 4 seq }) ∧
      (∀ ps, s.tilePlaces g t (t.parts (s.tileRows g)) [] = .places ps →
        exec (.mstoreEntry g.id) s = .next (
          let u := ps.foldl (fun u x => u.writeTilePart g.vd (s.unitOf g) t x.1 x.2.1 x.2.2) s
          { u.useTile g.team (s.unitOf g) t.tile with grp := g.opDone 4 seq }))) ∧
    (∀ r : DWord, g.wait = some .npass → g.live = true → g.saved = false → (∀ o ∈ g.queue 4, ∀ i, o.kind ≠ .gang i) → g.gang = some r →
      (s.needleAt g ≠ gangPos r → exec (.needlePass g.id) s = .next (s.trapGroup g.id 0x0D 0 g.exec 0)) ∧
      (s.needleAt g = gangPos r → exec (.needlePass g.id) s = .next { s with
        teams := s.teams.map fun t => if t.id = g.team then { t with
          needles := nset 0 t.needles (s.unitIn g) ((gangPos r + 1) % max 1 (dNring (s.descOf g))) } else t
        grp := g.finish }))

/-! Anytime kernels (19 R244-R262). -/

/-- 19 R248-R252: PASS for a pass that is open gives q a 0 and the working and sealed slots, and takes its number as PASSNO; where the
launch is to finish it gives q a 1; otherwise it parks. The first PASS of a pass, or PASS_OPEN, opens it where the version before
it is sealed and a slot is free: PASSCUR, WORKSLOT, ARRIVED 0 and QACC 0 in one update. SEAL comes after everything the group
has outstanding: the team's arrival raises ARRIVED, and the last expected arrival makes the pass the sealed version in one update:
SEALVER, QUALITY, SEALSLOT, the slot's VER, and PASSCUR none. SEAL waits for what a QFENCE orders before it (13 R195), and for a
header page that is not there (13 R177). Outside an anytime launch both are illegal operands. -/
def Obligations.PassesOpenAndSeal : Prop :=
  (∀ (s : State) (a j : BitVec 7) (l : Nat) (x : Launch) (t : Team), let g := s.grp
    let n := (g.passno + 1).toNat
    g.retry = none → g.launch = some l → s.launch l = some x → s.team g.team = some t →
    (dAnytime x.desc = false → exec (.pass a j) s = .next (s.trap 0x06 0 g.exec 0) ∧
      exec (.seal a) s = .next (s.trap 0x06 0 g.exec 0)) ∧
    (dAnytime x.desc = true → a.toNat ≤ 15 → j.toNat ≤ 123 → n ≠ 0xFFFFFFFF → n = 0 ∨ (∃ k, t.sealed = some k ∧ n ≤ k + 1) →
      (∀ w v, x.passes[n]? = some (w, v) → exec (.pass a j) s = .next { s with
        grp := { ((g.setQ a.toNat false).setPair j.toNat w).setPair (j.toNat + 2) v with
          passno := g.passno + 1, pc := nextSlot g.pc } }) ∧
      (x.passes[n]? = none → x.finishNow = true → exec (.pass a j) s = .next { s with
        grp := { g.setQ a.toNat true with pc := nextSlot g.pc } }) ∧
      (∀ y, let u := s.openPass l
        x.passes[n]? = none → x.finishNow = false → u.launch l = some y → y.passes[n]? = none → y.finishNow = false →
        exec (.pass a j) s = .next { u with grp := { u.grp with wait := some .pass, active := false } }) ∧
      (∀ y w v, x.passes[n]? = none → x.finishNow = false → (s.openPass l).launch l = some y → y.passes[n]? = some (w, v) →
        exec (.pass a j) s = .next { s.openPass l with
          grp := { ((g.setQ a.toNat false).setPair j.toNat w).setPair (j.toNat + 2) v with
            passno := g.passno + 1, pc := nextSlot g.pc } }) ∧
      (g.wait = some .pass → exec (.passOpen l) s = .next (s.openPass l)))) ∧
  (∀ (s : State) (l : Nat) (x : Launch) (k : Nat),
    let o := s.devRead x.vd (dVobj x.desc) 64
    let h := s.devRead x.vd (vHdraddr o) 64
    let n := x.passes.length
    s.launch l = some x → dAnytime x.desc = true → dPlan x.desc = false → x.cut = none → x.finishNow = false →
    s.headerStalls x.vd (dVobj x.desc) = false → hState h = 0 → hPasscur h = 0xFFFFFFFF → n = 0 ∨ hSealver h = n - 1 → workingSlot o h = some k →
    s.openPass l = (s.putHeader x.vd o (setField (setField (setField (setField h 256 32 n) 240 2 k) 288 32 0) 320 16 0)).modLaunch l
      fun x => { x with
        passes := x.passes ++ [(BitVec.ofNat 64 (vSlot o k),
          if hSealver h = 0xFFFFFFFF then 0 else BitVec.ofNat 64 (vSlot o (hSealslot h)))]
        openClk := s.clock, openEnergy := x.energy }) ∧
  (∀ (s : State) (a : BitVec 7) (l : Nat) (x : Launch), let g := s.grp
    let h := s.headerOf g
    let q := if a = 127 then 0 else (g.ssrc (a.toNat - 112)).toNat % 2 ^ 16
    g.retry = none → g.launch = some l → s.launch l = some x → dAnytime x.desc = true → 112 ≤ a.toNat →
    (s.headerStalls g.vd (dVobj x.desc) = true → exec (.seal a) s = .next { s with
      grp := { g with wait := some (.pages [dVobj x.desc, vHdraddr (s.devRead g.vd (dVobj x.desc) 64)]), active := false } }) ∧
    (s.headerStalls g.vd (dVobj x.desc) = false →
      let sealedIt := ∃ t, s.team g.team = some t ∧ t.sealed = some (hPasscur h)
      (hPasscur h = 0xFFFFFFFF ∨ g.passno.toNat ≠ hPasscur h ∨ sealedIt → exec (.seal a) s = .next (s.trap 0x06 0 g.exec 0)) ∧
      (hPasscur h ≠ 0xFFFFFFFF → g.passno.toNat = hPasscur h → ¬ sealedIt →
        let u := s.drainOwn.sealArrival g x q
        (g.held 0 = true → exec (.seal a) s = .next { s with grp := { g with wait := some (.paths 0), active := false } }) ∧
        (g.held 0 = false → exec (.seal a) s = .next { u with grp := { u.grp with pc := nextSlot g.pc } })))) ∧
  (∀ (s : State) (g : Group) (x : Launch) (q : Nat),
    let o := s.devRead x.vd (dVobj x.desc) 64
    let h := s.devRead x.vd (vHdraddr o) 64
    let expected := if vExpect o = 0 then dTeams x.desc else vExpect o
    s.launch x.id = some x → hArrived h + 1 < 2 ^ 32 → q < 2 ^ 16 →
    (hArrived h + 1 ≠ expected → ∃ (t : State) (h1 : Nat), s.sealArrival g x q = t.putHeader x.vd o h1 ∧ t.mem = s.mem ∧
      hArrived h1 = hArrived h + 1 ∧ (hArrived h = 0 → field h1 320 16 = q) ∧ hSealver h1 = hSealver h ∧ hPasscur h1 = hPasscur h) ∧
    (hArrived h + 1 = expected → (s.vd x.vd).replay = false →
      ∃ (t : State) (h1 : Nat), (s.sealArrival g x q).mem = (t.putHeader x.vd o h1).mem ∧ t.mem = s.mem ∧
        hSealver h1 = hPasscur h ∧ hSealslot h1 = hWorkslot h ∧ hPasscur h1 = 0xFFFFFFFF ∧ hState h1 = hState h ∧
        (hArrived h = 0 → hQuality h1 = q) ∧ (hWorkslot h < 3 → hVer h1 (hWorkslot h) = hPasscur h)))

/-- 19 R255-R258: VREAD reads a version object and its header as loads; S[j] takes SEALVER and S[j+1] the quality, or none and 0 where
the version is not readable, with STATE, CUTCAUSE, whether it pinned, and the slot; the pair after them the slot's address. With P
it raises the slot's pin, below 0xFFFF, in the same update. VWAIT does the same once the version is readable at the quality asked
or the producer no longer runs, and parks before; both wait for what a QFENCE orders before their loads (13 R195), and a pin
of a header at a peer leaves as a request (R346). VDONE, with the group's accesses performed, lowers the pin by 1; a pin of 0
is an illegal operand; it waits for what a QFENCE orders before it (13 R195). -/
def Obligations.VersionsAreReadAndPinned : Prop :=
  (∀ (s : State) (a j : BitVec 7) (p : BitVec 1) (o h p0 p1 pa : Nat),
    let q := s.loadsFirst
    let g := q.grp
    let va := g.spairSrc (a.toNat - 112)
    let parks := fun w => (.next { q with grp := { g with wait := some w, active := false } } : Host.Outcome State Fault Refusal)
    let r := readable o h
    let k := hSealslot h
    let pinned : Bool := r && p = 1 && decide (hPin h k < 0xFFFF)
    let flags := (if r then hQuality h else 0) + hState h * 2 ^ 16 + hCutcause h * 2 ^ 18 + (if pinned then 2 ^ 20 else 0) + k * 2 ^ 21
    let result : Group := { ((g.setS j.toNat (BitVec.ofNat 32 (if r then hSealver h else 0xFFFFFFFF))).setS (j.toNat + 1)
      (BitVec.ofNat 32 flags)).setPair (j.toNat + 2) (BitVec.ofNat 64 (if r then vSlot o k else 0)) with
      remote := none, pc := nextSlot g.pc }
    let bytes := toBytes 64 (setField h (192 + 16 * k) 16 (hPin h k + 1))
    let out := if inPeer (q.alias pa) then q.hostOut ++ [.remoteRequest { domid := q.domid, peerGroup := (q.vd g.vd).peergrp
                                                                          addr := q.alias pa, kind := .store bytes }] else q.hostOut
    let read : State := { (if pinned then ({ q with hostOut := out } : State).putMem (q.alias pa) bytes else q) with grp := result }
    let demand := (g.ssrc (a.toNat - 110)).toNat % 2 ^ 16
    g.retry = none → 112 ≤ a.toNat → a.toNat ≤ 124 → j.toNat ≤ 123 →
    (g.held 0 = true → exec (.vread a p j) s = parks (.paths 0) ∧ exec (.vwait a p j) s = parks (.paths 0)) ∧
    (q.readVa g 0 va 64 = .value p0 o → q.readVa g 1 (vHdraddr o) 64 = .value p1 h →
      (p = 1 → q.translate g.agent g.vd .store (vHdraddr o) = .ok pa) →
      exec (.vread a p j) s = .next read ∧
      ((r = true ∧ demand ≤ hQuality h) ∨ hState h ≠ 0 → exec (.vwait a p j) s = .next read) ∧
      (¬ ((r = true ∧ demand ≤ hQuality h) ∨ hState h ≠ 0) → exec (.vwait a p j) s = parks (.version va demand)))) ∧
  (∀ (s : State) (a m : BitVec 7) (o h p0 p1 pa : Nat),
    let q := s.drainOwn
    let g := q.grp
    let va := g.spairSrc (a.toNat - 112)
    let i := (g.ssrc m.toNat).toNat / 2 ^ 21 % 4
    s.grp.retry = none → 112 ≤ a.toNat → a.toNat ≤ 125 → m.toNat ≤ 126 →
    (s.grp.held 0 = true → exec (.vdone a m) s = .next { s with grp := { s.grp with wait := some (.paths 0), active := false } }) ∧
    (s.grp.held 0 = false → q.readVa g 0 va 64 = .value p0 o → q.readVa g 1 (vHdraddr o) 64 = .value p1 h →
      q.translate g.agent g.vd .store (vHdraddr o) = .ok pa →
      (i < vNslots o → hPin h i ≠ 0 →
        let bytes := toBytes 64 (setField h (192 + 16 * i) 16 (hPin h i - 1))
        let out := if inPeer (q.alias pa) then q.hostOut ++ [.remoteRequest { domid := q.domid, peerGroup := (q.vd g.vd).peergrp
                                                                              addr := q.alias pa, kind := .store bytes }] else q.hostOut
        exec (.vdone a m) s = .next { ({ q with hostOut := out } : State).putMem (q.alias pa) bytes with
          grp := { g with remote := none, pc := nextSlot g.pc } }) ∧
      (vNslots o ≤ i ∨ hPin h i = 0 → exec (.vdone a m) s =
        .next (State.trap { q with grp := { g with remote := none } } 0x06 0 g.exec 0))))

/-- 19 R247, R260, 23 R295-R297, 25 R324, R331: a launch whose time or energy has reached its limit is cut, with status 0x30 or 0x31,
and otherwise nothing happens, nor once its last group has ended; a cut launch has no live group left, and its status, and the
header of an anytime launch that runs turns to CUT with its cause and no pass in one update (R260 step 4). ENRD writes the gauge or amount it names to a
pair. COMMIT in a DET launch takes the token where the group holds it, and parks otherwise; TOKPASS, with the group's accesses
performed, gives it up to the next live group in logical order, TEAMID and then GROUPID, from the last on to the first, and waits for what a QFENCE orders before it (13 R195); outside a DET
launch both only go on. -/
def Obligations.LimitsTokensAndEnergy : Prop :=
  (∀ (s : State) (l : Nat) (x : Launch), s.launch l = some x → (s.vd x.vd).replay = false →
    (∀ c, x.startClk = some c → dTimelim x.desc ≠ 0 →
      (c + dTimelim x.desc * 1500 ≤ s.clock → exec (.timeLimitExpiry l) s = .next (s.cutLaunch l 0x30)) ∧
      (s.clock < c + dTimelim x.desc * 1500 → exec (.timeLimitExpiry l) s = .next s)) ∧
    (dEnergylim x.desc ≠ 0 →
      (dEnergylim x.desc * x.energy.den ≤ x.energy.num → exec (.energyLimitReached l) s = .next (s.cutLaunch l 0x31)) ∧
      (x.energy.num < dEnergylim x.desc * x.energy.den → exec (.energyLimitReached l) s = .next s)) ∧
    (s.lastEnded x = true → s.cutLaunch l 0x30 = s ∧ s.cutLaunch l 0x31 = s) ∧
    (x.cut = none → dAnytime x.desc = true → s.lastEnded x = false → (s.vd x.vd).reclog.enabled = false → x.waitCut = none →
      s.headerStalls x.vd (dVobj x.desc) = false → (∀ g ∈ s.groups, g.launch = some l → g.queues = [] ∧ g.storeQ = []) →
      let o := s.devRead x.vd (dVobj x.desc) 64
      let h := s.devRead x.vd (vHdraddr o) 64
      ∀ status cause, (status, cause) ∈ [(0x30, 1), (0x31, 2), (0x32, 3)] →
        (hState h ≠ 0 → (s.cutLaunch l status).mem = s.mem) ∧
        (hState h = 0 → ∃ h1, (s.cutLaunch l status).mem = (s.putHeader x.vd o h1).mem ∧ hState h1 = 3 ∧ hCutcause h1 = cause ∧
          hPasscur h1 = 0xFFFFFFFF ∧ hSealver h1 = hSealver h ∧ hQuality h1 = hQuality h ∧ hSealslot h1 = hSealslot h)) ∧
    (∀ status, x.cut = none → dAnytime x.desc = false → s.lastEnded x = false ∨ (status ≠ 0x30 ∧ status ≠ 0x31) →
      (∀ g ∈ (s.cutLaunch l status).groups, g.launch = some l → g.live = false) ∧
      ((s.cutLaunch l status).launch l).bind (fun y => y.cut) = some status)) ∧
  (∀ (s : State) (k j : BitVec 7), let g := s.grp
    let q := 4 * g.core + g.part / 8
    g.retry = none →
    (5 < k.toNat ∨ 125 < j.toNat → exec (.enrd k j) s = .next (s.trap 0x06 0 g.exec 0)) ∧
    (k.toNat ≤ 5 → j.toNat ≤ 125 → exec (.enrd k j) s = .next { s with
      free := s.free + 1
      grp := { g.setPair j.toNat (BitVec.ofNat 64 (s.energyRead k.toNat)) with pc := nextSlot g.pc } }) ∧
    (s.isSplit g = false → s.energyRead 0 = nget 0 s.gauges (2 * q) + nget 0 s.gauges (2 * q + 1)) ∧
    s.energyRead 2 = s.dieGauge 0 + s.dieGauge 1 + s.dieGauge 2 + s.dieGauge 3 + s.pkgExtra ∧
    s.energyRead 4 = ((s.vd g.vd).level % 2 ^ 64).toNat) ∧
  (∀ (s : State) (l : Nat) (x : Launch), let g := s.grp
    let goes : Host.Outcome State Fault Refusal := .next { s with grp := { g with pc := nextSlot g.pc } }
    g.retry = none → g.launch = some l → s.launch l = some x →
    (dDet x.desc = false → exec .commit s = goes ∧ exec .tokpass s = goes) ∧
    (dDet x.desc = true →
      (g.committed = true → exec .commit s = .next (s.trap 0x06 0 g.exec 0)) ∧
      (g.committed = false → exec .tokpass s = .next (s.trap 0x06 0 g.exec 0) ∧
        (x.token = (g.teamid, g.groupid) → x.id = l → exec .commit s = .next { s with
          launches := s.launches.map fun y => if y.id = l then { y with taken := true } else y
          grp := { g with committed := true, pc := nextSlot g.pc } }) ∧
        (x.token ≠ (g.teamid, g.groupid) → exec .commit s = .next { s with
          grp := { g with wait := some .token, active := false } })) ∧
      (g.committed = true → g.held 0 = true →
        exec .tokpass s = .next { s with grp := { g with wait := some (.paths 0), active := false } }) ∧
      (g.committed = true → g.held 0 = false →
        exec .tokpass s = .next (
          let q := s.drainOwn
          let t := State.passToken { q with grp := { q.grp with committed := false } } l
          { t with grp := { t.grp with pc := nextSlot g.pc } })))) ∧
  (∀ (s : State) (l : Nat) (x : Launch) (w : Group), let live := fun (g : Group) => g ∈ s.groups ∧ g.launch = some l ∧ g.live = true
    let key := fun (g : Group) => (g.teamid, g.groupid)
    let before := fun (a b : Nat × Nat) => a.1 < b.1 ∨ (a.1 = b.1 ∧ a.2 < b.2)
    s.launch l = some x →
    ((∀ g, ¬ live g) → s.passToken l = s) ∧
    (live w → (before x.token (key w) ∧ ∀ g, live g → before x.token (key g) → ¬ before (key g) (key w)) ∨
        ((∀ g, live g → ¬ before x.token (key g)) ∧ ∀ g, live g → ¬ before (key g) (key w)) →
      s.passToken l = { s with launches := s.launches.map fun y =>
        if y.id = l then { y with token := key w, taken := false } else y }))

/-! Skeins, nodes and dependences (21 R263-R280). -/

/-- 21 R265, R273-R280: POST, ENQ, ENQ.DEP, SIGNAL and LAUNCH put a record or block for each lane of the mask, or the launch, into the
post queue and go on; POST.R parks for its replies. REPLY records the lanes' replies under their tokens, the highest lane winning,
and is an illegal operand where no lane's token is of the batch. CDONE, with the group's accesses performed, raises BATCHES,
delivers the replies to the groups of this device, a reply of zeros where none is recorded, and ends the group; it waits for the group's engine operations (21 R270). A descriptor that
breaks its rules is an illegal operand, a BROKEN object a broken-object trap; REPLY or CDONE outside a combiner is an illegal
operand. -/
def Obligations.SkeinInstructionsPost : Prop :=
  (∀ (s : State) (d a j : BitVec 7) (pa o : Nat),
    let q := s.loadsFirst
    let g := q.grp
    let va := g.spairSrc j.toNat
    let t := (q.tlbFill g.agent g.vd .load va).tlb
    let lanes := lanesOf g.exec
    let words := fun size i => (List.range (size / 4)).map fun n => g.lane (a.toNat + n) i
    let post := fun (kind : OpKind) => (.next { q with
      tlb := t
      grp := { g with
        queues := nset [] g.queues 6 (g.queue 6 ++ [{ seq := g.seq, kind := kind }]), seq := g.seq + 1, pc := nextSlot g.pc } } :
      Host.Outcome State Fault Refusal)
    g.retry = none → g.remote = none → g.qfences = [] → j.toNat ≤ 124 → va.toNat % 64 = 0 →
    q.readVa g 0 va 64 = .value pa o →
    (objectLegal o = false → ∀ r, exec (.post d a r j) s = .next (State.trap { q with tlb := t } 0x06 0 g.exec 0)) ∧
    (nodeLegal o = false → ∀ e, exec (.enq d a e j) s = .next (State.trap { q with tlb := t } 0x06 0 g.exec 0)) ∧
    (q.isDet g = false → inHost pa = false → inPeer pa = false → objectLegal o = true → oRemote o = false →
      (oBroken o = true → oRpl o = 0 → oReq o = 0 → exec (.post 0 0 0 j) s = .next (State.trap { q with tlb := t } 0x26 0 g.exec va)) ∧
      (oBroken o = false → g.allocated ((List.range (oReq o / 4)).map (a.toNat + ·)) →
        0 < oReq o → a.toNat + oReq o / 4 ≤ 112 → oRpl o = 0 →
        ∃ posts, exec (.post d a 0 j) s = .next { q with
          tlb := t
          grp := { g with
            queues := nset [] g.queues 6 (g.queue 6 ++ [{
              seq := g.seq
              kind := .post va pa false q.clock (lanes.map fun i => { lane := i, words := words (oReq o) i, posts := nget 0 g.posts i }) }])
            seq := g.seq + 1, posts := posts, pc := nextSlot g.pc } }) ∧
      (oBroken o = false → (oReq o = 0 ∧ a = 0) ∨
          (0 < oReq o ∧ a.toNat + oReq o / 4 ≤ 112 ∧ g.allocated ((List.range (oReq o / 4)).map (a.toNat + ·))) →
        (oRpl o = 0 ∧ d = 0) ∨
          (0 < oRpl o ∧ d.toNat + oRpl o / 4 ≤ 112 ∧ g.allocated ((List.range (oRpl o / 4)).map (d.toNat + ·))) →
        let dest : Dest := if oRpl o = 0 then .none else .vec (16 * g.winbase.toNat + d.toNat) (oRpl o / 4)
        ∃ posts, exec (.post d a 1 j) s = .next { q with
          tlb := t
          grp := { g with
            queues := nset [] g.queues 6 (g.queue 6 ++ [{
              seq := g.seq
              kind := .post va pa true q.clock (lanes.map fun i => { lane := i, words := words (oReq o) i, posts := nget 0 g.posts i }) }])
            seq := g.seq + 1, posts := posts, wait := some (.reply va pa dest (oRpl o) g.exec q.clock []), active := false } })) ∧
    (nodeLegal o = true → q.holdsCore g.vd (q.coreAt (nHome o)) = true →
      g.allocated ((List.range (nRec o / 4)).map (a.toNat + ·)) → 0 < nRec o → a.toNat + nRec o / 4 ≤ 112 →
      exec (.enq d a 0 j) s = post (.enq va pa (lanes.map fun i => { lane := i, words := words (nRec o) i })) ∧
      (d.toNat < 111 → g.allocated [d.toNat + 1] → g.exec ≠ 0 →
        (∀ i ∈ lanes, (g.lane d.toNat i).toNat % 32 = 0) →
        exec (.enq d a 1 j) s = post (.enqDep va (g.ssrc (j.toNat + 2)) (lanes.map fun i => {
          lane := i, block := (g.lane (d.toNat + 1) i ++ g.lane d.toNat i), words := words (nRec o) i }))))) ∧
  (∀ (s : State) (d a j : BitVec 7) (z : BitVec 1), let g := s.grp
    let post := fun (kind : OpKind) => (.next { s with grp := { g with
      queues := nset [] g.queues 6 (g.queue 6 ++ [{ seq := g.seq, kind := kind }]), seq := g.seq + 1, pc := nextSlot g.pc } } :
      Host.Outcome State Fault Refusal)
    g.retry = none → g.remote = none → g.qfences = [] →
    (a.toNat < 111 → g.allocated [a.toNat + 1] → g.exec ≠ 0 → (∀ i ∈ lanesOf g.exec, (g.lane a.toNat i).toNat % 32 = 0) →
      exec (.signal a z) s = post (.signal (z = 1) s.clock ((lanesOf g.exec).map fun i => {
        lane := i, block := (g.lane (a.toNat + 1) i ++ g.lane a.toNat i), words := [] }))) ∧
    (j.toNat ≤ 125 → goodDest d.toNat → g.allocated [d.toNat] →
      exec (.launch d j) s = post (.launch (g.spairSrc j.toNat)
        (if d.toNat ≤ 111 then .vec (16 * g.winbase.toNat + d.toNat) 1 else .none) g.exec))) ∧
  (∀ (s : State) (k : Nat) (d a : BitVec 7), let g := s.grp
    let x := s.skein k
    let rpl := oRpl (s.num x.desc 64)
    let words := fun i => (List.range (rpl / 4)).map fun n => g.lane (a.toNat + n) i
    g.retry = none → g.kind = .combiner k →
    ((rpl = 0 ∧ a = 0) ∨ (0 < rpl ∧ rpl % 4 = 0 ∧ a.toNat + rpl / 4 ≤ 112 ∧
        g.allocated ((List.range (rpl / 4)).map (a.toNat + ·))) →
      g.allocated [d.toNat] → (∀ i ∈ lanesOf g.exec, ∃ r ∈ x.batch, r.token = g.lane d.toNat i) →
      ∃ rs, exec (.reply d a) s = .next { s with
          skeins := nset {} s.skeins k { x with replies := rs }, grp := { g with pc := nextSlot g.pc } } ∧
        ∀ i ∈ lanesOf g.exec, (∀ n ∈ lanesOf g.exec, i < n → g.lane d.toNat n ≠ g.lane d.toNat i) →
          ∀ p, x.batch.findIdx? (fun r => r.token = g.lane d.toNat i) = some p → rs.find? (fun e => e.1 = p) = some (p, words i)) ∧
    (rpl = 0 → a = 0 → g.allocated [d.toNat] → g.exec ≠ 0 → (∀ r ∈ x.batch, ∀ i ∈ lanesOf g.exec, r.token ≠ g.lane d.toNat i) →
      ∃ rs, exec (.reply d a) s = .next (State.trap { s with
        skeins := nset {} s.skeins k { x with replies := rs } } 0x06 0 g.exec 0)) ∧
    ((∃ r ∈ g.queues, r.2 ≠ []) → exec .cdone s = .next { s with grp := { g with wait := some .engines, active := false } }) ∧
    ((∀ r ∈ g.queues, r.2 = []) → g.pins = [] → x.held = [] → (∀ r ∈ x.batch, r.peer = false) →
      exec .cdone s = .next (
        let q := s.drainOwn
        let answers : Nat → List ReplyMsg := fun rpl => (x.batch.zipIdx.filter fun p => p.1.reply).map fun p => {
          gid := p.1.gid, lane := p.1.lane, mark := x.unlogged
          answer := .reply (match x.replies.find? fun e => e.1 = p.2 with | some e => e.2 | none => List.replicate (rpl / 4) 0) }
        let d := q.num x.desc 64
        let answers : List ReplyMsg := answers (oRpl d)
        let t : State := { q.putNum x.desc 64 (setField d 224 32 (oBatches d + 1)) with
          replies := q.replies ++ answers, grp := { q.grp.kill with retired := allLanes, pins := [] } }
        t.modSkein k fun _ => {}))) ∧
  (∀ (s : State) (d a : BitVec 7), (∀ k, s.grp.kind ≠ .combiner k) →
    exec (.reply d a) s = .next (s.trap 0x06 0 s.grp.exec 0) ∧ exec .cdone s = .next (s.trap 0x06 0 s.grp.exec 0))

/-- 21 R266-R280, 25 R332, R335: a record that arrives at its home is held by the skein bound to its object or node, or by a free
one, and waits where that one holds 32 or there is none, or is a node's that holds another device's records; a batch fires when COUNT are held,
a DET launch's POST ends or the timer has expired with no record of a DET launch held (25 R332); a skein whose group can be placed starts it with the batch's lanes, a combiner's with its tokens,
and a combiner that runs 100,000 clk without CDONE halts. Replies and errors reach the lane that waits, and the last one ends the
POST.R. A publication of ENQ.DEP or a signal is one update of its block, and enqueues the successor when the count says so; a failing
block leaves detail 12, and a block published already counts at its node (R278). An unlogged
notice marks its launch. That a remote block of ENQ.DEP fails with detail 12, and that another device's record waits until the skein's
batch has a group, are log 37's readings (DEDUCED); that HOME, COUNT, TIMER, REGS and ENTRY of a descriptor are read where they are used, and not
as the record was posted, and that the rest of a fired batch gets the timer anew, are the model's choices (logs 55, 57: DESIGN
CHOICE). -/
def Obligations.SkeinsFireAndAnswer : Prop :=
  (∀ (s : State) (seq pa since : Nat) (va : DWord) (reply : Bool) (l : LaneRecord) (ls : List LaneRecord) (rest : List EngineOp),
    let g := s.grp
    g.saved = false → g.queue 6 = ⟨seq, .post va pa reply since (l :: ls)⟩ :: rest →
    (s.postWaits g since = true → exec (.skeinRecordArrival (.group g.id)) s = .next s) ∧
    (s.postWaits g since = false → ls ≠ [] →
      let t : State := { s with grp := { g.setQueue 6 (⟨seq, .post va pa reply since ls⟩ :: rest) with postBegun := some seq } }
      (inPeer pa = false → exec (.skeinRecordArrival (.group g.id)) s = .next (t.arriveHome {
        core := oVault (s.num pa 64), node := false, desc := pa
        item := { words := l.words, vd := g.vd, gid := g.id, lane := l.lane, launch := g.launch, ident := s.postIdent g l
                  reply := reply, logmark := dLogmark (s.descOf g), det := dDet (s.descOf g), postEnd := false } })) ∧
      (inPeer pa = true → exec (.skeinRecordArrival (.group g.id)) s = .next { t with
        hostOut := s.hostOut ++ [.remoteRequest { domid := s.domid, peerGroup := (s.vd g.vd).peergrp, addr := pa
                                                  kind := .post [(l.lane, l.posts, l.words)] ((s.postIdent g l).getD 0 0)
                                                    g.teamid g.groupid { reply := reply, logMark := dLogmark (s.descOf g)
                                                                         det := dDet (s.descOf g), postEnd := false } }] }))) ∧
  (∀ s : State, exec (.skeinRecordArrival .dependence) s = .next s.dependenceArrival ∧
    exec (.skeinRecordArrival .peer) s = .next s.admitAll) ∧
  (∀ (s : State) (k : Nat), let x := s.skein k
    let c := max 1 (skCount x.node (s.num x.desc 64))
    s.skReplay x = false → x.state = .fill →
    let ends := fun (i : Nat) => ∃ r, x.held[i]? = some r ∧ r.det = true ∧ r.postEnd = true
    let fires := fun (n : Nat) => s.modSkein k fun x => { x with
      state := .fire, batch := x.held.take n, held := x.held.drop n, replies := [], unlogged := false, expired := false
      deadline := if x.held.drop n = [] then none else some (s.clock + skTimer x.node (s.num x.desc 64)) }
    (∀ n, 1 ≤ n → n ≤ c → n ≤ x.held.length → n = c ∨ ends (n - 1) → (∀ i < n - 1, ¬ ends i) → s.skTurn k = fires n) ∧
    (x.held ≠ [] → x.held.length < c → (∀ i, ¬ ends i) →
      (x.expired = false ∨ (∃ r ∈ x.held, r.det = true) → s.skTurn k = s) ∧
      (x.expired = true → (∀ r ∈ x.held, r.det = false) → s.skTurn k = fires x.held.length)) ∧
    (∀ due, x.deadline = some due → due ≤ s.clock → (∀ r ∈ x.held, r.det = false) →
      exec (.skeinTimerExpiry k) s = .next ((s.modSkein k fun x => { x with deadline := none, expired := true }).skTurn k)) ∧
    (∀ due, x.deadline = some due → s.clock < due → exec (.skeinTimerExpiry k) s = .next s)) ∧
  (∀ (s : State) (k part slot : Nat), let x := s.skein k
    let core := s.coreAt (k / 64)
    (x.state = .fire → x.node = true → part < 32 → s.ownsPart x.vd core part = true →
      s.roomAt core part slot (16 * skRegs x.node (s.num x.desc 64)) = true → (s.vd x.vd).pstate = .awake →
      exec (.skeinFire k part slot) s = .next (s.placeBatch k core part slot).skTurnAll) ∧
    (x.state = .fire → x.node = false → (∀ r ∈ x.batch, r.det = true) ∨ ((s.vd x.vd).replay = false ∧ (s.vd x.vd).reclog.enabled = false) →
      part < 32 → s.ownsPart x.vd core part = true → s.roomAt core part slot (16 * skRegs false (s.num x.desc 64)) = true →
      (s.vd x.vd).pstate = .awake →
      exec (.skeinFire k part slot) s = .next (s.placeBatch k core part slot).skTurnAll ∧
      (x.batch.length ≤ 32 → let t := s.placeBatch k core part slot
        t.mem = s.mem ∧ t.nextGid = s.nextGid + 1 ∧ t.nextTeam = s.nextTeam + 1 ∧ (t.skein k).state = .run ∧ (t.skein k).gid = s.nextGid ∧
        (t.skein k).batch.length = x.batch.length ∧ ∃ w, t.others = s.others ++ [w] ∧ w.id = s.nextGid ∧ w.kind = .combiner k ∧
          (∀ i r, x.batch[i]? = some r → ∃ r', (t.skein k).batch[i]? = some r' ∧ r' = { r with token := r'.token } ∧
            (w.vreg 4).lane i = r'.token) ∧
          (∀ (i j : Nat) (r r' : SkRecord), i ≠ j → (t.skein k).batch[i]? = some r → (t.skein k).batch[j]? = some r' → r.token ≠ r'.token))) ∧
    (x.state ≠ .fire → exec (.skeinFire k part slot) s = .next s) ∧
    (∀ c, x.state = .run → x.firstIssue = some c → c + 100000 ≤ s.clock →
      exec (.watchdogExpiry k) s = .next (s.halt x.gid)) ∧
    (∀ c, x.state = .run → x.firstIssue = some c → s.clock < c + 100000 → exec (.watchdogExpiry k) s = .next s)) ∧
  (∀ (s : State) (k core part slot : Nat) (d : Nat), let x := s.skein k
    let g := s.batchGroup k core part slot x d
    g.id = s.nextGid ∧ g.live = true ∧ g.pc = skEntry x.node d ∧ g.alloc = 16 * skRegs x.node d ∧ g.vd = x.vd ∧
    (∀ i < 32, hasLane g.exec i = decide (i < x.batch.length)) ∧ g.core = core ∧ g.part = part ∧ g.slot = slot ∧
    g.retired = 0 ∧ g.stack = [] ∧ g.level = .program ∧
    (∀ i < 32, ∀ r, x.batch[i]? = some r → ∀ j < 4, (g.vreg j).lane i = r.words.getD j 0) ∧
    nget 0 g.s 1 = BitVec.ofNat 32 x.batch.length) ∧
  (∀ (s : State) (lane : Nat) (answer : Answer) (mark : Bool) (va : DWord) (pa since : Nat) (dest : Dest) (size : Nat) (m : Mask)
      (got : List (Nat × Answer)),
    let g := s.grp
    g.wait = some (.reply va pa dest size m since got) → inPeer pa = true → hasLane m lane = true → (∀ e ∈ got, e.1 ≠ lane) →
    (∀ o ∈ g.queue 6, ∀ v a t ls, o.kind = .post v a true t ls → ∀ r ∈ ls, r.lane ≠ lane) →
    exec (.postReplyArrival (.peer g.id lane answer mark)) s = .next (State.finishReply { s with
      clock := if answer = .timeout then max s.clock (since + (s.vd g.vd).rtimeout * 1500) else s.clock
      launches := s.launches.map fun x => if mark = true ∧ g.launch = some x.id then { x with unrepl := true } else x
      grp := { g with wait := some (.reply va pa dest size m since (got ++ [(lane, answer)])) } } g.id)) ∧
  (∀ (s : State) (va : DWord) (pa since : Nat) (dest : Dest) (size : Nat) (m : Mask) (got : List (Nat × Answer)), let g := s.grp
    g.wait = some (.reply va pa dest size m since got) → g.saved = false →
    ((∃ i < 32, hasLane m i = true ∧ ∀ e ∈ got, e.1 ≠ i) → s.finishReply g.id = s) ∧
    ((∀ i < 32, hasLane m i = true → ∃ ws, (i, Answer.reply ws) ∈ got) → (∀ e ∈ got, ∃ ws, e.2 = Answer.reply ws) →
      s.finishReply g.id = { s with grp := (got.foldl (fun (h : Group) e =>
        match e.2 with | .reply ws => h.putWords dest e.1 0 ws | _ => h) g).finish })) ∧
  (∀ (s : State) (sys : Bool) (seq pa since : Nat) (l : DepLane) (ls : List DepLane) (rest : List EngineOp), let g := s.grp
    let b := s.num pa 32
    g.saved = false → g.queue 6 = ⟨seq, .signal sys since (l :: ls)⟩ :: rest → ls ≠ [] →
    s.blockPlace g l.block 8 = .inr pa → inHost pa = false → inPeer pa = false → s.isRemote pa = false → bReserved b = true → s.badRange pa 32 = false →
    let b1 := setField b 0 32 (field b 0 32 + 0xFFFFFFFF)
    let put := s.putNum pa 32 b1
    let t := if bPub b1 && field b1 0 32 = 0 then put.enqueueBlock b1 else put
    exec (.postQueuePartPerformed g.id) s = .next { t with
      grp := { g.setQueue 6 (⟨seq, .signal sys since ls⟩ :: rest) with postBegun := some seq } }) ∧
  (∀ (s : State) (seq pa : Nat) (desc : DWord) (c : Word) (l : DepLane) (ls : List DepLane) (rest : List EngineOp), let g := s.grp
    let b := s.num pa 32
    let b0 := setField (setField b 64 64 desc.toNat) 128 (32 * l.words.length) (ofWords l.words)
    let after := fun (t : State) => exec (.postQueuePartPerformed g.id) s = .next { t with
      grp := { t.grp.setQueue 6 (⟨seq, .enqDep desc c ls⟩ :: rest) with postBegun := some seq } }
    g.saved = false → g.queue 6 = ⟨seq, .enqDep desc c (l :: ls)⟩ :: rest → ls ≠ [] →
    (∀ d a, s.blockPlace g l.block 32 = .inl (.failed d a) → after { s with grp := { g with
      records := nset none g.records 6 ((g.record 6).or (some ⟨d, a⟩)) } }) ∧
    (s.blockPlace g l.block 32 = .inr pa →
      (s.isRemote pa = true ∨ bReserved b = false → after { s with grp := { g with
        records := nset none g.records 6 ((g.record 6).or (some ⟨12, l.block⟩)) } }) ∧
      (s.isRemote pa = false → bReserved b = true →
        (∀ n, bPub b = true → s.devTranslate g.vd .load desc = .ok n →
          let t := s.putNum pa 32 b0
          after (t.putAt g.vd n 64 (setField (t.num n 64) 128 32 (field (t.num n 64) 128 32 + 1)))) ∧
        (bPub b = false →
          let b1 := setField (setField (setField b0 0 32 (field b0 0 32 + c.toNat)) 63 1 1) 48 8 g.vd
          let put := s.putNum pa 32 b1
          ((BitVec.ofNat 32 (field b1 0 32)).toInt ≤ 0 → after { put with depRecords := put.depRecords ++ [{
            core := 0, node := true, desc := 0, item := {
              words := toWords 4 (field b1 128 128), vd := field b1 48 8, addr := BitVec.ofNat 64 (field b1 64 64) } }] }) ∧
          (0 < (BitVec.ofNat 32 (field b1 0 32)).toInt → after put))))) ∧
  (∀ (s : State) (w : Waiting) (v k : Nat), s.waiting = [] → k / 64 = w.core →
    (if w.node then v = w.item.vd else s.frameOwner w.desc = some v ∧ oBroken (s.num w.desc 64) = false) →
    s.holdsCore v (s.coreAt w.core) = true →
    let x := s.skein k
    let bound := fun (m : Nat) => (s.skein m).state ≠ .free ∧ (s.skein m).node = w.node ∧ (s.skein m).desc = w.desc
    let timer := s.clock + skTimer w.node (s.num w.desc 64)
    (bound k → (∀ m < k, m / 64 = w.core → ¬ bound m) →
      (x.held.length < 32 → w.node = false ∨ x.vd = v → s.arriveHome w = State.skTurn (State.wakeDev (s.modSkein k fun x => { x with
        held := x.held ++ [w.item], vd := v, deadline := if x.held = [] then some timer else x.deadline }) v) k) ∧
      (32 ≤ x.held.length ∨ (w.node = true ∧ x.vd ≠ v) → s.arriveHome w = { s with waiting := [w] })) ∧
    ((∀ m, m / 64 = w.core → ¬ bound m) →
      (x.state = .free → (∀ m < k, m / 64 = w.core → (s.skein m).state ≠ .free) →
        s.arriveHome w = State.skTurn (State.wakeDev (s.modSkein k fun _ => {
          state := .fill, node := w.node, desc := w.desc, vd := v, held := [w.item], deadline := some timer }) v) k) ∧
      ((∀ m, m / 64 = w.core → (s.skein m).state ≠ .free) → s.arriveHome w = { s with waiting := [w] }))) ∧
  (∀ (s : State) (l : Nat), let marked := s.launches.map fun x => if x.id = l then { x with unrepl := true } else x
    exec (.unloggedMarkNotice ⟨l, true⟩) s = .next { s with launches := marked } ∧
    (l ∈ s.marks → exec (.unloggedMarkNotice ⟨l, false⟩) s = .next { s with marks := s.marks.erase l, launches := marked }) ∧
    (l ∉ s.marks → exec (.unloggedMarkNotice ⟨l, false⟩) s = .next s))

/-! Streamed layers (23 R281-R294). -/

/-- 23 R285-R292: LWAIT on a RESIDENT layer raises its PIN, sets CURSOR and gives the window's address in a pair; on a FAULTED one it
takes the swap-fault trap with its cause; otherwise it parks, and asks for the layer. LDONE, with the group's accesses performed,
lowers the PIN its launch holds, and waits for what a QFENCE orders before it (13 R195); without a pin it is an illegal operand. LHINT asks for an ABSENT layer of an ACTIVE context and otherwise does nothing (R292). A fetch
starts while none is arriving, in a window of zeros; an arrival makes the layer RESIDENT, with SEQ one higher, and gives the groups parked on it their
pins, up to PIN FFFF, with which a resident group goes on, the window's address in its pair; a failed fetch makes it FAULTED with
its cause, which the resident groups parked on it take as a swap-fault trap (R287). What a fetch reads of a peer leaves as requests as
it starts (27 R346, log 51), and a saved group is not parked: its LWAIT executes again (R290, log 29). A complete eviction makes it ABSENT and returns the frames. -/
def Obligations.LayersAreStreamed : Prop :=
  (∀ (s : State) (a j : BitVec 7) (n L : Nat) (va : DWord) (e : Nat),
    let q := s.loadsFirst
    let g := q.grp
    let ea := entryVa (q.devRead g.vd va 64) L
    let used := q.useLayer n L
    g.retry = none → g.remote = none → 112 ≤ a.toNat → a.toNat ≤ 124 → j.toNat ≤ 125 →
    q.layerNamed (a.toNat - 112) = some (n, va, L) →
    (g.held 0 = true → exec (.lwait a j) s = .next { q with grp := { g with wait := some (.paths 0), active := false } }) ∧
    ∀ pa, q.readVa g 0 ea 32 = .value pa e →
    let mine := used.modCtx n fun c => { c with demand := c.demand.filter fun p => p.1 ≠ g.id }
    (lState e = 4 → exec (.lwait a j) s = .next (mine.trap 0x24 (lCause e) g.exec ea)) ∧
    (∀ l, g.launch = some l → lState e = 2 → lPin e < 0xFFFF →
      let t := ((mine.putEntry g.vd (q.devRead g.vd va 64) L 0 8 (setField (field e 0 64) 48 16 (lPin e + 1))).modLaunch l
        fun x => { x with pins := addPin x.pins va L }).putCursor g.vd va L
      exec (.lwait a j) s = .next { t with grp := { g.setPair j.toNat (BitVec.ofNat 64 (lWin e)) with pc := nextSlot g.pc } }) ∧
    (lState e ≠ 4 → lState e ≠ 2 ∨ 0xFFFF ≤ lPin e →
      exec (.lwait a j) s = .next (
        let t := used.modCtx n fun c =>
          { c with demand := if c.demand.contains (g.id, L) then c.demand else c.demand ++ [(g.id, L)] }
        { t with grp := { g with wait := some (.layer va L j.toNat false), active := false } }))) ∧
  (∀ (s : State) (a : BitVec 7) (n L : Nat) (va : DWord) (e : Nat),
    let g := s.grp
    g.retry = none → g.remote = none → 112 ≤ a.toNat → a.toNat ≤ 124 → s.layerNamed (a.toNat - 112) = some (n, va, L) →
    let d := s.devRead g.vd va 64
    (s.holdsPin g va L = false → exec (.ldone a) s = .next (s.trap 0x06 0 g.exec 0)) ∧
    (s.holdsPin g va L = true → g.held 0 = true →
      exec (.ldone a) s = .next { s with grp := { g with wait := some (.paths 0), active := false } }) ∧
    (∀ l pa, g.launch = some l → s.holdsPin g va L = true → g.held 0 = false → s.readVa g 0 (entryVa d L) 32 = .value pa e →
      let u := (s.useLayer n L).drainOwn
      let f := u.layerEntry g.vd d L
      exec (.ldone a) s = .next (
        let t := (u.putEntry g.vd d L 0 8 (setField (field f 0 64) 48 16 (lPin f - 1))).modLaunch l
          fun x => { x with pins := subPin x.pins va L }
        { t with grp := { t.grp with pc := nextSlot g.pc } })) ∧
    (lState (s.layerEntry g.vd d L) = 0 → exec (.lhint a) s = .next (
      let t := s.modCtx n fun c => { c with hints := if c.hints.contains L then c.hints else c.hints ++ [L] }
      { t with grp := { g with pc := nextSlot g.pc } })) ∧
    (lState (s.layerEntry g.vd d L) ≠ 0 →
      exec (.lhint a) s = .next { s with grp := { g with pc := nextSlot g.pc } })) ∧
  (∀ (s : State) (a : BitVec 7), s.grp.retry = none → a.toNat < 112 ∨ 124 < a.toNat ∨ s.layerNamed (a.toNat - 112) = none →
    exec (.lhint a) s = .next { s with grp := { s.grp with pc := nextSlot s.grp.pc } }) ∧
  (∀ (s : State) (n L : Nat) (c : Ctx) (demand : Bool) (win : Nat), s.ctxs[n]? = some c →
    let d := s.ctxDesc c
    let e := s.layerEntry c.vd d L
    let p := (lSize e + 65535) / 65536
    (c.arriving ≠ none ∨ c.launches = [] → exec (.layerFetchStart n) s = .next s) ∧
    (c.arriving = none → c.launches ≠ [] → (s.vd c.vd).pstate = .awake → s.nextLayer c = some (L, demand) →
      s.windowPlace c p = some win → c.pagesUsed + p ≤ cVwsize d → p ≤ s.poolSize c.vd →
      let taken := takeVaults c.vd p s
      exec (.layerFetchStart n) s = .next (((((mapPages c.vd win (taken.1.map some) (fillFrames taken.1 [] taken.2)).putEntry
        c.vd d L 16 8 win).putEntry c.vd d L 0 8 (setField (field e 0 64) 33 3 1)).askFor c.vd (fetchReads d e L)).modCtx n fun c => { c with
          arriving := some L, frames := c.frames ++ [(L, taken.1)], hints := c.hints.filter (· ≠ L) })) ∧
    (c.arriving = some L →
      (∀ bs, s.fetch c.vd d e L = .image bs →
        let filled := (fillFrames (c.window L) bs s).modCtx n fun c => { c with arriving := none }
        let parked := (fillFrames (c.window L) bs s).parkedOn c L
        let pinned := parked.take (0xFFFF - lPin e)
        let t := pinned.foldl (fun u g => (u.modPins g fun ps => addPin ps c.va L).modGroup g.id fun g =>
          { g with wait := match g.wait with | some (.layer a i j _) => some (.layer a i j true) | w => w }) filled
        exec (.layerArrival n) s = .next ((parked.map fun g => g.id).foldl State.finishLayer (t.putEntry
          c.vd d L 0 8 (setField (setField (setField (field e 0 64) 33 3 2) 0 32 (lSeq e + 1)) 48 16 (lPin e + pinned.length))))) ∧
      (∀ cause, s.fetch c.vd d e L = .failed cause → exec (.layerArrival n) s = .next s ∧
        let parked := s.parkedOn c L
        exec (.layerFetchFault n cause) s = .next (parked.foldl
          (fun u g => u.trapGroup g.id 0x24 cause g.exec (entryVa d L))
          (((s.unmapWindow c.vd e (c.window L)).modCtx n fun c => { c with
            arriving := none, demand := c.demand.filter fun p => !(parked.any fun g => g.id = p.1) }).dropWindow n L
              fun low => setField (setField low 33 3 4) 36 4 cause)))) ∧
    (L ∈ c.evicting → exec (.evictionComplete n L) s = .next ((s.dropWindow n L fun low => setField low 33 3 0).modCtx n fun c =>
      { c with evicting := c.evicting.erase L })) ∧
    (L ∉ c.evicting → exec (.evictionComplete n L) s = .next s)) ∧
  (∀ (s : State) (gid : Nat) (w : Group) (va : DWord) (L j : Nat) (got : Bool), s.group gid = some w →
    w.wait = some (.layer va L j got) →
    (got = false ∨ w.saved = true → s.finishLayer gid = s) ∧
    (∀ n, got = true → w.saved = false → s.ctxIndex w.vd va = some n →
      s.finishLayer gid = (((s.modCtx n fun c => { c with demand := c.demand.filter fun p => p.1 ≠ gid }).putCursor w.vd va L).modGroup gid
        fun g => (g.setPair j (BitVec.ofNat 64 (lWin (s.layerEntry w.vd (s.devRead w.vd va 64) L)))).finish)))

/-! Mapping and invalidation (13 R178, R179, 25 R321, R322). -/

/-- 25 R321, R322, 13 R178, R179: PMAP, TLBI.DRAIN and TLBI.CONFIRM below supervisor level take the privilege trap. PMAP of a page
whose level-4 entry stands and is invalid takes the next frame of the device's ring and maps it with the permissions asked,
status 0; of one already mapped it gives 3, of one it cannot map 4; where a table is missing or the ring is empty it parks
under a tag for MAPREPLY, whose answer, by the device's own function (R340) or, as log 39 has it, the physical one, goes to its
destination. What PMAP reads of the ring and writes of the table at a peer leaves as requests (27 R346). A drain marks the device's lookaside entries in
the range and cuts its translation registers; a confirm waits for the device's atomics that were translated there
and that the host or a peer has not answered, or that were answered and have not issued again (log 39), performs the device's outstanding accesses and removes the entries. -/
def Obligations.MapsAndInvalidations : Prop :=
  (∀ (s : State) (d a : BitVec 7) (e w : BitVec 1) (j : BitVec 7), let g := s.grp
    g.level ≠ .supervisor →
    (112 ≤ a.toNat → a.toNat ≤ 125 → goodDest d.toNat → g.allocated [d.toNat] →
      exec (.pmap d a e w) s = .next (s.trap 0x22 0 g.exec 0)) ∧
    (j.toNat ≤ 124 → exec (.tlbiDrain j) s = .next (s.trap 0x22 0 g.exec 0)) ∧
    exec .tlbiConfirm s = .next (s.trap 0x22 0 g.exec 0)) ∧
  (∀ (s : State) (d a : BitVec 7) (e w : BitVec 1), let g := s.grp
    let va := (g.spairSrc (a.toNat - 112)).toNat / 0x10000 * 0x10000
    let pool := (s.vd g.vd).frames
    let gives := fun (t : State) (status : Word) => ({ t with grp := { g.putLanes d.toNat g.exec (fun _ => status) with
      pc := nextSlot g.pc } } : State)
    let asks := fun (o : Out) => ∃ (tag : Nat) (t : State), o = .next t ∧ tag ∈ (t.vd g.vd).tags ∧
      t.grp = { g with wait := some (.map tag (BitVec.ofNat 64 va) none (g.vdest d.toNat) g.exec), active := false }
    g.retry = none → g.level = .supervisor → 112 ≤ a.toNat → a.toNat ≤ 125 → goodDest d.toNat → g.allocated [d.toNat] →
    (s.entryOf g.vd va = .malformed → exec (.pmap d a e w) s = .next (gives s 4)) ∧
    (∀ x, s.entryOf g.vd va = .at x →
      (s.num (s.alias x) 8 % 2 = 1 → exec (.pmap d a e w) s = .next (gives s 3)) ∧
      (s.num (s.alias x) 8 % 2 = 0 → pool.log2n ≠ 0 → pool.prod ≠ pool.cons →
        let slot := pool.base + 8 * (pool.cons.toNat % 2 ^ pool.log2n)
        s.physOk slot = true →
        let entry := s.num (s.alias slot) 8 / 0x10000 * 0x10000 + 0x25 + (if w = 1 then 8 else 0) + (if e = 1 then 16 else 0)
        exec (.pmap d a e w) s = .next (gives (((s.engineGet g.vd slot 8).modVd g.vd fun v => { v with
          frames := { v.frames with cons := v.frames.cons + 1 } }).putAt g.vd (s.alias x) 8 entry) 0)) ∧
      (s.num (s.alias x) 8 % 2 = 0 → pool.log2n = 0 ∨ pool.prod = pool.cons → asks (exec (.pmap d a e w) s))) ∧
    (s.entryOf g.vd va = .absent → asks (exec (.pmap d a e w) s)) ∧
    (∀ t : State, ∀ tag page dest m, t.grp.wait = some (.map tag page none dest m) → t.grp.id ≠ 0 → t.grp.saved = false →
      t.hostUp = true → t.grp.vd < 256 → tag < 2 ^ 32 → tag ∈ (t.vd t.grp.vd).tags → ∀ answer, answer = 1 ∨ answer = 2 →
      ∀ func, func = t.grp.vd ∨ func = 0 → exec (.mapreply func t.grp.vd (BitVec.ofNat 64 (answer * 2 ^ 32 + tag))) t = .next (
        let u := t.modVd t.grp.vd fun v => { v with tags := v.tags.erase tag }
        { u with grp := (t.grp.writeDest dest 0 m fun _ => BitVec.ofNat 32 answer).finish }))) ∧
  (∀ (s : State) (j : BitVec 7), let g := s.grp
    let r : DrainRange := { base := BitVec.ofNat 64 ((g.spairSrc j.toNat).toNat / 0x10000 * 0x10000), pages := (g.ssrc (j.toNat + 2)).toNat }
    g.retry = none → g.level = .supervisor →
    (j.toNat ≤ 124 → let t := s.drainRange g.vd r
      exec (.tlbiDrain j) s = .next { t with grp := { t.grp with drains := g.drains ++ [r], pc := nextSlot g.pc } } ∧
      t.tlb = s.tlb.map (fun e => if e.vd = g.vd ∧ r.overlaps e.page e.size then { e with draining := true } else e) ∧
      (∀ h ∈ t.groups, h.vd = g.vd → ∀ k, (h.xreg k).valid = true →
        r.overlaps (h.xreg k).vbase.toNat (h.xreg k).limit.toNat = true → (h.xreg k).limit = 0) ∧
      (∀ h ∈ t.groups, h.vd = g.vd → ∀ n ps c, h.wait = some (.remote true n ps c) →
        (∃ p ∈ ps, r.overlaps p.va.toNat 1 = true) → h.drained = true) ∧
      t.mem = s.mem) ∧
    let waits := g.drains ≠ [] ∧ ∃ h ∈ s.groups, h.id ≠ 0 ∧ h.vd = g.vd ∧ h.saved = false ∧ h.drained = true ∧
      ((∃ n ps c, h.wait = some (.remote true n ps c)) ∨ (h.wait = none ∧ h.remote ≠ none))
    (waits → exec .tlbiConfirm s = .next { s with grp := { g with wait := some .confirm, active := false } }) ∧
    (g.drains = [] → exec .tlbiConfirm s = .next { s with grp := { g with pc := nextSlot g.pc } }) ∧
    (g.drains ≠ [] → ¬ waits →
      let t := (s.drainDevice g.vd).dropDraining g.vd g.drains
      exec .tlbiConfirm s = .next { t with grp := { t.grp with drains := [], pc := nextSlot g.pc } } ∧
      ∀ e ∈ t.tlb, e.vd = g.vd → e.draining = true → ∀ q ∈ g.drains, q.overlaps e.page e.size = false))

/-! Scheduling (03 R34-R39, R42, 07 R71, R72, 15 R222, 25 R323). -/

/-- 03 R34-R36, 07 R71, R72, 15 R222, 25 R323: FRAME_FETCH of a mapped frame gives the group its eight words and changes nothing but the
lookaside buffers. A stall count or a pause is over when the clock has reached its end. A partition's candidate is the eligible
group that paused not, and issued or entered longest ago, the lower slot first. The group ready the longest enters an active
set with room, where the partition has no candidate or the group has been ready with room for 16 clk; a group ready for 64 clk takes
the place of a paused group or of the one active the longest; each move takes the partition's clk (log 17). The failure of a host or peer
access reaches the group that waits for it, in the lanes that failed, as detail 1 at the target and, once the remote timeout has
passed, 2, but a load's that the group's saving has made stale (25 R326) is dropped; without a waiting access it leaves the sticky
error of a store. -/
def Obligations.GroupsAreScheduled : Prop :=
  (∀ (s : State) (pa : Nat), let g := s.grp
    g.live = true → g.saved = false → g.stopped = false → g.wait = none → g.pc.toNat % 4 = 0 → g.pc.toNat % 32 ≠ 0 →
    s.translate g.agent g.vd .fetch (frameBase g.pc) = .ok pa → s.badRange pa 32 = false →
    s.num pa 4 / 2 ^ 29 = 0 → s.num pa 4 % 2 = 0 →
    exec (.frameFetch g.id) s = .next { s with
      tlb := (s.tlbFill g.agent g.vd .fetch (frameBase g.pc)).tlb
      grp := { g with frame := some (frameBase g.pc, toWords 8 (s.num pa 32)) } }) ∧
  (∀ s : State, let g := s.grp
    exec (.stallCountElapse g.id) s = .next { s with clock := max s.clock g.stallUntil } ∧
    (g.pausedUntil ≠ 0 → exec (.pauseExpiry g.id) s = .next { s with
      clock := max s.clock g.pausedUntil, grp := { g with pausedUntil := 0 } })) ∧
  (∀ (s : State) (core part : Nat) (g : Group), s.candidate core part none = some g →
    g ∈ s.groups ∧ g.core = core ∧ g.part = part ∧ s.eligible g = true ∧
    ∀ h ∈ s.groups, h.live = true → h.saved = false → h.core = core → h.part = part → s.eligible h = true →
      keyLess [if s.clock < h.pausedUntil then 1 else 0, h.lastIssue.getD h.enteredAt, h.slot]
        [if s.clock < g.pausedUntil then 1 else 0, g.lastIssue.getD g.enteredAt, g.slot] = false) ∧
  (∀ (s : State) (core part : Nat) (g : Group),
    let key := 32 * core + part
    let act := s.groups.filter fun h => h.live && !h.saved && h.core = core && h.part = part && h.active
    let used := nset 0 s.selFree key (s.clock + 1)
    let enter := fun (t : State) => { t.modGroup g.id fun h => { h with active := true, enteredAt := s.clock, lastIssue := none } with
      selFree := used }
    s.oldestReady core part = some g →
    (act.length < 8 → nget 0 s.selFree key ≤ s.clock →
      s.candidate core part none = none ∨ max g.readySince (nget 0 s.fullAt key) + 16 ≤ s.clock →
      exec (.activeSetFill core part) s = .next (enter s)) ∧
    (8 ≤ act.length ∨ s.clock < nget 0 s.selFree key → exec (.activeSetFill core part) s = .next s) ∧
    (∀ k out, leastKey (act.map fun h => ([if s.clock < h.pausedUntil then 0 else 1, h.enteredAt, h.slot], h)) = some (k, out) →
      (act.length < 8 ∨ s.clock < g.readySince + 64 → exec (.forcedRotation core part) s = .next s) ∧
      (8 ≤ act.length → g.readySince + 64 ≤ s.clock → nget 0 s.selFree key ≤ s.clock → exec (.forcedRotation core part) s =
        .next (enter (s.modGroup out.id fun h => { h with active := false, readySince := s.clock }))))) ∧
  (∀ (s : State) (atomic : Bool) (size tag : Nat) (ps : List LaneLoad) (m lanes : Mask) (since : Nat), let g := s.grp
    g.wait = some (.remote atomic size ps since) → (∀ i < 32, hasLane m i = ps.any fun p => p.lane = i) →
    let stale := atomic = false ∧ (g.saved = true ∨ g.gentag.toNat ≠ tag)
    (g.remote = none → m &&& lanes ≠ 0 → ¬ stale →
      exec (.remoteErrorReply ⟨g.id, lanes, tag⟩) s = .next { s with
        grp := { g with remote := some { failed := m &&& lanes, detail := 1, places := ps } } } ∧
      exec (.remoteTimeout ⟨g.id, lanes, tag⟩) s = .next { s with
        clock := max s.clock (since + (s.vd g.vd).rtimeout * 1500)
        grp := { g with remote := some { failed := m &&& lanes, detail := 2, places := ps } } }) ∧
    (g.remote ≠ none ∨ m &&& lanes = 0 ∨ stale →
      exec (.remoteErrorReply ⟨g.id, lanes, tag⟩) s = .next s ∧ exec (.remoteTimeout ⟨g.id, lanes, tag⟩) s = .next s) ∧
    (g.saved = false → exec (.loadReturn g.id g.gentag.toNat) s = .next { s with
      grp := { g with remote := some { failed := 0, detail := 0, places := ps } } })) ∧
  (∀ (s : State) (seq lane pa since vd : Nat) (va : DWord) (bs : List Byte) (es : List StoreEntry) (lanes : Mask) (tag : Nat), let g := s.grp
    g.wait = none → g.saved = false → g.pend = [] →
    g.storeQ = { seq := seq, parts := [{ lane := lane, va := va, loc := .phys pa, bytes := bs }], since := since, vd := vd } :: es →
    s.isRemote pa = true → hasLane lanes lane = true →
    let out := if inPeer pa then s.hostOut ++ [.remoteRequest
      { domid := s.domid, peerGroup := (s.vd g.vd).peergrp, addr := pa, kind := .store bs }] else s.hostOut
    exec (.remoteErrorReply ⟨g.id, lanes, tag⟩) s = .next { s with
      hostOut := out, grp := { g with storeQ := es, sticky := g.sticky.or (some ⟨1, va⟩) } } ∧
    exec (.remoteTimeout ⟨g.id, lanes, tag⟩) s = .next { s with
      clock := max s.clock (since + (s.vd g.vd).rtimeout * 1500), hostOut := out
      grp := { g with storeQ := es, sticky := g.sticky.or (some ⟨2, va⟩) } })

/-! Launches and teams (03 R26-R30, R41, 25 R304-R310). -/

/-- 03 R27-R30, 05 R44, 25 R304-R311: the head entry of the work queue that the arbiter serves, the one whose age times TENSION no
other device's exceeds, is taken (at equal ages that of the device that comes next after the last one served), HEAD rising by 1, from when the next entry's wait counts
(since := clock: log 53, DEDUCED): a launch whose checks pass is accepted, and one that fails is completed with its status. What the
device reads of them at a peer leaves as requests, once, as the entry is taken (27 R346; DESIGN CHOICE, log 51). A team that may start, all of a CORES or DET grid in one step, is placed where it has its places, with all its groups, each at program level with every lane in its mask, its PC at ENTRY, an empty stack, and ARG,
UTV, TRB, BARBASE, CHECKMODE and SPB (R308) as its descriptor gives them and STV as its device does; its vector and uniform registers,
predicates, guard slots, translation registers, WINBASE, GENTAG and trap registers are 0. A team whose groups and engine operations are over leaves the machine, and so does a launch that has ended, with its teams and
groups. -/
def Obligations.LaunchesArePlacedAndEnd : Prop :=
  (∀ (s : State) (q : Nat), let c := nget {} s.queues q
    let a := c.base + 64 * (c.head.toNat % 2 ^ c.log2n)
    let e := s.num (s.alias a) 64
    let desc : DWord := BitVec.ofNat 64 e
    let entry := (BitVec.ofNat 32 (e / 2 ^ 128), BitVec.ofNat 64 (e / 2 ^ 64), e.testBit 169, c.vec)
    let status := if field e 160 9 ≠ 0 ∨ field e 170 342 ≠ 0 then 0x10 else s.launchStatus c.owner desc
    let taken := ((s.engineGet c.owner a 64).askFor c.owner (s.launchReads c.owner desc)).modVd c.owner fun d => { d with idleSince := none }
    let t : State := { taken with
      queues := nset {} s.queues q { c with head := c.head + 1, since := s.clock }, lastServed := c.owner }
    (s.queueReady q = true → ∀ r ∈ s.queues, r.2.owner ≠ c.owner → s.queueWaits r.1 = true → let o := nget {} s.queues r.1
      let age := fun (c : QueueCfg) => (s.clock - c.since) * (s.vd c.owner).tension
      age o ≤ age c ∧ (age o = age c → o.owner < 256 → c.owner < 256 → s.lastServed < 256 →
        (c.owner + 255 - s.lastServed) % 256 < (o.owner + 255 - s.lastServed) % 256)) ∧
    (s.queueReady q = true → s.complStalls c.owner (some entry) = false → s.launchStalls c.owner desc = false →
      s.physOk a = true → exec (.queueEntryTake (.queue q)) s = .next (
        if status = 0 then t.acceptLaunch c.owner desc (some entry) (some q) else t.complete16 c.owner 0 status 0 false false entry)) ∧
    (s.queueReady q = false → exec (.queueEntryTake (.queue q)) s = .next s)) ∧
  (∀ (s : State) (seq : Nat) (desc : DWord) (dest : Dest) (m : Mask) (rest : List EngineOp), let g := s.grp
    g.queue 6 = ⟨seq, .launch desc dest m⟩ :: rest → g.saved = false → s.launchStalls g.vd desc = false →
    let status := s.launchStatus g.vd desc
    let t : State := { s.askFor g.vd (s.launchReads g.vd desc) with
      grp := (g.writeDest dest 0 m fun _ => BitVec.ofNat 32 status).opDone 6 seq }
    exec (.queueEntryTake (.group g.id)) s = .next (if status = 0 then t.acceptLaunch g.vd desc none none else t)) ∧
  (∀ (s : State) (l : Nat) (p : TeamSpot) (others : List TeamSpot) (x : Launch), let spots := p :: others
    s.launch l = some x → x.cut = none → x.diverged = none → (s.vd x.vd).save = .running → (s.vd x.vd).pstate = .awake →
    (∀ q ∈ spots, ∀ u ∈ s.teams, u.launch = some l → u.teamid = q.team → u.saved = false) →
    ((dCores x.desc = true ∨ dDet x.desc = true) → (spots.map fun p => p.team) = List.range (dTeams x.desc)) →
    (x.nextTeam = 0 → x.ahead = [] → s.fitsReservoir x = true ∧ s.outranked x = false) →
    (∀ t, placeSpots l spots s = some t → exec (.teamPlace l p.team p.core ⟨p.places, others⟩) s = .next t) ∧
    (placeSpots l spots s = none → exec (.teamPlace l p.team p.core ⟨p.places, others⟩) s = .next s)) ∧
  (∀ (s : State) (l : Nat) (p : TeamSpot) (others : List TeamSpot) (x : Launch), let spots := p :: others
    s.launch l = some x → (dCores x.desc = true ∨ dDet x.desc = true) →
    (spots.map fun p => p.team) ≠ List.range (dTeams x.desc) →
    (∃ q ∈ spots, ∀ u ∈ s.teams, u.launch = some l → u.teamid = q.team → u.saved = false) →
    exec (.teamPlace l p.team p.core ⟨p.places, others⟩) s = .next s) ∧
  (∀ (s : State) (l : Nat) (x : Launch) (p : TeamSpot) (u : State), let d := x.desc
    s.launch l = some x → s.placeSpot l p = some u → s.lcoreOk x p.team p.core = true →
    (∀ g ∈ s.groups, g.id < s.nextGid ∧ g.team < s.nextTeam) → (∀ t ∈ s.teams, t.id < s.nextTeam) →
    (∀ g ∈ s.groups, g ∈ u.groups) ∧ u.mem = s.mem ∧ u.nextTeam = s.nextTeam + 1 ∧
    (∀ i, i < dGroups d → ∃ g ∈ u.groups, g.id = s.nextGid + i ∧ g.live = true ∧ g.saved = false ∧ g.team = s.nextTeam ∧
      g.launch = some x.id ∧ g.groupid = i ∧ g.teamid = p.team ∧ g.core = p.core ∧ (g.part, g.slot) = p.places.getD i (0, 0) ∧
      g.alloc = 16 * ((dBudgets d).getD i (1, 0, 0)).1 ∧ g.exec = allLanes ∧ g.retired = 0 ∧
      g.pc = dEntry d ∧ g.stack = [] ∧ g.level = .program ∧ g.arg = dArgs d ∧ g.utv = dUtv d ∧ g.trb = dTrb d ∧
      g.barbase = dBarbase d ∧ g.stv = (s.vd x.vd).stv ∧ g.checkmode = dCheck d ∧ g.passno = 0xFFFFFFFF ∧
      g.spb = (if dSpillbase d = 0 then 0 else BitVec.ofNat 32 (dSpillbase d / 32768 + 32 * (p.team % dSpillteams d) + i)) ∧
      g.winbase = 0 ∧ g.gentag = 0 ∧ g.trap = {} ∧ g.v = [] ∧ g.s = [] ∧ g.p = [] ∧ g.q = 0 ∧ g.gs = [] ∧ g.xs = [])) ∧
  (∀ (s : State) (team : Nat) (t : Team), s.team team = some t →
    let mine := s.groups.filter fun g => g.team = team && g.id ≠ 0
    ((∃ g ∈ mine, g.over = false) → exec (.teamEnd team) s = .next s) ∧
    ((∀ g ∈ mine, g.over = true) → ∃ u, exec (.teamEnd team) s = .next u ∧
      (∀ x ∈ u.teams, x.id ≠ team) ∧ (∀ g ∈ u.groups, g.id ≠ 0 → g.team ≠ team) ∧
      (∀ l x, t.launch = some l → s.launch l = some x → (u.launch l).map (fun y => y.ended) = some (x.ended + 1)))) ∧
  (∀ (s : State) (l : Nat) (x : Launch), s.launch l = some x → s.complStalls x.vd x.entry = false →
    (x.cut = none → x.ended ≠ dTeams x.desc → exec (.launchComplete l) s = .next s) ∧
    (x.headerDue ≠ none → exec (.launchComplete l) s = .next s) ∧
    (x.headerDue = none → x.cut = none → x.waitCut = none → x.ended = dTeams x.desc → x.diverged ≠ none →
      exec (.launchComplete l) s = .next (s.doCut l 0x33)) ∧
    (x.headerDue = none → x.cut ≠ none ∨ (x.waitCut = none ∧ x.ended = dTeams x.desc ∧ x.diverged = none) → ∃ u, exec (.launchComplete l) s = .next u ∧
      (∀ y ∈ u.launches, y.id ≠ l) ∧ (∀ y ∈ u.teams, y.launch ≠ some l) ∧ (∀ g ∈ u.groups, g.launch ≠ some l)))

/-! Power (01 R19-R22, 23 R295-R303, 25 R328). -/

/-- 01 R21, R22, 23 R298-R302, 25 R328: PWRLIM and HEATLIM take a written limit, clamped to their range and rounded down to a multiple of
25, from the physical function alone. A thermal step, 10 ms after the die's last, lowers the die's thermal limit by 25 W above the trip
point, and raises it by 25 W once the sensor has read below for 1 s, within 350-800. A refill step
lasts 1 ms and gives each created device its new LEVEL, never above RESCAP. A device idle for IDLETHR collapses; a wake turns a
collapsing or collapsed device to waking; a woken one is awake, WAKES one higher; its saved pages come back one by one. A scrub
leaves zeros in the frame and clears SCRUB, by a request where the entry lies at a peer (27 R346). -/
def Obligations.PowerSteps : Prop :=
  (∀ (s : State) (func die : Nat) (w : Word), s.fwfail = false →
    exec (.pwrlimWrite 0 w) s = .next { s with pwrlim := min 2800 (max 1500 (w.toNat % 4096)) / 25 * 25 } ∧
    (die < 4 → ∃ h, exec (.heatlimWrite 0 die w) s = .next { s with heatlim := h } ∧
      ∀ k, nget 700 h k = if k = die then min 800 (max 350 (w.toNat % 4096)) / 25 * 25 else nget 700 s.heatlim k) ∧
    (func ≠ 0 → exec (.pwrlimWrite func w) s = .next s ∧ exec (.heatlimWrite func die w) s = .next s)) ∧
  (∀ (s : State) (die : Nat) (r : SensorReading), die < 4 →
    let due := nget 0 s.lastThermal die + 15000000
    let old := nget 800 s.thermal die
    let now := max s.clock due
    let since := nget 0 s.coolSince die
    ∃ m t c, exec (.thermalLimitStep die r) s = .next { s with clock := now, lastThermal := m, thermal := t, coolSince := c } ∧
      nget 0 m die = now ∧ (∀ k, k ≠ die → nget 800 t k = nget 800 s.thermal k) ∧
      (r = .aboveTrip → nget 800 t die = max 350 (old - 25)) ∧ (r = .other → nget 800 t die = old) ∧
      (r ≠ .belowTrip → nget 0 c die = 0) ∧ (r = .belowTrip → since = 0 → nget 0 c die = now + 1 ∧ nget 800 t die = old) ∧
      (r = .belowTrip → since ≠ 0 → nget 0 c die = since ∧
        nget 800 t die = if since + 1500000000 ≤ now + 1 then min 800 (old + 25) else old)) ∧
  (∀ s : State, ∃ vds, exec .reservoirRefill s = .next { s with
      clock := max s.clock (s.lastRefill + 1500000), lastRefill := s.lastRefill + 1500000, vds := vds, free := s.free + 256 } ∧
    (∀ v d, (v, d) ∈ s.vds → (s.vds.map (fun p => p.1)).Nodup → d.created = true →
      nget {} vds v = { d with level := s.refilled v, draw := [], prevDraw := d.draw } ∧ s.refilled v ≤ 1000000 * (d.rescap : Int))) ∧
  (∀ (s : State) (v : Nat), let d := s.vd v
    (∀ c, d.idleSince = some c → d.created = true → d.pstate = .awake → s.deviceIdle v = true →
      exec (.idleThresholdExpiry v) s = .next (State.modVd { s with clock := max s.clock (c + d.idlethr * 1500) } v fun d =>
        { d with pstate := .collapsing, idleSince := none })) ∧
    (d.idleSince = none → exec (.idleThresholdExpiry v) s = .next s) ∧
    (d.pstate = .collapsing → d.wclass = 0 →
      exec (.collapseComplete v) s = .next (s.modVd v fun d => { d with pstate := .collapsed })) ∧
    (d.pstate = .collapsing → d.wclass ≠ 0 → ∃ t, exec (.collapseComplete v) s = .next t ∧ (t.vd v).pstate = .collapsed) ∧
    (d.pstate ≠ .collapsing → exec (.collapseComplete v) s = .next s) ∧
    (d.pstate = .waking → exec (.wakeComplete v) s =
      .next (s.modVd v fun d => { d with pstate := .awake, wakes := d.wakes + 1 })) ∧
    (d.pstate = .waking ∨ d.pstate = .awake → ∀ page, exec (.vaultPageRestore v page) s =
      .next (s.modVd v fun d => { d with unrestored := d.unrestored.filter (· ≠ page) })) ∧
    (∀ func value, s.fwfail = false → func = 0 ∨ func = v → value.getLsbD 0 = true → d.created = true →
      ∃ t, exec (.wake func v value) s = .next t ∧ t.vd v = { d with
        idleSince := none, pstate := if d.pstate = .collapsing ∨ d.pstate = .collapsed then .waking else d.pstate } ∧
        (∀ k, k ≠ v → t.vd k = s.vd k)) ∧
    (∀ func value, func ≠ 0 → func ≠ v → exec (.wake func v value) s = .next s)) ∧
  (∀ (s : State) (v va a e sh : Nat), s.physOk (s.vd v).ptroot = true →
    leafFrom (fun a => s.num (s.alias a) 8) s.physOk va walkLevels (s.vd v).ptroot = some (a, e, sh) →
    field e 7 1 = 1 → leafAligned e sh = true →
    ∃ m, exec (.scrubComplete v va) s = .next { s.sendPeer v (s.alias a) (.store (toBytes 8 (setField e 7 1 0))) with mem := m } ∧
      (∀ b, entryFrame e ≤ b → b < entryFrame e + 2 ^ sh → s.alias (entryFrame e) = entryFrame e → b + 8 ≤ s.alias a ∨ s.alias a + 8 ≤ b →
        nget unlistedByte m b = 0) ∧
      (∀ b, b < s.alias (entryFrame e) ∨ s.alias (entryFrame e) + 2 ^ sh ≤ b → b < s.alias a ∨ s.alias a + 8 ≤ b →
        nget unlistedByte m b = s.byte b))

/-! Saving and restoring (25 R325-R329, R327, 27 R350). -/

/-- 25 R325-R329, 27 R350: the halt of a device that is being saved, its stores performed, gives each of its groups a GENTAG one
higher, under which its outstanding loads stand as replay packets, and keeps all its registers; an atomic that has no answer by its
remote timeout has failed. The save then marks its teams saved, their generations one higher; the restore seats its teams, each on a
core of its own choosing, and makes its groups go on, and the device running. A time slice of 1 ms saves one logical core's teams. A
function-level reset leaves the device idle and its launches cut with status 0x34; of a device that is halting, saving, restoring or
saved it also scrubs the save area (R327); and it ends a command that runs with STATUS 3. That it leaves a running device idle too
is log 40's. A restored group's LWAIT executes again (23 R290; log 29's
reading), its other waits go on. The replay packets of a team that is restored are issued again, at the places that they are translated to then. A core with more than
64 errors in a second is retired, and another takes its number. -/
def Obligations.DevicesAreSavedAndRestored : Prop :=
  (∀ (s : State) (v : Nat), let mine := fun (g : Group) => g.id ≠ 0 && g.vd = v && g.kind = .launch && !g.saved
    (s.vd v).save = .halting → (∀ g ∈ s.groups, mine g = true → g.begun = false) →
    (∀ g ∈ s.groups, g.storeQ = []) → ∃ t, exec (.haltComplete v) s = .next t ∧ (t.vd v).save = .saving ∧
      t.mem = s.mem ∧ t.groups = s.groups.map (fun g => if mine g then g.save else g) ∧ s.clock ≤ t.clock ∧
      ∀ g ∈ s.groups, mine g = true → ∀ n ps since, g.wait = some (.remote true n ps since) → g.remote = none →
        since + (s.vd v).rtimeout * 1500 ≤ t.clock) ∧
  (∀ (s : State) (v : Nat), (s.vd v).save ≠ .halting → exec (.haltComplete v) s = .next s) ∧
  (∀ g : Group, g.save.saved = true ∧ g.save.active = false ∧ g.save.gentag = g.gentag + 1 ∧
    g.save.pend = g.pend.map (fun p => { p with tag := g.gentag + 1 }) ∧ g.save.v = g.v ∧ g.save.s = g.s ∧ g.save.p = g.p ∧
    g.save.q = g.q ∧ g.save.gs = g.gs ∧ g.save.xs = g.xs ∧ g.save.exec = g.exec ∧ g.save.retired = g.retired ∧
    g.save.stack = g.stack ∧ g.save.pc = g.pc ∧ g.save.level = g.level ∧ g.save.trap = g.trap ∧ g.save.wait = g.wait ∧
    g.save.queues = g.queues ∧ g.save.live = g.live ∧
    g.save.pausedUntil = 0 ∧
    (∀ n ps since, g.wait = some (.remote true n ps since) → g.remote = none → ∃ m, g.save.remote = some {
      failed := m, detail := 2, places := ps } ∧ ∀ i < 32, hasLane m i = ps.any fun p => p.lane = i)) ∧
  (∀ (s : State) (v : Nat), (s.vd v).save = .saving → ∃ t, exec (.saveComplete v) s = .next t ∧
    (t.vd v).save = (if (s.vd v).resumeHeld then .restoring else .saved) ∧ (t.vd v).resumeHeld = false ∧
    ((s.teams.map fun u => u.id).Nodup → ∀ u ∈ s.teams, u.vd = v → u.saved = false →
      ∃ w ∈ t.teams, w.id = u.id ∧ w.saved = true ∧ w.gen = (u.gen + 1) % 2 ^ 32)) ∧
  (∀ (s : State) (v : Nat), (s.vd v).save = .restoring → (∀ t ∈ s.teams, t.vd = v → t.saved = false) →
    exec (.restoreComplete v []) s = .next (s.modVd v fun d => { d with save := .running })) ∧
  (∀ (s : State) (v : Nat) (p : TeamSpot) (t : Team), (s.vd v).save = .restoring → s.team p.team = some t → t.vd = v →
    (s.seatTeam p.team p.core p.places = none → exec (.restoreComplete v [p]) s = .next s) ∧
    (∀ u, s.seatTeam p.team p.core p.places = some u → (∀ w ∈ u.teams, w.vd = v → w.saved = false) →
      exec (.restoreComplete v [p]) s = .next (u.modVd v fun d => { d with save := .running }))) ∧
  (∀ (s u : State) (team core : Nat) (places : List (Nat × Nat)), s.seatTeam team core places = some u →
    (∃ t, s.team team = some t ∧ t.saved = true ∧ core ∈ s.coresUp ∧ t.banks ≤ (s.coreRoom t.vd core false).banks) ∧ u.mem = s.mem ∧
    (∃ t, u.team team = some t ∧ t.saved = false ∧ t.core = core) ∧
    ∀ g ∈ s.groups, g.id ≠ 0 → g.team = team → ∃ h ∈ u.groups,
      let packet := fun (p : PendLoad) => (p.seq, p.tag, p.size, p.signExt, p.dest, p.lanes.map fun l => (l.lane, l.va))
      h.id = g.id ∧ h.saved = false ∧ h.core = core ∧ h.pc = g.pc ∧ h.exec = g.exec ∧ h.v = g.v ∧
      h.pend.map packet = g.pend.map packet ∧
      (∀ va L j got, g.wait = some (.layer va L j got) → h.wait = none) ∧
      ((∀ va L j got, g.wait ≠ some (.layer va L j got)) → h.wait = g.wait ∨ ∃ n ls ls' c, g.remote = none ∧
        g.wait = some (.remote false n ls c) ∧ h.wait = some (.remote false n ls' s.clock) ∧
        (ls'.map fun l => (l.lane, l.va)) = ls.map fun l => (l.lane, l.va))) ∧
  (∀ (s : State) (l a b : Nat) (x : Launch), s.launch l = some x → s.sliced x.vd x.desc = true → x.cut = none → a ≠ b →
    (s.vd x.vd).save = .running →
    let of := fun k => s.teams.filter fun t => t.launch = some l && t.teamid % max 1 (dLcores x.desc) = k
    let out := ((of a).filter fun t => !t.saved).map fun t => t.id
    out ≠ [] → (∀ g ∈ s.groups, g.id ≠ 0 → g.team ∈ out → g.begun = false) →
    ((∃ t ∈ of a, t.saved = false ∧ s.clock < t.placedAt + 1500000) → exec (.timeSliceExpiry l a b) s = .next s) ∧
    ((∀ t ∈ of a, t.saved = false → t.placedAt + 1500000 ≤ s.clock) → (∀ t ∈ of b, t.saved = false) →
      exec (.timeSliceExpiry l a b) s = .next (s.saveTeams out))) ∧
  (∀ (s : State) (v : Nat), 0 < v → v < 256 → (s.vd v).save = .running → (∀ x ∈ s.launches, x.vd ≠ v) →
    exec (.functionLevelReset v) s = .next (s.modVd v fun d => { d.abortCommand with save := .idle, resumeHeld := false })) ∧
  (∀ (s : State) (v : Nat), let d := s.vd v
    let cleared := fun (t : State) (m : NMap Byte) => (∀ a, nget unlistedByte m a =
        if d.savebase ≤ a ∧ a < d.savebase + d.savesize then 0 else t.byte a) ∧
      exec (.functionLevelReset v) s = .next (({ t with mem := m } : State).modVd v fun d =>
        { d.abortCommand with save := .idle, resumeHeld := false })
    0 < v → v < 256 → d.save = .halting ∨ d.save = .saving ∨ d.save = .restoring ∨ d.save = .saved →
    ((∀ x ∈ s.launches, x.vd ≠ v) → ∃ m, cleared s m) ∧
    (∀ x, s.launches = [x] → x.vd = v → ∃ m, cleared (s.cutLaunch x.id 0x34) m)) ∧
  (∀ (s : State) (v l : Nat) (x : Launch), 0 < v → v < 256 → (s.vd v).save = .running → s.launches = [x] → x.vd = v → x.id = l →
    exec (.functionLevelReset v) s = .next ((s.cutLaunch l 0x34).modVd v fun d =>
      { d.abortCommand with save := .idle, resumeHeld := false })) ∧
  (∀ d : VDev, let op := d.cmd.toNat % 256
    (d.busy = 0 ∨ op = 7 ∨ op = 8 → d.abortCommand = d) ∧
    (d.busy ≠ 0 → op ≠ 7 → op ≠ 8 → d.abortCommand.busy = 0 ∧ d.abortCommand.cmd.toNat % 256 = op ∧
      d.abortCommand.cmd.toNat / 2 ^ 8 % 2 ^ 8 = 0 ∧ d.abortCommand.cmd.toNat / 2 ^ 16 % 2 ^ 16 = 3 ∧
      d.abortCommand.cmd.toNat / 2 ^ 32 = d.cmd.toNat / 2 ^ 32)) ∧
  (∀ s : State, exec (.functionLevelReset 0) s = .next s) ∧
  (∀ (s : State) (core : Nat),
    (core < 256 → core ∉ s.retiredCores → core ∈ s.failing → (∀ t ∈ s.teams, t.core = core → t.saved = true) →
      ∃ t, exec (.coreRetirement core) s = .next t ∧ t.retiredCores = s.retiredCores ++ [core] ∧ t.replaceRequested = true ∧
        t.mem = s.mem ∧ (s.coresUp.filter (· ≠ core) ≠ [] → t.coreAt core ≠ core)) ∧
    (core ∉ s.failing → exec (.coreRetirement core) s = .next s))

/-! Commands (27 R342, R352). -/

/-- 27 R342, R352: a command written to a device's block by the physical function (DRAIN and CONFIRM by its own function too) takes
effect, and CMD then holds ARG, STATUS and OP. Where the function does not see the block, or another command runs (BUSY), nothing
changes; STATUS is 1 for
a command the function may not issue or an argument the table does not list, 3 for a device not created, and else by the
command: CREATE 3 on a created device; DESTROY 3 while it is busy, else no quadrant, group or vault is left to it; a grant
0 where the device holds the thing, 2 where another does; a revoke 3 where it does not hold it or the device is neither
collapsed nor saved; PREEMPT starts a save of a running device; RESUME restores a saved one, or is held; REPLAY 3 with a live
launch; DRAIN acts on the range in DRANGE, and CONFIRM on the ranges drained: while an atomic of the device that was translated there is
unanswered at the host or a peer, or was answered and has not issued again (log 39), it runs on with BUSY 1 (13 R179). The model's choices of log 39: a bad argument is answered (1) before a device not
created (3), PREEMPT outside RUNNING and RESUME in RUNNING, IDLE or RESTORING succeed and do nothing, and half of a quadrant held
whole is revocable. -/
def Obligations.CommandsAnswerWithAStatus : Prop :=
  ∀ (s : State) (func vd : Nat) (arg : Word),
    let d := s.vd vd
    let n := arg.toNat
    let q := 4 * (n % 256) + n / 256 % 4
    let kind := n / 1024 % 4
    let sees : Prop := s.fwfail = false ∧ vd < 256 ∧ (func = 0 ∨ func = vd) ∧ d.busy = 0
    let gives := fun (op : Nat) (i : Instr) (status : Nat) (t : State) =>
      exec i s = .next (t.modVd vd fun d => { d with cmd := BitVec.ofNat 64 (n * 2 ^ 32 + status * 2 ^ 16 + op) })
    let checks := fun (op : Nat) (i : Instr) (good : Prop) =>
      (¬sees → exec i s = .next s) ∧ (sees → (func ≠ 0 ∧ op ≠ 10 ∧ op ≠ 11) ∨ ¬good → gives op i 1 s) ∧
      (sees → func = 0 ∨ op = 10 ∨ op = 11 → good → op ≠ 1 → d.created = false → gives op i 3 s)
    let held := fun (v : Nat) (h : Nat) => s.ownsPart v (n % 256) (8 * (n / 256 % 4) + 4 * h) = true
    let goodQ : Prop := n < 4096 ∧ kind ≠ 1 ∧ n % 256 ∉ s.retiredCores
    let goodC : Prop := n < 24 ∧ n ∉ s.withdrawn
    checks 1 (.create func vd arg) (n < 3) ∧ checks 2 (.destroy func vd arg) (n = 0) ∧ checks 3 (.grantq func vd arg) goodQ ∧
    checks 4 (.revokeq func vd arg) goodQ ∧ checks 5 (.grantcg func vd arg) goodC ∧ checks 6 (.revokecg func vd arg) goodC ∧
    checks 7 (.preempt func vd arg) (n = 0) ∧ checks 8 (.resume func vd arg) (n = 0) ∧ checks 9 (.replay func vd arg) (n < 2) ∧
    checks 10 (.drain func vd arg) (n = 0) ∧ checks 11 (.confirm func vd arg) (n = 0) ∧ checks 12 (.grantv func vd arg) (n < 256) ∧
    checks 13 (.revokev func vd arg) (n < 256) ∧
    (sees → func = 0 → n < 3 → (d.created = true → gives 1 (.create func vd arg) 3 s) ∧
      (d.created = false → ∃ t, gives 1 (.create func vd arg) 0 t ∧ (∀ v, v ≠ vd → t.vd v = s.vd v) ∧
        let e := t.vd vd
        e.created = true ∧ e.wclass = n ∧ e.level = 1000000 * (d.rescap : Int) ∧ e.pstate = .awake ∧ e.wakes = 0 ∧
        ∀ b ∈ t.tlb, b.vd ≠ vd)) ∧
    (sees → func = 0 → n = 0 → d.created = true →
      (s.deviceBusy vd = true → gives 2 (.destroy func vd arg) 3 s) ∧
      (s.deviceBusy vd = false → ∃ t, gives 2 (.destroy func vd arg) 0 t ∧ t.mem = s.mem ∧ (∀ v, v ≠ vd → t.vd v = s.vd v) ∧
        (∀ core part, t.ownsPart vd core part = false) ∧
        (∀ v core part, v ≠ vd → t.ownsPart v core part = s.ownsPart v core part) ∧
        let e := t.vd vd
        e.created = false ∧ e.groups = [] ∧ e.vaultsHeld = [] ∧ e.faultq.log2n = 0 ∧ e.reclog.log2n = 0 ∧ e.frames.log2n = 0 ∧
          e.vaults.log2n = 0 ∧ ∀ b ∈ t.tlb, b.vd ≠ vd)) ∧
    (sees → func = 0 → goodQ → d.created = true →
      let others := fun (h : Nat) => ∃ v, v ≠ vd ∧ held v h
      let wanted := fun (h : Nat) => kind = 0 ∨ kind = 2 + h
      ((wanted 0 ∧ others 0) ∨ (wanted 1 ∧ others 1) → gives 3 (.grantq func vd arg) 2 s) ∧
      ((wanted 0 → held vd 0) → (wanted 1 → held vd 1) → gives 3 (.grantq func vd arg) 0 s) ∧
      ((wanted 0 → ¬others 0) → (wanted 1 → ¬others 1) → ∃ t, gives 3 (.grantq func vd arg) 0 t ∧
        (∀ h, h < 2 → wanted h → t.ownsPart vd (n % 256) (8 * (n / 256 % 4) + 4 * h) = true) ∧
        (∀ k, k ≠ q → nget .free t.quads k = nget .free s.quads k) ∧ t.mem = s.mem ∧ t.groups = s.groups) ∧
      ((wanted 0 ∧ ¬held vd 0) ∨ (wanted 1 ∧ ¬held vd 1) → gives 4 (.revokeq func vd arg) 3 s) ∧
      (∀ g ∈ s.groups, g.id ≠ 0 → g.live = true → g.saved = false → g.core = n % 256 → g.part / 8 = n / 256 % 4 →
        (kind = 0 ∨ g.part % 8 / 4 = kind - 2) → gives 4 (.revokeq func vd arg) 3 s) ∧
      ((wanted 0 → held vd 0) → (wanted 1 → held vd 1) → s.holdsRecords vd (fun c => decide (c = n % 256)) = false →
        (∀ g ∈ s.groups, g.id ≠ 0 → g.live = true → g.saved = false → g.core = n % 256 → g.part / 8 ≠ n / 256 % 4) →
        ∃ t, gives 4 (.revokeq func vd arg) 0 t ∧
          (∀ h, h < 2 → wanted h → t.ownsPart vd (n % 256) (8 * (n / 256 % 4) + 4 * h) = false) ∧
          (∀ k, k ≠ q → nget .free t.quads k = nget .free s.quads k) ∧ t.mem = s.mem ∧ t.groups = s.groups)) ∧
    (sees → func = 0 → goodC → d.created = true →
      (n ∈ d.groups → gives 5 (.grantcg func vd arg) 0 s) ∧
      (n ∉ d.groups → (∃ v ∈ s.vdList, n ∈ (s.vd v).groups) → gives 5 (.grantcg func vd arg) 2 s) ∧
      (n ∉ d.groups → (∀ v ∈ s.vdList, n ∉ (s.vd v).groups) → gives 5 (.grantcg func vd arg) 0
        (s.modVd vd fun d => { d with groups := d.groups ++ [n] })) ∧
      (n ∉ d.groups ∨ (d.pstate ≠ .collapsed ∧ d.save ≠ .saved) → gives 6 (.revokecg func vd arg) 3 s) ∧
      (n ∈ d.groups → d.pstate = .collapsed ∨ d.save = .saved → gives 6 (.revokecg func vd arg) 0
        (s.modVd vd fun d => { d with groups := d.groups.filter (· ≠ n) }))) ∧
    (sees → func = 0 → n < 256 → d.created = true →
      (n ∈ d.vaultsHeld → gives 12 (.grantv func vd arg) 0 s) ∧
      (n ∉ d.vaultsHeld → (∃ v ∈ s.vdList, n ∈ (s.vd v).vaultsHeld) → gives 12 (.grantv func vd arg) 2 s) ∧
      (n ∉ d.vaultsHeld → (∀ v ∈ s.vdList, n ∉ (s.vd v).vaultsHeld) → gives 12 (.grantv func vd arg) 0
        (s.modVd vd fun d => { d with vaultsHeld := d.vaultsHeld ++ [n] })) ∧
      (n ∉ d.vaultsHeld ∨ (d.pstate ≠ .collapsed ∧ d.save ≠ .saved) → gives 13 (.revokev func vd arg) 3 s) ∧
      (n ∈ d.vaultsHeld → d.pstate = .collapsed ∨ d.save = .saved → gives 13 (.revokev func vd arg) 0
        (s.modVd vd fun d => { d with vaultsHeld := d.vaultsHeld.filter (· ≠ n) }))) ∧
    (sees → func = 0 → n = 0 → d.created = true →
      (gives 7 (.preempt func vd arg) 0 (s.modVd vd fun d => { d with
        save := if d.save = .running then .halting else d.save })) ∧
      (d.save = .saved → gives 8 (.resume func vd arg) 0 (s.modVd vd fun d => { d with save := .restoring })) ∧
      (d.save = .halting ∨ d.save = .saving → gives 8 (.resume func vd arg) 0 (s.modVd vd fun d => { d with resumeHeld := true })) ∧
      (d.save = .running ∨ d.save = .idle ∨ d.save = .restoring → ∃ t, gives 8 (.resume func vd arg) 0 t ∧ t.vd vd = d)) ∧
    (sees → func = 0 → n < 2 → d.created = true →
      ((∃ x ∈ s.launches, x.vd = vd) → gives 9 (.replay func vd arg) 3 s) ∧
      ((∀ x ∈ s.launches, x.vd ≠ vd) → gives 9 (.replay func vd arg) 0 (s.modVd vd fun d => { d with
        replay := decide (n = 1), replayNext := [] }))) ∧
    (sees → n = 0 → d.created = true →
      let r : DrainRange := { base := BitVec.ofNat 64 (d.drange % 2 ^ 64 / 0x10000 * 0x10000), pages := d.drange / 2 ^ 64 % 2 ^ 32 }
      gives 10 (.drain func vd arg) 0 ((s.drainRange vd r).modVd vd fun d => { d with hostDrains := d.hostDrains ++ [r] }) ∧
      let waits := d.hostDrains ≠ [] ∧ ∃ h ∈ s.groups, h.id ≠ 0 ∧ h.vd = vd ∧ h.saved = false ∧ h.drained = true ∧
        ((∃ n ps c, h.wait = some (.remote true n ps c)) ∨ (h.wait = none ∧ h.remote ≠ none))
      (waits → exec (.confirm func vd arg) s = .next (s.modVd vd fun d => { d with
        busy := func + 1, cmd := BitVec.ofNat 64 (n * 2 ^ 32 + 2 ^ 15 + 11) })) ∧
      (¬waits → gives 11 (.confirm func vd arg) 0 (((s.drainDevice vd).dropDraining vd d.hostDrains).modVd vd fun d => { d with
        hostDrains := [] })))

/-! The host's windows (27 R338-R345). -/

/-- 27 R339-R341, R343: the host's writes. A ring index the host owns takes the value that does not move it backwards or past the ring's
size; the other index is read-only; LOG2N above 20 is ignored. A queue's BASE, LOG2N and VEC are written while ENABLE is 0,
OWNER by the physical function alone, a LOG2N of 0 ignored. A doorbell of the owner sets TAIL and wakes the device; any other is
ignored. A block's registers take what their fields hold, each by the function that may write it; HVEC and the mailbox by the
physical function. A write of CMD starts a command, which runs with BUSY 1 until it comes to its end, and is ignored while one runs
(R342). A read gives the register's value: CAPS, PWRLIM, HEALTH and HEATLIM to every function, a block and a queue's configuration to
its own function and the physical one, 0 for MAPREPLY, for reserved offsets and for what the function does not see (01 R2, R21-R23,
R338). A MAPREPLY that answers no outstanding request is ignored (R342), and so is a virtual function's write of the mailbox. That a
PTROOT or MWBASE which is not aligned drops its low bits, that TENSION's write looks at bits [4:0] alone, and that IDLETHR has a least
value (log 26); that the physical function may write what the own function may, in another device's block too, that a LOG2N of 0
disables a ring whatever its indices, and that a command comes to its end at the device's own turn (log 39); and that an entry's wait
at the arbiter counts from the head of its queue (log 53): these are the model's choices. -/
def Obligations.HostWritesRegisters : Prop :=
  (∀ (s : State) (func vd ring : Nat) (value : Word), let r := (s.vd vd).ring ring
    let gives := fun (word : Nat) (new : Ring) => ∃ t, exec (.ringIndexWrite func vd ring word value) s = .next t ∧
      (t.vd vd).ring ring = new ∧ (∀ k, k < 4 → k ≠ ring → (t.vd vd).ring k = (s.vd vd).ring k) ∧ (∀ v, v ≠ vd → t.vd v = s.vd v) ∧
      t.mem = s.mem
    (s.fwfail = true ∨ 256 ≤ vd ∨ (func ≠ 0 ∧ func ≠ vd) → ∀ word, exec (.ringIndexWrite func vd ring word value) s = .next s) ∧
    (s.fwfail = false → vd < 256 → func = 0 ∨ func = vd → ring < 4 → (s.vd vd).heldRecords = [] → (s.vd vd).heldLog = [] →
      (gives 0 (if 20 < value.toNat % 32 ∨ (value.toNat % 32 ≠ 0 ∧ 2 ^ (value.toNat % 32) < (r.prod - r.cons).toNat) then r else { r with
        log2n := value.toNat % 32, base := r.base / 2 ^ 32 * 2 ^ 32 + value.toNat / 2 ^ 12 * 2 ^ 12 }) ∧
      (gives 1 { r with base := r.base % 2 ^ 32 + value.toNat * 2 ^ 32 }) ∧
      (2 ≤ ring → (r.prod - r.cons).toNat ≤ (value - r.cons).toNat → (value - r.cons).toNat ≤ 2 ^ r.log2n → gives 2 { r with
        prod := value }) ∧
      (2 ≤ ring → (value - r.cons).toNat < (r.prod - r.cons).toNat ∨ 2 ^ r.log2n < (value - r.cons).toNat → gives 2 r) ∧
      (ring < 2 → (r.prod - value).toNat ≤ (r.prod - r.cons).toNat → gives 3 { r with cons := value }) ∧
      (ring < 2 → (r.prod - r.cons).toNat < (r.prod - value).toNat → gives 3 r) ∧
      (ring < 2 → gives 2 r) ∧ (2 ≤ ring → gives 3 r)))) ∧
  (∀ (s : State) (func queue : Nat) (value : Word), let c := nget {} s.queues queue
    let w := value.toNat
    let gives := fun (word : Nat) (new : QueueCfg) => ∃ m, exec (.queueConfigWrite func queue word value) s = .next { s with
        queues := m } ∧ ∀ k, nget {} m k = if k = queue then new else nget {} s.queues k
    (s.fwfail = true ∨ 16384 ≤ queue ∨ (func ≠ 0 ∧ func ≠ c.owner) → ∀ word,
      exec (.queueConfigWrite func queue word value) s = .next s) ∧
    (s.fwfail = false → queue < 16384 → func = 0 ∨ func = c.owner →
      gives 0 { c with owner := if func = 0 then w % 256 else c.owner, enable := value.getLsbD 8 } ∧
      gives 1 (if c.enable = true ∨ w / 2 ^ 12 % 16 = 0 then c else { c with vec := w % 2 ^ 12, log2n := w / 2 ^ 12 % 16 }) ∧
      gives 2 (if c.enable = true then c else { c with base := c.base / 2 ^ 32 * 2 ^ 32 + w / 2 ^ 12 * 2 ^ 12 }) ∧
      gives 3 (if c.enable = true then c else { c with base := c.base % 2 ^ 32 + w * 2 ^ 32 }))) ∧
  (∀ (s : State) (func queue offset size : Nat) (value : Word), let c := nget {} s.queues queue
    let good : Prop := s.fwfail = false ∧ queue < 16384 ∧ offset = 0 ∧ size = 4 ∧ func = c.owner ∧ c.enable = true ∧
      (value - c.head).toNat ≤ 2 ^ c.log2n
    (¬good → exec (.doorbell func queue offset size value) s = .next s) ∧
    (good → ∃ t, exec (.doorbell func queue offset size value) s = .next t ∧
      (∀ k, nget {} t.queues k = if k = queue then { c with
        tail := value, since := if c.head = c.tail then s.clock else c.since } else nget {} s.queues k) ∧
      (∀ v, v ≠ c.owner → t.vd v = s.vd v) ∧ t.vd c.owner = (let d := s.vd c.owner
        { d with idleSince := none, pstate := if d.pstate = .collapsing ∨ d.pstate = .collapsed then .waking else d.pstate }))) ∧
  (∀ (s : State) (func vd off : Nat) (value : Word), let d := s.vd vd
    let w := value.toNat
    let put := fun (x k : Nat) => x % 2 ^ (32 * k) + w * 2 ^ (32 * k) + x / 2 ^ (32 * k + 32) * 2 ^ (32 * k + 32)
    let gives := fun (new : VDev) => ∃ t, exec (.registerWrite func (0x100000 + 4096 * vd + off) value) s = .next t ∧
      t.vd vd = new ∧ (∀ v, v ≠ vd → t.vd v = s.vd v) ∧ t.mem = s.mem ∧ t.groups = s.groups
    s.fwfail = false → vd < 256 → off < 4096 → off % 4 = 0 →
    (func ≠ 0 → func ≠ vd → exec (.registerWrite func (0x100000 + 4096 * vd + off) value) s = .next s) ∧
    (func = 0 ∨ func = vd →
      (off = 0x020 → d.busy = 0 → gives { d with
        busy := func + 1, cmd := BitVec.ofNat 64 (d.cmd.toNat / 2 ^ 32 * 2 ^ 32 + 2 ^ 15 + w % 256) }) ∧
      (off = 0x024 → d.busy = 0 → gives { d with cmd := BitVec.ofNat 64 (w * 2 ^ 32 + d.cmd.toNat % 2 ^ 32) }) ∧
      (off = 0x020 ∨ off = 0x024 → d.busy ≠ 0 → gives d) ∧
      (off = 0x094 → gives { d with faultvec := value &&& 0x1FFF }) ∧
      (∀ k < 3, off = 0x0A0 + 4 * k → gives { d with drange := put d.drange k }) ∧
      (∀ k < 2, off = 0x180 + 4 * k → gives { d with mwbase := BitVec.ofNat 64 (put d.mwbase.toNat k / 0x10000 * 0x10000) })) ∧
    (func ≠ 0 → func = vd → off = 0x00C ∨ off = 0x010 ∨ off = 0x014 ∨ (0x028 ≤ off ∧ off < 0x048) ∨ off = 0x04C ∨ off = 0x090 ∨
      off = 0x098 ∨ off = 0x0B8 ∨ (0x0C0 ≤ off ∧ off < 0x180) → gives d) ∧
    (func = 0 →
      (off = 0x00C → gives { d with idlethr := max 100 w }) ∧
      (off = 0x010 → 1 ≤ w % 2 ^ 16 → w % 2 ^ 16 ≤ 2800 → w / 2 ^ 16 ≤ 2800 → gives { d with
        cap := w % 2 ^ 16, refill := w / 2 ^ 16 }) ∧
      (off = 0x014 → 1 ≤ w → w ≤ 100000 → gives { d with rescap := w }) ∧
      (off = 0x028 → gives (if 1 ≤ w % 32 ∧ w % 32 ≤ 16 then { d with tension := w % 32 } else d)) ∧
      (off = 0x02C → gives (if 1 ≤ w ∧ w ≤ 1000 then { d with rtimeout := w } else d)) ∧
      (∀ k < 2, (off = 0x030 + 4 * k → gives { d with ptroot := put d.ptroot k / 0x1000 * 0x1000 }) ∧
        (off = 0x038 + 4 * k → gives { d with savebase := put d.savebase k }) ∧
        (off = 0x040 + 4 * k → gives { d with savesize := put d.savesize k })) ∧
      (∀ k < 48, off = 0x0C0 + 4 * k → gives { d with signers := put d.signers k }) ∧
      (off = 0x04C → gives { d with peergrp := w % 2 ^ 16 }) ∧
      (off = 0x090 → gives { d with vecrun := value &&& 0x0FFF0FFF }) ∧
      (off = 0x098 → gives { d with trustctl := value &&& 1 }) ∧
      (off = 0x0B8 → gives { d with stv := value }) ∧
      (off = 0x048 → gives d))) ∧
  (∀ (s : State) (vd : Nat), let d := s.vd vd
    let q := s.modVd vd fun d => { d with busy := 0 }
    let func := d.busy - 1
    let arg : Word := BitVec.ofNat 32 (d.cmd.toNat / 2 ^ 32)
    let op := d.cmd.toNat % 256
    (op = 1 → exec (.create func vd arg) q = .next (s.endCommand vd)) ∧
    (op = 2 → exec (.destroy func vd arg) q = .next (s.endCommand vd)) ∧
    (op = 3 → exec (.grantq func vd arg) q = .next (s.endCommand vd)) ∧
    (op = 4 → exec (.revokeq func vd arg) q = .next (s.endCommand vd)) ∧
    (op = 5 → exec (.grantcg func vd arg) q = .next (s.endCommand vd)) ∧
    (op = 6 → exec (.revokecg func vd arg) q = .next (s.endCommand vd)) ∧
    (op = 7 → exec (.preempt func vd arg) q = .next (s.endCommand vd)) ∧
    (op = 8 → exec (.resume func vd arg) q = .next (s.endCommand vd)) ∧
    (op = 9 → exec (.replay func vd arg) q = .next (s.endCommand vd)) ∧
    (op = 10 → exec (.drain func vd arg) q = .next (s.endCommand vd)) ∧
    (op = 11 → exec (.confirm func vd arg) q = .next (s.endCommand vd)) ∧
    (op = 12 → exec (.grantv func vd arg) q = .next (s.endCommand vd)) ∧
    (op = 13 → exec (.revokev func vd arg) q = .next (s.endCommand vd)) ∧
    let waits := d.hostDrains ≠ [] ∧ ∃ h ∈ s.groups, h.id ≠ 0 ∧ h.vd = vd ∧ h.saved = false ∧ h.drained = true ∧
      ((∃ n ps c, h.wait = some (.remote true n ps c)) ∨ (h.wait = none ∧ h.remote ≠ none))
    (s.commandDue vd = true ↔ d.busy ≠ 0 ∧ (op = 11 → ¬waits)) ∧
    (s.agenda = [] → s.vdList.find? s.commandDue = some vd → step s = State.finish s (s.endCommand vd))) ∧
  (∀ (s : State) (func vd : Nat) (value : DWord), let tag := value.toNat % 2 ^ 32
    let answer := value.toNat / 2 ^ 32
    let taken : Prop := s.fwfail = false ∧ vd < 256 ∧ (func = 0 ∨ func = vd) ∧ (answer = 1 ∨ answer = 2) ∧ tag ∈ (s.vd vd).tags
    (¬taken → exec (.mapreply func vd value) s = .next s) ∧
    (taken → (∀ g ∈ s.groups, g.id ≠ 0 → g.vd = vd → ∀ t p a r m, g.wait ≠ some (.map t p a r m)) →
      exec (.mapreply func vd value) s = .next (s.modVd vd fun d => { d with tags := d.tags.erase tag }))) ∧
  (∀ (s : State) (value : Word),
    (s.fwfail = false → exec (.registerWrite 0 0x30 value) s = .next { s with hvec := value &&& 0x1FFF }) ∧
    (∀ func, func ≠ 0 → exec (.registerWrite func 0x30 value) s = .next s ∧
      ∀ off < 0x1000, exec (.registerWrite func (0x100 + off) value) s = .next s) ∧
    (∀ off, off < 0x1000 → off % 4 = 0 → ∃ m, exec (.registerWrite 0 (0x100 + off) value) s = .next { s with mailbox := m } ∧
      (∀ i < 4, nget unlistedByte m (off + i) = value.extractLsb' (8 * i) 8) ∧
      (∀ k, k < off ∨ off + 4 ≤ k → nget unlistedByte m k = nget unlistedByte s.mailbox k))) ∧
  (∀ (s : State) (func vd : Nat), let word := fun (off : Nat) => (s.controlWord func off).toNat
    let own := fun (off : Nat) => (s.controlWord func (0x100000 + 4096 * vd + off)).toNat
    s.pwrlim < 2 ^ 32 → s.domid < 2 ^ 32 → vd < 256 → s.fwfail = false →
    word 0x10 + word 0x14 * 2 ^ 32 = s.caps.toNat ∧ word 0x18 = s.pwrlim ∧ word 0x20 + word 0x24 * 2 ^ 32 = s.health.toNat ∧
    word 0x28 = s.domid ∧ word 0x30 = s.hvec.toNat ∧ word 0 = 0 ∧ word 0x1C = 0 ∧
    (∀ die < 4, s.inforce die < 2 ^ 16 → nget 700 s.heatlim die < 2 ^ 16 →
      word (0x40 + 4 * die) = s.inforce die * 2 ^ 16 + nget 700 s.heatlim die) ∧
    (func ≠ 0 → func ≠ vd → ∀ off < 4096, own off = 0) ∧
    (func = 0 ∨ func = vd → let d := s.vd vd
      own 0 = 0 ∧ own 0x04 = d.wakes.toNat ∧ own 0x20 + own 0x24 * 2 ^ 32 = d.cmd.toNat ∧ own 0x48 = d.mcdrop.toNat ∧
      own 0x94 = d.faultvec.toNat ∧ own 0xB0 = 0 ∧ own 0xB4 = 0 ∧ own 0xB8 = d.stv.toNat ∧
      own 0x180 + own 0x184 * 2 ^ 32 = d.mwbase.toNat ∧ (∀ off, 0x188 ≤ off → off < 4096 → own off = 0)) ∧
    (∀ queue word, queue < 16384 → word < 8 → let c := nget {} s.queues queue
      s.controlWord func (0x200000 + 32 * queue + 4 * word) = if func = 0 ∨ func = c.owner then c.word word else 0))

/-- 27 R345: the memory window, of a power of two of bytes from 64 MiB to 256 GiB, which the turn that sets it keeps to: a request
beyond it is none of the function's. A read of a mapped address gives the host its bytes, a write stores them, an AtomicOp of 4 or 8 aligned
bytes takes its step and gives the old value; all translated with the device's tables from MWBASE + offset; what lies at a peer leaves
as a request as well (R346). A failing translation
gives Completer Abort for a read or AtomicOp and drops a write, with a KIND 5 record of the address, the page-fault cause and its
detail (25 R320, R315; for an uncorrectable error log 28). An operand of 16 bytes is unsupported, and another size or a
misaligned one malformed, with no record. A request that waits for a collapsed device is given up in the end: a read is aborted, a write dropped, with a KIND 5 record whose cause the manual does not name (log 28). -/
def Obligations.MemoryWindowIsTranslated : Prop :=
  let fails := fun (s : State) (func : Nat) (va : DWord) (cause : Nat) =>
    s.postRecord func (va.toNat * 2 ^ 192 + cause * 2 ^ 96 + 5 * 2 ^ 56 + func * 2 ^ 48)
  let aborts := fun (s : State) => { s with hostOut := s.hostOut ++ [.completerAbort] }
  (∀ (s : State) (func offset n pa : Nat), let va := (s.vd func).mwbase + BitVec.ofNat 64 offset
    s.fwfail = false → func < 256 → s.windowReqs = [] → (s.vd func).pstate = .awake → 0 < n → va.toNat % 16 + n ≤ 16 →
    (2 ^ (s.vd func).mwlog2 < offset + n → exec (.memoryWindowRead func offset n) s = .next s ∧
      ∀ bs : List Byte, bs.length = n → exec (.memoryWindowWrite func offset bs) s = .next s) ∧
    (offset + n ≤ 2 ^ (s.vd func).mwlog2 →
    (s.translate deviceAgent func .load va = .ok pa → s.badRange pa n = false →
      let asked := s.sendPeer func pa (.load n)
      exec (.memoryWindowRead func offset n) s = .next { asked with hostOut := asked.hostOut ++ [.readData (s.bytes pa n)] }) ∧
    (s.translate deviceAgent func .load va = .ok pa → s.badRange pa n = true →
      exec (.memoryWindowRead func offset n) s = .next (aborts (fails s func va (2 ^ 31 + 4)))) ∧
    (∀ d, s.translate deviceAgent func .load va = .fault d →
      exec (.memoryWindowRead func offset n) s = .next (aborts (fails s func va (2 ^ 31 + d % 2 ^ 26)))) ∧
    (∀ d, s.translate deviceAgent func .store va = .fault d → ∀ bs : List Byte, bs.length = n →
      exec (.memoryWindowWrite func offset bs) s = .next (fails s func va (2 ^ 31 + (0x10 + d) % 2 ^ 26))) ∧
    (s.translate deviceAgent func .load va = .stall → exec (.memoryWindowRead func offset n) s = .next { s with
      windowReqs := [.read func va n s.clock] }) ∧
    (∀ bs : List Byte, bs.length = n → s.translate deviceAgent func .store va = .ok pa →
      exec (.memoryWindowWrite func offset bs) s = .next ((s.sendPeer func pa (.store bs)).putMem pa bs)))) ∧
  (∀ (s : State) (func offset n pa : Nat) (operand swap : DWord), let va := (s.vd func).mwbase + BitVec.ofNat 64 offset
    let old := s.num pa n
    let a := operand.toNat % 2 ^ (8 * n)
    let gives := fun (op : WindowAtomic) (code new : Nat) =>
      let sent := s.sendPeer func pa (.atomic n code operand swap)
      exec (.memoryWindowAtomic func offset n op operand swap) s = .next (State.putNum { sent with
        hostOut := sent.hostOut ++ [.readData (toBytes n old)] } pa n new)
    s.fwfail = false → func < 256 →
    (2 ^ (s.vd func).mwlog2 < offset + n → ∀ op, exec (.memoryWindowAtomic func offset n op operand swap) s = .next s) ∧
    (offset + n ≤ 2 ^ (s.vd func).mwlog2 →
    (n = 16 → ∀ op, exec (.memoryWindowAtomic func offset n op operand swap) s = .next { s with
      hostOut := s.hostOut ++ [.unsupportedRequest] }) ∧
    (n ≠ 16 → (n ≠ 4 ∧ n ≠ 8) ∨ va.toNat % n ≠ 0 → ∀ op, exec (.memoryWindowAtomic func offset n op operand swap) s = .next { s with
      hostOut := s.hostOut ++ [.malformed] }) ∧
    (∀ d, n = 4 ∨ n = 8 → va.toNat % n = 0 → s.windowReqs = [] → (s.vd func).pstate = .awake →
      s.translate deviceAgent func .store va = .fault d → ∀ op, exec (.memoryWindowAtomic func offset n op operand swap) s =
        .next (aborts (fails s func va (2 ^ 31 + (0x10 + d) % 2 ^ 26)))) ∧
    (n = 4 ∨ n = 8 → va.toNat % n = 0 → s.windowReqs = [] → (s.vd func).pstate = .awake →
      s.translate deviceAgent func .store va = .ok pa →
      gives .fetchAdd 0 ((old + a) % 2 ^ (8 * n)) ∧ gives .swap 6 a ∧
      gives .cas 7 (if old = a then swap.toNat % 2 ^ (8 * n) else old)))) ∧
  (∀ (s : State) (index : Nat) (r : WindowReq), s.windowReqs[index]? = some r → (s.vd r.head.1).pstate ≠ .awake →
    let (func, va, since) := r.head
    let late := { s with windowReqs := s.windowReqs.eraseIdx index, clock := max s.clock (since +
      ((match (s.vd func).wclass with | 0 => 20 | 1 => 1500 | _ => 40000) + (s.vd func).rtimeout) * 1500) }
    ∃ c : Nat, let u := fails late func va c
      let t := { u with free := u.free + 1 }
      func < 256 → ((∃ bs, r = .write func va bs since) → exec (.memoryWindowServiceTimeout index) s = .next t) ∧
        ((∀ bs, r ≠ .write func va bs since) → exec (.memoryWindowServiceTimeout index) s = .next (aborts t))) ∧
  (∀ (s : State) (rest : List Turn) (func k : Nat), s.agenda = .windowSize func k :: rest →
    step s = State.finish s (let u := { s with agenda := rest }
      if func < 256 ∧ 26 ≤ k ∧ k ≤ 38 then u.modVd func fun d => { d with mwlog2 := k } else u))

/-! Trust, errors, peers, bring-up and the debugger (27 R346-R351, 25 R319, R337). -/

/-- 27 R346-R351, 01 R23: HEALTH's UNCORR is cleared by writing 1 to it. An attestation puts the nonce into the mailbox and answers with
a report that starts with it. A firmware image both of whose signatures verify over its SHA-384 is the next reset's. A package reset gives the state
of reset again, with the bytes of the vaults (01 R12), and those of bulk DRAM kept or not (log 30), and recovery where the image in force does not verify; link training makes NIRPORTS and DOMID valid. A peer's request is served where the frame's owner is in its peer
group, and else answered with an error and a KIND 3 record at the owner, or at device 0 where there is none (log 28). CE counts corrected errors, SPARES the spares that have been used, and a core with more than
64 within one second is to be retired; an uncorrectable one sets UNCORR, and marks the 16 bytes
of memory or halts the team. A withdrawn channel group's contents are lost, its owner holds it no longer, and CAPS counts one
less. The places of CAPS and HEALTH in the report are log 10's, that SPARES stops at 255 is log 40's, and that a byte that has been
written in a withdrawn group holds a free value log 43's: the model's choices. -/
def Obligations.ServiceEvents : Prop :=
  (∀ (s : State) (func : Nat) (value : DWord),
    (func ≠ 0 → exec (.healthWrite func value) s = .next s) ∧
    (func = 0 → exec (.healthWrite func value) s = .next { s with uncorr := if value.getLsbD 1 then false else s.uncorr })) ∧
  (∀ (s : State) (nonce : List Byte), nonce.length = 32 → ∃ m report sig, exec (.attestation 0 nonce) s = .next { s with
      mailbox := m, hostOut := s.hostOut ++ [.attestation report sig] } ∧ report.take 32 = nonce ∧
      (report.drop 80).take 8 = toBytes 8 s.caps.toNat ∧ (report.drop 88).take 8 = toBytes 8 s.health.toNat ∧
      ∀ (i : Nat) (h : i < nonce.length), nget unlistedByte m i = nonce[i]) ∧
  (∀ (s : State) (image : Nat) (sigs : FirmwareSigs) (kept : Bool),
    let verifies := fun (image : Nat) (sigs : FirmwareSigs) =>
      let digest : BitVec 384 := BitVec.ofNat 384 (ofBytes (sha384 (Config.firmwareImage image)))
      Config.vendorEd25519 digest sigs.ed25519 && Config.vendorMlDsa65 digest sigs.mlDsa65
    exec (.firmwareUpdate 0 image sigs) s = .next (if verifies image sigs = true then
      { s with nextFirmware := { image := image, sigs := sigs } } else s) ∧
    (∀ func, func ≠ 0 → exec (.firmwareUpdate func image sigs) s = .next s) ∧
    ∃ t, exec (.packageReset [] kept) s = .next t ∧ t.mem = (if kept = true then s.mem else s.mem.filter fun c => !inBulk c.1) ∧ t.firmware = s.nextFirmware ∧
      t.fwfail = !verifies s.nextFirmware.image s.nextFirmware.sigs ∧ t.clock = 0 ∧
      t.grp = {} ∧ t.others = [] ∧ t.teams = [] ∧ t.launches = [] ∧ t.vds = [] ∧ t.quads = [] ∧ t.queues = [] ∧ t.caps = 0x18FF0100 ∧
      t.pwrlim = 0x960 ∧ t.health = (if t.fwfail = true then 4 else 0)) ∧
  (∀ (s : State) (ports domid devices : Nat), ports ≤ 24 → domid < 1024 → devices ≤ 1024 →
    exec (.linkTraining ports domid devices) s = .next { s with nirports := ports, domid := domid, devices := devices }) ∧
  (∀ (s : State) (r : PeerReq), s.peerReqs = [] →
    (∀ v, localOk r.addr = true → s.frameOwner r.addr = some v → (s.vd v).peergrp = r.peerGroup → r.peerGroup ≠ 0 →
      (s.vd v).pstate = .awake → (s.vd v).unrestored = [] →
      (∀ n, r.kind = .load n → s.badRange r.addr n = false →
        exec (.peerRequest r) s = .next { s with hostOut := s.hostOut ++ [.peerReply (s.bytes r.addr n) false] }) ∧
      (∀ bs, r.kind = .store bs → exec (.peerRequest r) s = .next (s.putMem r.addr bs))) ∧
    (r.peerGroup = 0 ∨ localOk r.addr = false ∨ (∀ v, s.frameOwner r.addr = some v → (s.vd v).peergrp ≠ r.peerGroup) →
      let vd := (s.frameOwner r.addr).getD 0
      ∃ c : Nat, let u := s.postRecord vd (r.addr % 2 ^ 64 * 2 ^ 192 + c * 2 ^ 96 + 3 * 2 ^ 56 + vd % 256 * 2 ^ 48)
        exec (.peerRequest r) s = .next { u with free := u.free + 1, hostOut := u.hostOut ++ [.peerError none false] })) ∧
  (∀ (s : State) (core : Option Nat) (spared : Bool), ∃ t, exec (.correctedError ⟨core, spared⟩) s = .next t ∧
    t.ce = min (s.ce + 1) (2 ^ 32 - 1) ∧ t.spares = (if spared then min (s.spares + 1) 255 else s.spares) ∧
    t.mem = s.mem ∧ t.groups = s.groups ∧ (core = none → t.failing = s.failing) ∧
    ∀ c, core = some c → let times := (s.clock :: nget [] s.coreErrors c).take 65
      nget [] t.coreErrors c = times ∧
      (c ∈ t.failing ↔ c ∈ s.failing ∨ ∃ old, times[64]? = some old ∧ s.clock < old + 1500000000)) ∧
  (∀ (s : State) (a : Nat), ∃ t, exec (.uncorrectableError (.memory a)) s = .next t ∧ t.uncorr = true ∧
    a / 16 * 16 ∈ t.badMem ∧ t.mem = s.mem ∧ t.groups = s.groups) ∧
  (∀ (s : State) (team : Nat) (g : Group), s.groups.filter (fun g => g.id ≠ 0 && g.team = team && g.live && g.wait ≠ some .halted) = [g] →
    exec (.uncorrectableError (.team team)) s = .next (State.halt { s with uncorr := true } g.id)) ∧
  (∀ (s : State) (n : Nat), n < 24 → n ∉ s.withdrawn → (∀ x ∈ s.launches, n ∉ (s.vd x.vd).groups) → ∃ t,
    exec (.channelGroupWithdrawal n) s = .next t ∧ t.withdrawn = s.withdrawn ++ [n] ∧ t.replaceRequested = true ∧
    (∀ a, a < 0x4000000000 + n * 0x800000000 ∨ 0x4000000000 + (n + 1) * 0x800000000 ≤ a → t.byte a = s.byte a) ∧
    (Memory.wf s.mem = true → ∀ a, 0x4000000000 + n * 0x800000000 ≤ a → a < 0x4000000000 + (n + 1) * 0x800000000 →
      t.byte a = if (∃ b, (a, b) ∈ s.mem) then Config.lostByte s.free a else s.byte a) ∧
    (∀ v, s.vdList.find? (fun v => (s.vd v).groups.contains n) = some v → (t.vd v).groups = (s.vd v).groups.filter (· ≠ n)) ∧
    (∀ v, (∀ w, s.vdList.find? (fun v => (s.vd v).groups.contains n) = some w → v ≠ w) → (t.vd v).groups = (s.vd v).groups)) ∧
  (∀ s : State, s.nirports < 256 → s.withdrawn.length ≤ 24 → s.retiredCores.length ≤ 256 → s.caps.toNat =
    s.nirports * 2 ^ 32 + (24 - s.withdrawn.length) * 2 ^ 24 + 0xFF * 2 ^ 16 + (256 - s.retiredCores.length))

/-- 25 R319, R337: the debugger. It attaches and detaches. While it is attached, a stop halts every group of the group's team, whose
fixed-latency and special-function work in flight completes (11 R153), a step
lets a stopped group issue once before all other turns, a step of all paths lets each PENDING path on the visible stack
issue once, the top one first, then the current one, and a continue lets the team run on. Without it they do nothing. That order,
and that a detach leaves stopped groups stopped, is the model's reading (log 19). -/
def Obligations.DebuggerStopsAndSteps : Prop :=
  ∀ s : State, let g := s.grp
    (∀ b, exec (.debuggerAttach b) s = .next { s with debugger := b }) ∧
    (s.debugger = false → exec (.debuggerStop g.id) s = .next s ∧ exec (.debuggerStep g.id) s = .next s ∧
      exec (.debuggerStepAll g.id) s = .next s ∧ exec (.debuggerContinue g.id) s = .next s) ∧
    (s.debugger = true → g.id ≠ 0 →
      (∃ t, exec (.debuggerStop g.id) s = .next t ∧ t.groups = s.groups.map (fun h => if h.id ≠ 0 ∧ h.team = g.team then { h with
        stopped := true, prods := [], hz := {}, due := [] } else h) ∧ t.mem = s.mem ∧ t.teams = s.teams) ∧
      (∃ t, exec (.debuggerContinue g.id) s = .next t ∧ t.groups = s.groups.map (fun h => if h.id ≠ 0 ∧ h.team = g.team then { h with
        stopped := false } else h) ∧ t.mem = s.mem ∧ t.teams = s.teams) ∧
      (g.stopped = true → exec (.debuggerStep g.id) s = .next { s with agenda := .pathStep g.id 0 :: s.agenda }) ∧
      (g.stopped = true → g.hidden = 0 → ∃ ds : List Nat, exec (.debuggerStepAll g.id) s = .next { s with
        agenda := ds.map (Turn.pathStep g.id) ++ .pathStep g.id 0 :: s.agenda } ∧ ds.Pairwise (· > ·) ∧
        ∀ n, n ∈ ds ↔ ∃ (k : Nat) (e : StackEntry), g.stack[k]? = some e ∧ e.pending = true ∧ n = g.stack.length - k) ∧
      (g.stopped = false → exec (.debuggerStep g.id) s = .next s ∧ exec (.debuggerStepAll g.id) s = .next s))

/-! Single rules, stated whole. -/

/-- 07 R93: PROBE n, for every n of 26 bits. Its word is 0xF800_0000 + n, so PROBE 0x12 is 0xF800_0012. At program level with a user
handler it traps in every lane of the mask: TRAPCAUSE has 0x01 in bits [31:26] and n in bits [25:0], TRAPPC is its address, the
handler at UTV is entered, and it has no other effect (registers, predicates, guard slots, stack, memory and all else are as
before; what FADDR holds, since the trap has no address, no rule says, and nothing is said here). From there TRET 1 resumes at the next slot, and TRET 0 goes back to the PROBE, which traps again. -/
def Obligations.ProbeTrapsThroughUtv : Prop :=
  (∀ (n : BitVec 26) (slot7 : Bool) (next : Word), decodeWord false slot7 (0xF8000000#32 + n.setWidth 32) next = .ok (.probe n)) ∧
  (∀ (s : State) (n : BitVec 26), s.grp.level = .program → s.grp.utv ≠ 0 → s.grp.retry = none →
    ∃ t, exec (.probe n) s = .next t ∧ t = { s with grp := t.grp } ∧
      t.grp = { s.grp with
        level := .user, pc := 32 * s.grp.utv.setWidth 64 + 4, hidden := s.grp.stack.length, wait := none, remote := none, prods := []
        noted := false
        trap := { cause := (1#6 ++ n : BitVec 32), pc := s.grp.pc, mask := s.grp.exec, faddr := t.grp.trap.faddr }
        user := t.grp.user, tookTrap := some 1 } ∧
      (s.grp.drains = [] → s.grp.long = false → s.grp.exec &&& ~~~s.grp.retired ≠ 0 →
        (∃ u, exec (.tret 1) t = .next u ∧ u.grp.pc = nextSlot s.grp.pc ∧ u.grp.level = .program ∧
          u.grp.exec = s.grp.exec &&& ~~~s.grp.retired) ∧
        (∃ u w, exec (.tret 0) t = .next u ∧ u.grp.pc = s.grp.pc ∧ u.grp.level = .program ∧
          exec (.probe n) u = .next w ∧ w.grp.level = .user ∧ w.grp.trap.pc = s.grp.pc)))

/-- 11 R157: MARK. Its word is 0xE800_0000 | off, whose bits [25:23] are 0: with another value there the word is no MARK. Its target
is PC + 4·sext(off, 64). A target on a frame header traps (misaligned target), and a stack that holds 24 entries traps
(reconvergence overflow), each in every lane of the mask; otherwise REJOIN of the target and the mask is pushed, the group goes on,
and nothing else changes. That the entries hidden from a handler count towards the 24 is the model's reading (log 33). -/
def Obligations.MarkPushesRejoin : Prop :=
  (∀ (o : BitVec 23) (slot7 : Bool) (next : Word), decodeWord false slot7 (0xE8000000#32 ||| o.setWidth 32) next = .ok (.mark o)) ∧
  (∀ (w : Word) (u slot7 : Bool) (next : Word) (o : BitVec 23), decodeWord u slot7 w next = .ok (.mark o) →
    w.extractLsb' 23 3 = 0 ∧ u = false) ∧
  (∀ (s : State) (o : BitVec 23), let g := s.grp
    let tgt := g.pc + 4 * o.signExtend 64
    (tgt.toNat % 32 = 0 → exec (.mark o) s = .next (s.trap 0x08 0 g.exec 0)) ∧
    (tgt.toNat % 32 ≠ 0 → 24 ≤ g.stack.length → exec (.mark o) s = .next (s.trap 0x0E 0 g.exec 0)) ∧
    (tgt.toNat % 32 ≠ 0 → g.stack.length < 24 → exec (.mark o) s = .next { s with grp := { g with
      stack := { pending := false, pc := tgt, mask := g.exec } :: g.stack, pc := nextSlot g.pc, retry := none } }))

/-- 11 R147: RDFIRST (0x37, b = 0). `RDFIRST v3, v8` is 0x3700_C400. It finds the lowest lane f with act(f) and writes the word of a in
that lane to d in every lane with act(i), changing nothing else; when no lane has act(i), nothing is written. -/
def Obligations.RdfirstReadsTheLowestLane : Prop :=
  decodeWord false false 0x3700C400#32 0 = .ok (.rdfirst 0 3 8) ∧
  (∀ (k : BitVec 3) (d a : BitVec 7) (slot7 : Bool) (next : Word),
    decodeWord false slot7 (0x37#8 ++ k ++ d ++ a ++ 0#7) next = .ok (.rdfirst k d a)) ∧
  (∀ (s : State) (k : BitVec 3) (d a : BitVec 7), s.grp.retry = none →
    let m := s.grp.act k.toNat
    (m = 0 → exec (.rdfirst k d a) s = .next { s with grp := { s.grp with pc := nextSlot s.grp.pc } }) ∧
    (∀ f, f < 32 → hasLane m f → (∀ j < f, hasLane m j = false) → goodDest d.toNat → s.grp.allocated [d.toNat, a.toNat] →
      ∃ v, exec (.rdfirst k d a) s = .next { s with grp := { s.grp with v := v, pc := nextSlot s.grp.pc } } ∧
        ∀ n j, j < 32 → (nget zeroVec v n).lane j =
          if d.toNat ≤ 111 ∧ n = 16 * s.grp.winbase.toNat + d.toNat ∧ hasLane m j then s.grp.lane a.toNat f
          else (s.grp.vreg n).lane j))
end

