-- ==== Sys2Proof/Laws/Encoding.lean ====
section
/-! SUPPORT. Encoding: every field of a packed word is read back as it was put in (07 R81-R88), and the class bits of each
format. -/

namespace Sys2Proof.Laws

/-- The whole of a bit vector. -/
theorem extract_all {n : Nat} (x : BitVec n) : x.extractLsb' 0 n = x := by
  ext i hi; simp

@[simp] theorem packA_class (op : BitVec 6) (g : BitVec 3) (d a b : BitVec 7) : (packA op g d a b).extractLsb' 30 2 = 0#2 := by
  unfold packA
  rw [BitVec.extractLsb'_append_eq_of_le (by decide), BitVec.extractLsb'_append_eq_of_le (by decide), BitVec.extractLsb'_append_eq_of_le (by decide), BitVec.extractLsb'_append_eq_of_le (by decide), BitVec.extractLsb'_append_eq_of_le (by decide)]
  exact extract_all _
@[simp] theorem packA_op (op : BitVec 6) (g : BitVec 3) (d a b : BitVec 7) : (packA op g d a b).extractLsb' 24 6 = op := by
  unfold packA
  rw [BitVec.extractLsb'_append_eq_of_le (by decide), BitVec.extractLsb'_append_eq_of_le (by decide), BitVec.extractLsb'_append_eq_of_le (by decide), BitVec.extractLsb'_append_eq_of_le (by decide), BitVec.extractLsb'_append_eq_of_add_le (by decide)]
  exact extract_all _
@[simp] theorem packA_g (op : BitVec 6) (g : BitVec 3) (d a b : BitVec 7) : (packA op g d a b).extractLsb' 21 3 = g := by
  unfold packA
  rw [BitVec.extractLsb'_append_eq_of_le (by decide), BitVec.extractLsb'_append_eq_of_le (by decide), BitVec.extractLsb'_append_eq_of_le (by decide), BitVec.extractLsb'_append_eq_of_add_le (by decide)]
  exact extract_all _
@[simp] theorem packA_d (op : BitVec 6) (g : BitVec 3) (d a b : BitVec 7) : (packA op g d a b).extractLsb' 14 7 = d := by
  unfold packA
  rw [BitVec.extractLsb'_append_eq_of_le (by decide), BitVec.extractLsb'_append_eq_of_le (by decide), BitVec.extractLsb'_append_eq_of_add_le (by decide)]
  exact extract_all _
@[simp] theorem packA_a (op : BitVec 6) (g : BitVec 3) (d a b : BitVec 7) : (packA op g d a b).extractLsb' 7 7 = a := by
  unfold packA
  rw [BitVec.extractLsb'_append_eq_of_le (by decide), BitVec.extractLsb'_append_eq_of_add_le (by decide)]
  exact extract_all _
@[simp] theorem packA_b (op : BitVec 6) (g : BitVec 3) (d a b : BitVec 7) : (packA op g d a b).extractLsb' 0 7 = b := by
  unfold packA
  rw [BitVec.extractLsb'_append_eq_of_add_le (by decide)]
  exact extract_all _

@[simp] theorem packB_class (op : BitVec 5) (g : BitVec 3) (d a : BitVec 7) (imm : BitVec 8) : (packB op g d a imm).extractLsb' 30 2 = 1#2 := by
  unfold packB
  rw [BitVec.extractLsb'_append_eq_of_le (by decide), BitVec.extractLsb'_append_eq_of_le (by decide), BitVec.extractLsb'_append_eq_of_le (by decide), BitVec.extractLsb'_append_eq_of_le (by decide), BitVec.extractLsb'_append_eq_of_le (by decide)]
  exact extract_all _
@[simp] theorem packB_op (op : BitVec 5) (g : BitVec 3) (d a : BitVec 7) (imm : BitVec 8) : (packB op g d a imm).extractLsb' 25 5 = op := by
  unfold packB
  rw [BitVec.extractLsb'_append_eq_of_le (by decide), BitVec.extractLsb'_append_eq_of_le (by decide), BitVec.extractLsb'_append_eq_of_le (by decide), BitVec.extractLsb'_append_eq_of_le (by decide), BitVec.extractLsb'_append_eq_of_add_le (by decide)]
  exact extract_all _
@[simp] theorem packB_g (op : BitVec 5) (g : BitVec 3) (d a : BitVec 7) (imm : BitVec 8) : (packB op g d a imm).extractLsb' 22 3 = g := by
  unfold packB
  rw [BitVec.extractLsb'_append_eq_of_le (by decide), BitVec.extractLsb'_append_eq_of_le (by decide), BitVec.extractLsb'_append_eq_of_le (by decide), BitVec.extractLsb'_append_eq_of_add_le (by decide)]
  exact extract_all _
@[simp] theorem packB_d (op : BitVec 5) (g : BitVec 3) (d a : BitVec 7) (imm : BitVec 8) : (packB op g d a imm).extractLsb' 15 7 = d := by
  unfold packB
  rw [BitVec.extractLsb'_append_eq_of_le (by decide), BitVec.extractLsb'_append_eq_of_le (by decide), BitVec.extractLsb'_append_eq_of_add_le (by decide)]
  exact extract_all _
@[simp] theorem packB_a (op : BitVec 5) (g : BitVec 3) (d a : BitVec 7) (imm : BitVec 8) : (packB op g d a imm).extractLsb' 8 7 = a := by
  unfold packB
  rw [BitVec.extractLsb'_append_eq_of_le (by decide), BitVec.extractLsb'_append_eq_of_add_le (by decide)]
  exact extract_all _
@[simp] theorem packB_imm (op : BitVec 5) (g : BitVec 3) (d a : BitVec 7) (imm : BitVec 8) : (packB op g d a imm).extractLsb' 0 8 = imm := by
  unfold packB
  rw [BitVec.extractLsb'_append_eq_of_add_le (by decide)]
  exact extract_all _

@[simp] theorem packC_class (op : BitVec 4) (m g : BitVec 2) (d a b : BitVec 7) : (packC op m g d a b).extractLsb' 29 3 = 4#3 := by
  unfold packC
  rw [BitVec.extractLsb'_append_eq_of_le (by decide), BitVec.extractLsb'_append_eq_of_le (by decide), BitVec.extractLsb'_append_eq_of_le (by decide), BitVec.extractLsb'_append_eq_of_le (by decide), BitVec.extractLsb'_append_eq_of_le (by decide), BitVec.extractLsb'_append_eq_of_le (by decide)]
  exact extract_all _
@[simp] theorem packC_op (op : BitVec 4) (m g : BitVec 2) (d a b : BitVec 7) : (packC op m g d a b).extractLsb' 25 4 = op := by
  unfold packC
  rw [BitVec.extractLsb'_append_eq_of_le (by decide), BitVec.extractLsb'_append_eq_of_le (by decide), BitVec.extractLsb'_append_eq_of_le (by decide), BitVec.extractLsb'_append_eq_of_le (by decide), BitVec.extractLsb'_append_eq_of_le (by decide), BitVec.extractLsb'_append_eq_of_add_le (by decide)]
  exact extract_all _
@[simp] theorem packC_mod (op : BitVec 4) (m g : BitVec 2) (d a b : BitVec 7) : (packC op m g d a b).extractLsb' 23 2 = m := by
  unfold packC
  rw [BitVec.extractLsb'_append_eq_of_le (by decide), BitVec.extractLsb'_append_eq_of_le (by decide), BitVec.extractLsb'_append_eq_of_le (by decide), BitVec.extractLsb'_append_eq_of_le (by decide), BitVec.extractLsb'_append_eq_of_add_le (by decide)]
  exact extract_all _
@[simp] theorem packC_g (op : BitVec 4) (m g : BitVec 2) (d a b : BitVec 7) : (packC op m g d a b).extractLsb' 21 2 = g := by
  unfold packC
  rw [BitVec.extractLsb'_append_eq_of_le (by decide), BitVec.extractLsb'_append_eq_of_le (by decide), BitVec.extractLsb'_append_eq_of_le (by decide), BitVec.extractLsb'_append_eq_of_add_le (by decide)]
  exact extract_all _
@[simp] theorem packC_d (op : BitVec 4) (m g : BitVec 2) (d a b : BitVec 7) : (packC op m g d a b).extractLsb' 14 7 = d := by
  unfold packC
  rw [BitVec.extractLsb'_append_eq_of_le (by decide), BitVec.extractLsb'_append_eq_of_le (by decide), BitVec.extractLsb'_append_eq_of_add_le (by decide)]
  exact extract_all _
@[simp] theorem packC_a (op : BitVec 4) (m g : BitVec 2) (d a b : BitVec 7) : (packC op m g d a b).extractLsb' 7 7 = a := by
  unfold packC
  rw [BitVec.extractLsb'_append_eq_of_le (by decide), BitVec.extractLsb'_append_eq_of_add_le (by decide)]
  exact extract_all _
@[simp] theorem packC_b (op : BitVec 4) (m g : BitVec 2) (d a b : BitVec 7) : (packC op m g d a b).extractLsb' 0 7 = b := by
  unfold packC
  rw [BitVec.extractLsb'_append_eq_of_add_le (by decide)]
  exact extract_all _
@[simp] theorem packC_high (op : BitVec 4) (m g : BitVec 2) (d a b : BitVec 7) : (packC op m g d a b).extractLsb' 30 2 = 2#2 := by
  unfold packC
  rw [BitVec.extractLsb'_append_eq_of_le (by decide), BitVec.extractLsb'_append_eq_of_le (by decide), BitVec.extractLsb'_append_eq_of_le (by decide), BitVec.extractLsb'_append_eq_of_le (by decide), BitVec.extractLsb'_append_eq_of_le (by decide), BitVec.extractLsb'_append_eq_of_le (by decide)]
  decide

@[simp] theorem packM_class (op : BitVec 4) (x : BitVec 3) (d a : BitVec 7) (s : BitVec 3) (c : BitVec 5) : (packM op x d a s c).extractLsb' 29 3 = 5#3 := by
  unfold packM
  rw [BitVec.extractLsb'_append_eq_of_le (by decide), BitVec.extractLsb'_append_eq_of_le (by decide), BitVec.extractLsb'_append_eq_of_le (by decide), BitVec.extractLsb'_append_eq_of_le (by decide), BitVec.extractLsb'_append_eq_of_le (by decide), BitVec.extractLsb'_append_eq_of_le (by decide)]
  exact extract_all _
@[simp] theorem packM_op (op : BitVec 4) (x : BitVec 3) (d a : BitVec 7) (s : BitVec 3) (c : BitVec 5) : (packM op x d a s c).extractLsb' 25 4 = op := by
  unfold packM
  rw [BitVec.extractLsb'_append_eq_of_le (by decide), BitVec.extractLsb'_append_eq_of_le (by decide), BitVec.extractLsb'_append_eq_of_le (by decide), BitVec.extractLsb'_append_eq_of_le (by decide), BitVec.extractLsb'_append_eq_of_le (by decide), BitVec.extractLsb'_append_eq_of_add_le (by decide)]
  exact extract_all _
@[simp] theorem packM_x (op : BitVec 4) (x : BitVec 3) (d a : BitVec 7) (s : BitVec 3) (c : BitVec 5) : (packM op x d a s c).extractLsb' 22 3 = x := by
  unfold packM
  rw [BitVec.extractLsb'_append_eq_of_le (by decide), BitVec.extractLsb'_append_eq_of_le (by decide), BitVec.extractLsb'_append_eq_of_le (by decide), BitVec.extractLsb'_append_eq_of_le (by decide), BitVec.extractLsb'_append_eq_of_add_le (by decide)]
  exact extract_all _
@[simp] theorem packM_d (op : BitVec 4) (x : BitVec 3) (d a : BitVec 7) (s : BitVec 3) (c : BitVec 5) : (packM op x d a s c).extractLsb' 15 7 = d := by
  unfold packM
  rw [BitVec.extractLsb'_append_eq_of_le (by decide), BitVec.extractLsb'_append_eq_of_le (by decide), BitVec.extractLsb'_append_eq_of_le (by decide), BitVec.extractLsb'_append_eq_of_add_le (by decide)]
  exact extract_all _
@[simp] theorem packM_a (op : BitVec 4) (x : BitVec 3) (d a : BitVec 7) (s : BitVec 3) (c : BitVec 5) : (packM op x d a s c).extractLsb' 8 7 = a := by
  unfold packM
  rw [BitVec.extractLsb'_append_eq_of_le (by decide), BitVec.extractLsb'_append_eq_of_le (by decide), BitVec.extractLsb'_append_eq_of_add_le (by decide)]
  exact extract_all _
@[simp] theorem packM_size (op : BitVec 4) (x : BitVec 3) (d a : BitVec 7) (s : BitVec 3) (c : BitVec 5) : (packM op x d a s c).extractLsb' 5 3 = s := by
  unfold packM
  rw [BitVec.extractLsb'_append_eq_of_le (by decide), BitVec.extractLsb'_append_eq_of_add_le (by decide)]
  exact extract_all _
@[simp] theorem packM_small (op : BitVec 4) (x : BitVec 3) (d a : BitVec 7) (s : BitVec 3) (c : BitVec 5) : (packM op x d a s c).extractLsb' 0 5 = c := by
  unfold packM
  rw [BitVec.extractLsb'_append_eq_of_add_le (by decide)]
  exact extract_all _
@[simp] theorem packM_high (op : BitVec 4) (x : BitVec 3) (d a : BitVec 7) (s : BitVec 3) (c : BitVec 5) : (packM op x d a s c).extractLsb' 30 2 = 2#2 := by
  unfold packM
  rw [BitVec.extractLsb'_append_eq_of_le (by decide), BitVec.extractLsb'_append_eq_of_le (by decide), BitVec.extractLsb'_append_eq_of_le (by decide), BitVec.extractLsb'_append_eq_of_le (by decide), BitVec.extractLsb'_append_eq_of_le (by decide), BitVec.extractLsb'_append_eq_of_le (by decide)]
  decide

@[simp] theorem packS_class (op : BitVec 6) (w : BitVec 23) : (packS op w).extractLsb' 29 3 = 6#3 := by
  unfold packS
  rw [BitVec.extractLsb'_append_eq_of_le (by decide), BitVec.extractLsb'_append_eq_of_le (by decide)]
  exact extract_all _
@[simp] theorem packS_op (op : BitVec 6) (w : BitVec 23) : (packS op w).extractLsb' 23 6 = op := by
  unfold packS
  rw [BitVec.extractLsb'_append_eq_of_le (by decide), BitVec.extractLsb'_append_eq_of_add_le (by decide)]
  exact extract_all _
@[simp] theorem packS_imm (op : BitVec 6) (w : BitVec 23) : (packS op w).extractLsb' 0 23 = w := by
  unfold packS
  rw [BitVec.extractLsb'_append_eq_of_add_le (by decide)]
  exact extract_all _
@[simp] theorem packS_high (op : BitVec 6) (w : BitVec 23) : (packS op w).extractLsb' 30 2 = 3#2 := by
  unfold packS
  rw [BitVec.extractLsb'_append_eq_of_le (by decide), BitVec.extractLsb'_append_eq_of_le (by decide)]
  decide

@[simp] theorem packJ_class (sub : BitVec 3) (w : BitVec 26) : (packJ sub w).extractLsb' 29 3 = 7#3 := by
  unfold packJ
  rw [BitVec.extractLsb'_append_eq_of_le (by decide), BitVec.extractLsb'_append_eq_of_le (by decide)]
  exact extract_all _
@[simp] theorem packJ_sub (sub : BitVec 3) (w : BitVec 26) : (packJ sub w).extractLsb' 26 3 = sub := by
  unfold packJ
  rw [BitVec.extractLsb'_append_eq_of_le (by decide), BitVec.extractLsb'_append_eq_of_add_le (by decide)]
  exact extract_all _
@[simp] theorem packJ_imm (sub : BitVec 3) (w : BitVec 26) : (packJ sub w).extractLsb' 0 26 = w := by
  unfold packJ
  rw [BitVec.extractLsb'_append_eq_of_add_le (by decide)]
  exact extract_all _
@[simp] theorem packJ_high (sub : BitVec 3) (w : BitVec 26) : (packJ sub w).extractLsb' 30 2 = 3#2 := by
  unfold packJ
  rw [BitVec.extractLsb'_append_eq_of_le (by decide), BitVec.extractLsb'_append_eq_of_le (by decide)]
  decide

@[simp] theorem packL_class (op : BitVec 4) (d a : BitVec 7) : (packL op d a).extractLsb' 29 3 = 7#3 := by
  unfold packL
  rw [BitVec.extractLsb'_append_eq_of_le (by decide), BitVec.extractLsb'_append_eq_of_le (by decide), BitVec.extractLsb'_append_eq_of_le (by decide), BitVec.extractLsb'_append_eq_of_le (by decide), BitVec.extractLsb'_append_eq_of_le (by decide)]
  exact extract_all _
@[simp] theorem packL_sub (op : BitVec 4) (d a : BitVec 7) : (packL op d a).extractLsb' 26 3 = 4#3 := by
  unfold packL
  rw [BitVec.extractLsb'_append_eq_of_le (by decide), BitVec.extractLsb'_append_eq_of_le (by decide), BitVec.extractLsb'_append_eq_of_le (by decide), BitVec.extractLsb'_append_eq_of_le (by decide), BitVec.extractLsb'_append_eq_of_add_le (by decide)]
  exact extract_all _
@[simp] theorem packL_op (op : BitVec 4) (d a : BitVec 7) : (packL op d a).extractLsb' 22 4 = op := by
  unfold packL
  rw [BitVec.extractLsb'_append_eq_of_le (by decide), BitVec.extractLsb'_append_eq_of_le (by decide), BitVec.extractLsb'_append_eq_of_le (by decide), BitVec.extractLsb'_append_eq_of_add_le (by decide)]
  exact extract_all _
@[simp] theorem packL_d (op : BitVec 4) (d a : BitVec 7) : (packL op d a).extractLsb' 15 7 = d := by
  unfold packL
  rw [BitVec.extractLsb'_append_eq_of_le (by decide), BitVec.extractLsb'_append_eq_of_le (by decide), BitVec.extractLsb'_append_eq_of_add_le (by decide)]
  exact extract_all _
@[simp] theorem packL_a (op : BitVec 4) (d a : BitVec 7) : (packL op d a).extractLsb' 8 7 = a := by
  unfold packL
  rw [BitVec.extractLsb'_append_eq_of_le (by decide), BitVec.extractLsb'_append_eq_of_add_le (by decide)]
  exact extract_all _
@[simp] theorem packL_mod (op : BitVec 4) (d a : BitVec 7) : (packL op d a).extractLsb' 0 8 = 0#8 := by
  unfold packL
  rw [BitVec.extractLsb'_append_eq_of_add_le (by decide)]
  exact extract_all _
@[simp] theorem packL_high (op : BitVec 4) (d a : BitVec 7) : (packL op d a).extractLsb' 30 2 = 3#2 := by
  unfold packL
  rw [BitVec.extractLsb'_append_eq_of_le (by decide), BitVec.extractLsb'_append_eq_of_le (by decide), BitVec.extractLsb'_append_eq_of_le (by decide), BitVec.extractLsb'_append_eq_of_le (by decide), BitVec.extractLsb'_append_eq_of_le (by decide)]
  decide

end Sys2Proof.Laws
end

