-- ==== Sys2Proof/Laws/Memory.lean ====
section
/-! SUPPORT. Sparse maps and memory: a read after a write, what a write leaves alone, and that every operation on memory
keeps the canonical form. -/

namespace Sys2Proof.Machine

variable {α : Type} [DecidableEq α]

/-- A lower bound on the keys may be lowered. -/
theorem nwfFrom_weaken (d : α) {lo lo' : Nat} (h : lo' ≤ lo) : ∀ {m : NMap α}, nwfFrom d lo m = true → nwfFrom d lo' m = true
  | [], _ => rfl
  | (k, x) :: m, w => by
    simp only [nwfFrom, Bool.and_eq_true, decide_eq_true_eq] at w ⊢
    exact ⟨⟨Nat.le_trans h w.1.1, w.1.2⟩, w.2⟩

omit [DecidableEq α] in
/-- Entries of another key do not count. -/
theorem nget_ndrop_other (d : α) {k j : Nat} (h : j ≠ k) : ∀ m : NMap α, nget d (ndrop k m) j = nget d m j
  | [] => rfl
  | (i, x) :: m => by
    unfold ndrop
    split
    · rename_i hi
      simp only [nget, hi, h, if_false, nget_ndrop_other d h m]
    · simp only [nget, nget_ndrop_other d h m]

omit [DecidableEq α] in
/-- A key whose entries are dropped reads as the default. -/
theorem nget_ndrop_same (d : α) (k : Nat) : ∀ m : NMap α, nget d (ndrop k m) k = d
  | [] => rfl
  | (i, x) :: m => by
    unfold ndrop
    split
    · exact nget_ndrop_same d k m
    · rename_i hi
      have hk : k ≠ i := fun e => hi e.symm
      simp only [nget, hk, if_false, nget_ndrop_same d k m]

omit [DecidableEq α] in
/-- Dropping a key leaves no entry of it. -/
theorem ndrop_none (k : Nat) : ∀ (m : NMap α), ∀ e ∈ ndrop k m, e.1 ≠ k
  | [], e, h => by simp [ndrop] at h
  | (i, x) :: m, e, h => by
    unfold ndrop at h
    split at h
    · exact ndrop_none k m e h
    · rename_i hi
      rcases List.mem_cons.mp h with rfl | h
      · exact hi
      · exact ndrop_none k m e h

omit [DecidableEq α] in
/-- An inserted entry leaves every other key alone. -/
theorem nget_ninsert_other (d : α) (v : α) {k j : Nat} (h : j ≠ k) : ∀ m : NMap α, nget d (ninsert k v m) j = nget d m j
  | [] => by simp [ninsert, nget, h]
  | (i, x) :: m => by
    unfold ninsert
    split
    · simp [nget, h]
    · simp only [nget, nget_ninsert_other d v h m]

omit [DecidableEq α] in
/-- An inserted entry is read, where its key had none. -/
theorem nget_ninsert_same (d : α) (v : α) (k : Nat) : ∀ m : NMap α, (∀ e ∈ m, e.1 ≠ k) → nget d (ninsert k v m) k = v
  | [], _ => by simp [ninsert, nget]
  | (i, x) :: m, h => by
    unfold ninsert
    split
    · simp [nget]
    · have hi : k ≠ i := fun e => h (i, x) (by simp) e.symm
      simp only [nget, hi, if_false]
      exact nget_ninsert_same d v k m fun e he => h e (by simp [he])

/-- Writing leaves every other key alone. -/
theorem nget_nset_other (d : α) (v : α) {k j : Nat} (h : j ≠ k) (m : NMap α) : nget d (nset d m k v) j = nget d m j := by
  unfold nset
  split
  · exact nget_ndrop_other d h m
  · rw [nget_ninsert_other d v h, nget_ndrop_other d h]

/-- A read gives what was written last. -/
theorem nget_nset_same (d : α) (v : α) (k : Nat) (m : NMap α) : nget d (nset d m k v) k = v := by
  unfold nset
  split
  · rename_i h; rw [h]; exact nget_ndrop_same d k m
  · exact nget_ninsert_same d v k _ (ndrop_none k m)

/-- A read after a write. -/
theorem nget_nset (d : α) (v : α) (k j : Nat) (m : NMap α) :
    nget d (nset d m k v) j = if j = k then v else nget d m j := by
  split
  · rename_i h; rw [h]; exact nget_nset_same d v k m
  · rename_i h; exact nget_nset_other d v h m

/-- Dropping entries keeps the canonical form. -/
theorem filter_keeps_wf (d : α) (p : Nat × α → Bool) : ∀ {m : NMap α} {lo : Nat}, nwfFrom d lo m = true →
    nwfFrom d lo (m.filter p) = true
  | [], _, _ => rfl
  | (i, x) :: m, lo, w => by
    simp only [nwfFrom, Bool.and_eq_true, decide_eq_true_eq] at w
    rw [List.filter_cons]
    split
    · simp only [nwfFrom, Bool.and_eq_true, decide_eq_true_eq]
      exact ⟨w.1, filter_keeps_wf d p w.2⟩
    · exact nwfFrom_weaken d (by omega) (filter_keeps_wf d p w.2)

/-- Dropping a key keeps the canonical form. -/
theorem ndrop_keeps_wf (d : α) (k : Nat) : ∀ {m : NMap α} {lo : Nat}, nwfFrom d lo m = true → nwfFrom d lo (ndrop k m) = true
  | [], _, _ => rfl
  | (i, x) :: m, lo, w => by
    simp only [nwfFrom, Bool.and_eq_true, decide_eq_true_eq] at w
    unfold ndrop
    split
    · exact nwfFrom_weaken d (by omega) (ndrop_keeps_wf d k w.2)
    · simp only [nwfFrom, Bool.and_eq_true, decide_eq_true_eq]
      exact ⟨w.1, ndrop_keeps_wf d k w.2⟩

/-- Inserting keeps the canonical form. -/
theorem ninsert_keeps_wf (d : α) {v : α} (hv : v ≠ d) {k : Nat} : ∀ {m : NMap α} {lo : Nat}, lo ≤ k → (∀ e ∈ m, e.1 ≠ k) →
    nwfFrom d lo m = true → nwfFrom d lo (ninsert k v m) = true
  | [], lo, h, _, _ => by simp [ninsert, nwfFrom, h, hv]
  | (i, x) :: m, lo, h, hk, w => by
    simp only [nwfFrom, Bool.and_eq_true, decide_eq_true_eq] at w
    have hi : i ≠ k := hk (i, x) (by simp)
    unfold ninsert
    split
    · rename_i hlt
      simp only [nwfFrom, Bool.and_eq_true, decide_eq_true_eq]
      exact ⟨⟨h, hv⟩, ⟨⟨hlt, w.1.2⟩, w.2⟩⟩
    · simp only [nwfFrom, Bool.and_eq_true, decide_eq_true_eq]
      exact ⟨w.1, ninsert_keeps_wf d hv (by omega) (fun e he => hk e (by simp [he])) w.2⟩

/-- Writing keeps the canonical form. -/
theorem nset_keeps_wf (d : α) (v : α) {k : Nat} {m : NMap α} {lo : Nat} (h : lo ≤ k) (w : nwfFrom d lo m = true) :
    nwfFrom d lo (nset d m k v) = true := by
  unfold nset
  split
  · exact ndrop_keeps_wf d k w
  · rename_i hv
    exact ninsert_keeps_wf d hv h (ndrop_none k m) (ndrop_keeps_wf d k w)

/-! Memory. -/

/-- Storing bytes keeps the canonical form. -/
theorem putBytes_keeps_wf : ∀ (bs : List Byte) (m : NMap Byte) (a : Nat), nwf unlistedByte m = true →
    nwf unlistedByte (putBytes m a bs) = true
  | [], _, _, h => h
  | b :: bs, _, a, h => putBytes_keeps_wf bs _ (a + 1) (nset_keeps_wf unlistedByte b (Nat.zero_le a) h)

/-- A store keeps memory's canonical form. -/
theorem State.putMem_keeps_wf (s : State) (a : Nat) (bs : List Byte) (h : Memory.wf s.mem = true) :
    Memory.wf (s.putMem a bs).mem = true := putBytes_keeps_wf bs s.mem a h

/-- A store of a number keeps memory's canonical form. -/
theorem State.putNum_keeps_wf (s : State) (a n w : Nat) (h : Memory.wf s.mem = true) :
    Memory.wf (s.putNum a n w).mem = true := s.putMem_keeps_wf a _ h

/-- A request to a peer leaves memory alone. -/
@[simp] theorem State.sendPeer_mem (s : State) (vd pa : Nat) (k : PeerKind) : (s.sendPeer vd pa k).mem = s.mem := by
  unfold State.sendPeer
  split <;> rfl

/-- What an engine is told of an address leaves memory alone. -/
@[simp] theorem State.engineAddr_mem (s : State) (a : Nat) : (s.engineAddr a).mem = s.mem := by
  unfold State.engineAddr
  split <;> rfl

/-- What an engine's read asks leaves memory alone. -/
@[simp] theorem State.engineGet_mem (s : State) (vd a n : Nat) : (s.engineGet vd a n).mem = s.mem := by
  simp only [State.engineGet, State.sendPeer_mem, State.engineAddr_mem]

/-- The device's own store, whatever it asks of a peer, is a store of a number. -/
theorem State.putAt_mem (s : State) (vd pa n w : Nat) : (s.putAt vd pa n w).mem = (s.putNum pa n w).mem := by
  simp only [State.putAt, State.putNum, State.putMem, State.sendPeer_mem]

/-- An engine's store is a store of a number at the place the address names. -/
theorem State.enginePut_mem (s : State) (vd a n w : Nat) : (s.enginePut vd a n w).mem = (s.putNum (s.alias a) n w).mem := by
  simp only [State.enginePut, State.putAt_mem, State.putNum, State.putMem, State.engineAddr_mem]

/-- R346: what the device asks for leaves memory alone. -/
@[simp] theorem State.askFor_mem (vd : Nat) : ∀ (reads : List (Nat × Nat)) (s : State), (s.askFor vd reads).mem = s.mem
  | [], _ => rfl
  | r :: rs, s => by
    simp only [State.askFor, List.foldl_cons]
    split
    · exact (State.askFor_mem vd rs _).trans (s.sendPeer_mem vd _ _)
    · exact State.askFor_mem vd rs s

/-- The device's own store keeps memory's canonical form. -/
theorem State.putAt_keeps_wf (s : State) (vd pa n w : Nat) (h : Memory.wf s.mem = true) :
    Memory.wf (s.putAt vd pa n w).mem = true := by
  rw [State.putAt_mem]; exact s.putNum_keeps_wf pa n w h

/-- An engine's store keeps memory's canonical form. -/
theorem State.enginePut_keeps_wf (s : State) (vd a n w : Nat) (h : Memory.wf s.mem = true) :
    Memory.wf (s.enginePut vd a n w).mem = true := by
  rw [State.enginePut_mem]; exact s.putNum_keeps_wf _ n w h

/-- Zeroing a range keeps memory's canonical form. -/
theorem State.zeroMem_keeps_wf (s : State) (a n : Nat) (h : Memory.wf s.mem = true) :
    Memory.wf (s.zeroMem a n).mem = true := filter_keeps_wf unlistedByte _ h

/-- A store where a place stands keeps memory's canonical form. -/
theorem State.putLoc_keeps_wf (s : State) (l : MemLoc) (bs : List Byte) (h : Memory.wf s.mem = true) :
    Memory.wf (s.putLoc l bs).mem = true := by
  cases l with
  | phys a => exact s.putMem_keeps_wf a bs h
  | scratch t o => exact h

/-- Memory as reset leaves it has the canonical form. -/
theorem reset_memory_wf : Memory.wf State.reset.mem = true := rfl

/-- Bytes stored from `a` on leave the places below `a` and from `a + bs.length` on alone. -/
theorem nget_putBytes_outside : ∀ (bs : List Byte) (m : NMap Byte) (a x : Nat), x < a ∨ a + bs.length ≤ x →
    nget unlistedByte (putBytes m a bs) x = nget unlistedByte m x
  | [], _, _, _, _ => rfl
  | b :: bs, m, a, x, h => by
    have h' : x < a ∨ a + (bs.length + 1) ≤ x := h
    rw [putBytes, nget_putBytes_outside bs _ (a + 1) x (by omega), nget_nset_other unlistedByte b (by omega) m]

/-- A place among the bytes stored reads as its byte. -/
theorem nget_putBytes_inside : ∀ (bs : List Byte) (m : NMap Byte) (a i : Nat) (h : i < bs.length),
    nget unlistedByte (putBytes m a bs) (a + i) = bs[i]
  | b :: bs, _, a, 0, _ => by
    rw [putBytes, nget_putBytes_outside bs _ (a + 1) (a + 0) (by omega)]
    exact nget_nset_same unlistedByte b a _
  | b :: bs, m, a, i + 1, h => by
    have h' : i < bs.length := Nat.lt_of_succ_lt_succ h
    have e : a + (i + 1) = (a + 1) + i := by omega
    rw [putBytes, e, nget_putBytes_inside bs _ (a + 1) i h']
    rfl

/-- R4: a store leaves every byte outside it as it was. -/
theorem State.putMem_byte_outside (s : State) (a : Nat) (bs : List Byte) (x : Nat) (h : x < a ∨ a + bs.length ≤ x) :
    (s.putMem a bs).byte x = s.byte x := nget_putBytes_outside bs s.mem a x h

/-- A byte stored is the byte read. -/
theorem State.putMem_byte_inside (s : State) (a : Nat) (bs : List Byte) (i : Nat) (h : i < bs.length) :
    (s.putMem a bs).byte (a + i) = bs[i] := nget_putBytes_inside bs s.mem a i h

/-- Memory that is not stored to reads as before. -/
theorem State.byte_of_mem {s t : State} (h : t.mem = s.mem) (a : Nat) : t.byte a = s.byte a := by
  unfold State.byte; rw [h]

end Sys2Proof.Machine
end

