-- ==== Sys2Proof/Laws/State.lean ====
section
/-! SUPPORT. One lemma per field per update of a state and of a group: what each shared update leaves as it is, and what it
writes. -/

namespace Sys2Proof.Machine


/-! `State.modGrp` -/

@[simp] theorem State.modGrp_grp (s : State) (f : Group → Group) : (s.modGrp f).grp = f s.grp := rfl
@[simp] theorem State.modGrp_others (s : State) (f : Group → Group) : (s.modGrp f).others = s.others := rfl
@[simp] theorem State.modGrp_teams (s : State) (f : Group → Group) : (s.modGrp f).teams = s.teams := rfl
@[simp] theorem State.modGrp_launches (s : State) (f : Group → Group) : (s.modGrp f).launches = s.launches := rfl
@[simp] theorem State.modGrp_quads (s : State) (f : Group → Group) : (s.modGrp f).quads = s.quads := rfl
@[simp] theorem State.modGrp_gauges (s : State) (f : Group → Group) : (s.modGrp f).gauges = s.gauges := rfl
@[simp] theorem State.modGrp_dieExtra (s : State) (f : Group → Group) : (s.modGrp f).dieExtra = s.dieExtra := rfl
@[simp] theorem State.modGrp_pkgExtra (s : State) (f : Group → Group) : (s.modGrp f).pkgExtra = s.pkgExtra := rfl
@[simp] theorem State.modGrp_slots (s : State) (f : Group → Group) : (s.modGrp f).slots = s.slots := rfl
@[simp] theorem State.modGrp_intervalStart (s : State) (f : Group → Group) : (s.modGrp f).intervalStart = s.intervalStart := rfl
@[simp] theorem State.modGrp_intervalGrowth (s : State) (f : Group → Group) : (s.modGrp f).intervalGrowth = s.intervalGrowth := rfl
@[simp] theorem State.modGrp_arrays (s : State) (f : Group → Group) : (s.modGrp f).arrays = s.arrays := rfl
@[simp] theorem State.modGrp_selFree (s : State) (f : Group → Group) : (s.modGrp f).selFree = s.selFree := rfl
@[simp] theorem State.modGrp_fullAt (s : State) (f : Group → Group) : (s.modGrp f).fullAt = s.fullAt := rfl
@[simp] theorem State.modGrp_pipeFree (s : State) (f : Group → Group) : (s.modGrp f).pipeFree = s.pipeFree := rfl
@[simp] theorem State.modGrp_pipeTaken (s : State) (f : Group → Group) : (s.modGrp f).pipeTaken = s.pipeTaken := rfl
@[simp] theorem State.modGrp_tieLost (s : State) (f : Group → Group) : (s.modGrp f).tieLost = s.tieLost := rfl
@[simp] theorem State.modGrp_tiles (s : State) (f : Group → Group) : (s.modGrp f).tiles = s.tiles := rfl
@[simp] theorem State.modGrp_gangOps (s : State) (f : Group → Group) : (s.modGrp f).gangOps = s.gangOps := rfl
@[simp] theorem State.modGrp_skeins (s : State) (f : Group → Group) : (s.modGrp f).skeins = s.skeins := rfl
@[simp] theorem State.modGrp_waiting (s : State) (f : Group → Group) : (s.modGrp f).waiting = s.waiting := rfl
@[simp] theorem State.modGrp_depRecords (s : State) (f : Group → Group) : (s.modGrp f).depRecords = s.depRecords := rfl
@[simp] theorem State.modGrp_replies (s : State) (f : Group → Group) : (s.modGrp f).replies = s.replies := rfl
@[simp] theorem State.modGrp_marks (s : State) (f : Group → Group) : (s.modGrp f).marks = s.marks := rfl
@[simp] theorem State.modGrp_ctxs (s : State) (f : Group → Group) : (s.modGrp f).ctxs = s.ctxs := rfl
@[simp] theorem State.modGrp_vds (s : State) (f : Group → Group) : (s.modGrp f).vds = s.vds := rfl
@[simp] theorem State.modGrp_queues (s : State) (f : Group → Group) : (s.modGrp f).queues = s.queues := rfl
@[simp] theorem State.modGrp_lastServed (s : State) (f : Group → Group) : (s.modGrp f).lastServed = s.lastServed := rfl
@[simp] theorem State.modGrp_mem (s : State) (f : Group → Group) : (s.modGrp f).mem = s.mem := rfl
@[simp] theorem State.modGrp_tlb (s : State) (f : Group → Group) : (s.modGrp f).tlb = s.tlb := rfl
@[simp] theorem State.modGrp_clock (s : State) (f : Group → Group) : (s.modGrp f).clock = s.clock := rfl
@[simp] theorem State.modGrp_pwrlim (s : State) (f : Group → Group) : (s.modGrp f).pwrlim = s.pwrlim := rfl
@[simp] theorem State.modGrp_heatlim (s : State) (f : Group → Group) : (s.modGrp f).heatlim = s.heatlim := rfl
@[simp] theorem State.modGrp_thermal (s : State) (f : Group → Group) : (s.modGrp f).thermal = s.thermal := rfl
@[simp] theorem State.modGrp_nirports (s : State) (f : Group → Group) : (s.modGrp f).nirports = s.nirports := rfl
@[simp] theorem State.modGrp_domid (s : State) (f : Group → Group) : (s.modGrp f).domid = s.domid := rfl
@[simp] theorem State.modGrp_devices (s : State) (f : Group → Group) : (s.modGrp f).devices = s.devices := rfl
@[simp] theorem State.modGrp_withdrawn (s : State) (f : Group → Group) : (s.modGrp f).withdrawn = s.withdrawn := rfl
@[simp] theorem State.modGrp_retiredCores (s : State) (f : Group → Group) : (s.modGrp f).retiredCores = s.retiredCores := rfl
@[simp] theorem State.modGrp_remap (s : State) (f : Group → Group) : (s.modGrp f).remap = s.remap := rfl
@[simp] theorem State.modGrp_ce (s : State) (f : Group → Group) : (s.modGrp f).ce = s.ce := rfl
@[simp] theorem State.modGrp_spares (s : State) (f : Group → Group) : (s.modGrp f).spares = s.spares := rfl
@[simp] theorem State.modGrp_fwfail (s : State) (f : Group → Group) : (s.modGrp f).fwfail = s.fwfail := rfl
@[simp] theorem State.modGrp_uncorr (s : State) (f : Group → Group) : (s.modGrp f).uncorr = s.uncorr := rfl
@[simp] theorem State.modGrp_replaceRequested (s : State) (f : Group → Group) : (s.modGrp f).replaceRequested = s.replaceRequested := rfl
@[simp] theorem State.modGrp_coreErrors (s : State) (f : Group → Group) : (s.modGrp f).coreErrors = s.coreErrors := rfl
@[simp] theorem State.modGrp_failing (s : State) (f : Group → Group) : (s.modGrp f).failing = s.failing := rfl
@[simp] theorem State.modGrp_badMem (s : State) (f : Group → Group) : (s.modGrp f).badMem = s.badMem := rfl
@[simp] theorem State.modGrp_hvec (s : State) (f : Group → Group) : (s.modGrp f).hvec = s.hvec := rfl
@[simp] theorem State.modGrp_firmware (s : State) (f : Group → Group) : (s.modGrp f).firmware = s.firmware := rfl
@[simp] theorem State.modGrp_nextFirmware (s : State) (f : Group → Group) : (s.modGrp f).nextFirmware = s.nextFirmware := rfl
@[simp] theorem State.modGrp_mailbox (s : State) (f : Group → Group) : (s.modGrp f).mailbox = s.mailbox := rfl
@[simp] theorem State.modGrp_debugger (s : State) (f : Group → Group) : (s.modGrp f).debugger = s.debugger := rfl
@[simp] theorem State.modGrp_windowReqs (s : State) (f : Group → Group) : (s.modGrp f).windowReqs = s.windowReqs := rfl
@[simp] theorem State.modGrp_hostOut (s : State) (f : Group → Group) : (s.modGrp f).hostOut = s.hostOut := rfl
@[simp] theorem State.modGrp_peerReqs (s : State) (f : Group → Group) : (s.modGrp f).peerReqs = s.peerReqs := rfl
@[simp] theorem State.modGrp_lastRefill (s : State) (f : Group → Group) : (s.modGrp f).lastRefill = s.lastRefill := rfl
@[simp] theorem State.modGrp_lastThermal (s : State) (f : Group → Group) : (s.modGrp f).lastThermal = s.lastThermal := rfl
@[simp] theorem State.modGrp_coolSince (s : State) (f : Group → Group) : (s.modGrp f).coolSince = s.coolSince := rfl
@[simp] theorem State.modGrp_agenda (s : State) (f : Group → Group) : (s.modGrp f).agenda = s.agenda := rfl
@[simp] theorem State.modGrp_free (s : State) (f : Group → Group) : (s.modGrp f).free = s.free := rfl
@[simp] theorem State.modGrp_nextGid (s : State) (f : Group → Group) : (s.modGrp f).nextGid = s.nextGid := rfl
@[simp] theorem State.modGrp_nextTeam (s : State) (f : Group → Group) : (s.modGrp f).nextTeam = s.nextTeam := rfl
@[simp] theorem State.modGrp_nextLaunch (s : State) (f : Group → Group) : (s.modGrp f).nextLaunch = s.nextLaunch := rfl
@[simp] theorem State.modGrp_nextOp (s : State) (f : Group → Group) : (s.modGrp f).nextOp = s.nextOp := rfl
@[simp] theorem State.modGrp_busError (s : State) (f : Group → Group) : (s.modGrp f).busError = s.busError := rfl

/-! `State.putMem` -/

@[simp] theorem State.putMem_grp (s : State) (a : Nat) (bs : List Byte) : (s.putMem a bs).grp = s.grp := rfl
@[simp] theorem State.putMem_others (s : State) (a : Nat) (bs : List Byte) : (s.putMem a bs).others = s.others := rfl
@[simp] theorem State.putMem_teams (s : State) (a : Nat) (bs : List Byte) : (s.putMem a bs).teams = s.teams := rfl
@[simp] theorem State.putMem_launches (s : State) (a : Nat) (bs : List Byte) : (s.putMem a bs).launches = s.launches := rfl
@[simp] theorem State.putMem_quads (s : State) (a : Nat) (bs : List Byte) : (s.putMem a bs).quads = s.quads := rfl
@[simp] theorem State.putMem_gauges (s : State) (a : Nat) (bs : List Byte) : (s.putMem a bs).gauges = s.gauges := rfl
@[simp] theorem State.putMem_dieExtra (s : State) (a : Nat) (bs : List Byte) : (s.putMem a bs).dieExtra = s.dieExtra := rfl
@[simp] theorem State.putMem_pkgExtra (s : State) (a : Nat) (bs : List Byte) : (s.putMem a bs).pkgExtra = s.pkgExtra := rfl
@[simp] theorem State.putMem_slots (s : State) (a : Nat) (bs : List Byte) : (s.putMem a bs).slots = s.slots := rfl
@[simp] theorem State.putMem_intervalStart (s : State) (a : Nat) (bs : List Byte) : (s.putMem a bs).intervalStart = s.intervalStart := rfl
@[simp] theorem State.putMem_intervalGrowth (s : State) (a : Nat) (bs : List Byte) : (s.putMem a bs).intervalGrowth = s.intervalGrowth := rfl
@[simp] theorem State.putMem_arrays (s : State) (a : Nat) (bs : List Byte) : (s.putMem a bs).arrays = s.arrays := rfl
@[simp] theorem State.putMem_selFree (s : State) (a : Nat) (bs : List Byte) : (s.putMem a bs).selFree = s.selFree := rfl
@[simp] theorem State.putMem_fullAt (s : State) (a : Nat) (bs : List Byte) : (s.putMem a bs).fullAt = s.fullAt := rfl
@[simp] theorem State.putMem_pipeFree (s : State) (a : Nat) (bs : List Byte) : (s.putMem a bs).pipeFree = s.pipeFree := rfl
@[simp] theorem State.putMem_pipeTaken (s : State) (a : Nat) (bs : List Byte) : (s.putMem a bs).pipeTaken = s.pipeTaken := rfl
@[simp] theorem State.putMem_tieLost (s : State) (a : Nat) (bs : List Byte) : (s.putMem a bs).tieLost = s.tieLost := rfl
@[simp] theorem State.putMem_tiles (s : State) (a : Nat) (bs : List Byte) : (s.putMem a bs).tiles = s.tiles := rfl
@[simp] theorem State.putMem_gangOps (s : State) (a : Nat) (bs : List Byte) : (s.putMem a bs).gangOps = s.gangOps := rfl
@[simp] theorem State.putMem_skeins (s : State) (a : Nat) (bs : List Byte) : (s.putMem a bs).skeins = s.skeins := rfl
@[simp] theorem State.putMem_waiting (s : State) (a : Nat) (bs : List Byte) : (s.putMem a bs).waiting = s.waiting := rfl
@[simp] theorem State.putMem_depRecords (s : State) (a : Nat) (bs : List Byte) : (s.putMem a bs).depRecords = s.depRecords := rfl
@[simp] theorem State.putMem_replies (s : State) (a : Nat) (bs : List Byte) : (s.putMem a bs).replies = s.replies := rfl
@[simp] theorem State.putMem_marks (s : State) (a : Nat) (bs : List Byte) : (s.putMem a bs).marks = s.marks := rfl
@[simp] theorem State.putMem_ctxs (s : State) (a : Nat) (bs : List Byte) : (s.putMem a bs).ctxs = s.ctxs := rfl
@[simp] theorem State.putMem_vds (s : State) (a : Nat) (bs : List Byte) : (s.putMem a bs).vds = s.vds := rfl
@[simp] theorem State.putMem_queues (s : State) (a : Nat) (bs : List Byte) : (s.putMem a bs).queues = s.queues := rfl
@[simp] theorem State.putMem_lastServed (s : State) (a : Nat) (bs : List Byte) : (s.putMem a bs).lastServed = s.lastServed := rfl
@[simp] theorem State.putMem_mem (s : State) (a : Nat) (bs : List Byte) : (s.putMem a bs).mem = putBytes s.mem a bs := rfl
@[simp] theorem State.putMem_tlb (s : State) (a : Nat) (bs : List Byte) : (s.putMem a bs).tlb = s.tlb := rfl
@[simp] theorem State.putMem_clock (s : State) (a : Nat) (bs : List Byte) : (s.putMem a bs).clock = s.clock := rfl
@[simp] theorem State.putMem_pwrlim (s : State) (a : Nat) (bs : List Byte) : (s.putMem a bs).pwrlim = s.pwrlim := rfl
@[simp] theorem State.putMem_heatlim (s : State) (a : Nat) (bs : List Byte) : (s.putMem a bs).heatlim = s.heatlim := rfl
@[simp] theorem State.putMem_thermal (s : State) (a : Nat) (bs : List Byte) : (s.putMem a bs).thermal = s.thermal := rfl
@[simp] theorem State.putMem_nirports (s : State) (a : Nat) (bs : List Byte) : (s.putMem a bs).nirports = s.nirports := rfl
@[simp] theorem State.putMem_domid (s : State) (a : Nat) (bs : List Byte) : (s.putMem a bs).domid = s.domid := rfl
@[simp] theorem State.putMem_devices (s : State) (a : Nat) (bs : List Byte) : (s.putMem a bs).devices = s.devices := rfl
@[simp] theorem State.putMem_withdrawn (s : State) (a : Nat) (bs : List Byte) : (s.putMem a bs).withdrawn = s.withdrawn := rfl
@[simp] theorem State.putMem_retiredCores (s : State) (a : Nat) (bs : List Byte) : (s.putMem a bs).retiredCores = s.retiredCores := rfl
@[simp] theorem State.putMem_remap (s : State) (a : Nat) (bs : List Byte) : (s.putMem a bs).remap = s.remap := rfl
@[simp] theorem State.putMem_ce (s : State) (a : Nat) (bs : List Byte) : (s.putMem a bs).ce = s.ce := rfl
@[simp] theorem State.putMem_spares (s : State) (a : Nat) (bs : List Byte) : (s.putMem a bs).spares = s.spares := rfl
@[simp] theorem State.putMem_fwfail (s : State) (a : Nat) (bs : List Byte) : (s.putMem a bs).fwfail = s.fwfail := rfl
@[simp] theorem State.putMem_uncorr (s : State) (a : Nat) (bs : List Byte) : (s.putMem a bs).uncorr = s.uncorr := rfl
@[simp] theorem State.putMem_replaceRequested (s : State) (a : Nat) (bs : List Byte) : (s.putMem a bs).replaceRequested = s.replaceRequested := rfl
@[simp] theorem State.putMem_coreErrors (s : State) (a : Nat) (bs : List Byte) : (s.putMem a bs).coreErrors = s.coreErrors := rfl
@[simp] theorem State.putMem_failing (s : State) (a : Nat) (bs : List Byte) : (s.putMem a bs).failing = s.failing := rfl
@[simp] theorem State.putMem_badMem (s : State) (a : Nat) (bs : List Byte) : (s.putMem a bs).badMem = s.badMem := rfl
@[simp] theorem State.putMem_hvec (s : State) (a : Nat) (bs : List Byte) : (s.putMem a bs).hvec = s.hvec := rfl
@[simp] theorem State.putMem_firmware (s : State) (a : Nat) (bs : List Byte) : (s.putMem a bs).firmware = s.firmware := rfl
@[simp] theorem State.putMem_nextFirmware (s : State) (a : Nat) (bs : List Byte) : (s.putMem a bs).nextFirmware = s.nextFirmware := rfl
@[simp] theorem State.putMem_mailbox (s : State) (a : Nat) (bs : List Byte) : (s.putMem a bs).mailbox = s.mailbox := rfl
@[simp] theorem State.putMem_debugger (s : State) (a : Nat) (bs : List Byte) : (s.putMem a bs).debugger = s.debugger := rfl
@[simp] theorem State.putMem_windowReqs (s : State) (a : Nat) (bs : List Byte) : (s.putMem a bs).windowReqs = s.windowReqs := rfl
@[simp] theorem State.putMem_hostOut (s : State) (a : Nat) (bs : List Byte) : (s.putMem a bs).hostOut = s.hostOut := rfl
@[simp] theorem State.putMem_peerReqs (s : State) (a : Nat) (bs : List Byte) : (s.putMem a bs).peerReqs = s.peerReqs := rfl
@[simp] theorem State.putMem_lastRefill (s : State) (a : Nat) (bs : List Byte) : (s.putMem a bs).lastRefill = s.lastRefill := rfl
@[simp] theorem State.putMem_lastThermal (s : State) (a : Nat) (bs : List Byte) : (s.putMem a bs).lastThermal = s.lastThermal := rfl
@[simp] theorem State.putMem_coolSince (s : State) (a : Nat) (bs : List Byte) : (s.putMem a bs).coolSince = s.coolSince := rfl
@[simp] theorem State.putMem_agenda (s : State) (a : Nat) (bs : List Byte) : (s.putMem a bs).agenda = s.agenda := rfl
@[simp] theorem State.putMem_free (s : State) (a : Nat) (bs : List Byte) : (s.putMem a bs).free = s.free := rfl
@[simp] theorem State.putMem_nextGid (s : State) (a : Nat) (bs : List Byte) : (s.putMem a bs).nextGid = s.nextGid := rfl
@[simp] theorem State.putMem_nextTeam (s : State) (a : Nat) (bs : List Byte) : (s.putMem a bs).nextTeam = s.nextTeam := rfl
@[simp] theorem State.putMem_nextLaunch (s : State) (a : Nat) (bs : List Byte) : (s.putMem a bs).nextLaunch = s.nextLaunch := rfl
@[simp] theorem State.putMem_nextOp (s : State) (a : Nat) (bs : List Byte) : (s.putMem a bs).nextOp = s.nextOp := rfl
@[simp] theorem State.putMem_busError (s : State) (a : Nat) (bs : List Byte) : (s.putMem a bs).busError = s.busError := rfl

/-! `State.putNum` -/

@[simp] theorem State.putNum_grp (s : State) (a n w : Nat) : (s.putNum a n w).grp = s.grp := rfl
@[simp] theorem State.putNum_others (s : State) (a n w : Nat) : (s.putNum a n w).others = s.others := rfl
@[simp] theorem State.putNum_teams (s : State) (a n w : Nat) : (s.putNum a n w).teams = s.teams := rfl
@[simp] theorem State.putNum_launches (s : State) (a n w : Nat) : (s.putNum a n w).launches = s.launches := rfl
@[simp] theorem State.putNum_quads (s : State) (a n w : Nat) : (s.putNum a n w).quads = s.quads := rfl
@[simp] theorem State.putNum_gauges (s : State) (a n w : Nat) : (s.putNum a n w).gauges = s.gauges := rfl
@[simp] theorem State.putNum_dieExtra (s : State) (a n w : Nat) : (s.putNum a n w).dieExtra = s.dieExtra := rfl
@[simp] theorem State.putNum_pkgExtra (s : State) (a n w : Nat) : (s.putNum a n w).pkgExtra = s.pkgExtra := rfl
@[simp] theorem State.putNum_slots (s : State) (a n w : Nat) : (s.putNum a n w).slots = s.slots := rfl
@[simp] theorem State.putNum_intervalStart (s : State) (a n w : Nat) : (s.putNum a n w).intervalStart = s.intervalStart := rfl
@[simp] theorem State.putNum_intervalGrowth (s : State) (a n w : Nat) : (s.putNum a n w).intervalGrowth = s.intervalGrowth := rfl
@[simp] theorem State.putNum_arrays (s : State) (a n w : Nat) : (s.putNum a n w).arrays = s.arrays := rfl
@[simp] theorem State.putNum_selFree (s : State) (a n w : Nat) : (s.putNum a n w).selFree = s.selFree := rfl
@[simp] theorem State.putNum_fullAt (s : State) (a n w : Nat) : (s.putNum a n w).fullAt = s.fullAt := rfl
@[simp] theorem State.putNum_pipeFree (s : State) (a n w : Nat) : (s.putNum a n w).pipeFree = s.pipeFree := rfl
@[simp] theorem State.putNum_pipeTaken (s : State) (a n w : Nat) : (s.putNum a n w).pipeTaken = s.pipeTaken := rfl
@[simp] theorem State.putNum_tieLost (s : State) (a n w : Nat) : (s.putNum a n w).tieLost = s.tieLost := rfl
@[simp] theorem State.putNum_tiles (s : State) (a n w : Nat) : (s.putNum a n w).tiles = s.tiles := rfl
@[simp] theorem State.putNum_gangOps (s : State) (a n w : Nat) : (s.putNum a n w).gangOps = s.gangOps := rfl
@[simp] theorem State.putNum_skeins (s : State) (a n w : Nat) : (s.putNum a n w).skeins = s.skeins := rfl
@[simp] theorem State.putNum_waiting (s : State) (a n w : Nat) : (s.putNum a n w).waiting = s.waiting := rfl
@[simp] theorem State.putNum_depRecords (s : State) (a n w : Nat) : (s.putNum a n w).depRecords = s.depRecords := rfl
@[simp] theorem State.putNum_replies (s : State) (a n w : Nat) : (s.putNum a n w).replies = s.replies := rfl
@[simp] theorem State.putNum_marks (s : State) (a n w : Nat) : (s.putNum a n w).marks = s.marks := rfl
@[simp] theorem State.putNum_ctxs (s : State) (a n w : Nat) : (s.putNum a n w).ctxs = s.ctxs := rfl
@[simp] theorem State.putNum_vds (s : State) (a n w : Nat) : (s.putNum a n w).vds = s.vds := rfl
@[simp] theorem State.putNum_queues (s : State) (a n w : Nat) : (s.putNum a n w).queues = s.queues := rfl
@[simp] theorem State.putNum_lastServed (s : State) (a n w : Nat) : (s.putNum a n w).lastServed = s.lastServed := rfl
@[simp] theorem State.putNum_mem (s : State) (a n w : Nat) : (s.putNum a n w).mem = putBytes s.mem a (toBytes n w) := rfl
@[simp] theorem State.putNum_tlb (s : State) (a n w : Nat) : (s.putNum a n w).tlb = s.tlb := rfl
@[simp] theorem State.putNum_clock (s : State) (a n w : Nat) : (s.putNum a n w).clock = s.clock := rfl
@[simp] theorem State.putNum_pwrlim (s : State) (a n w : Nat) : (s.putNum a n w).pwrlim = s.pwrlim := rfl
@[simp] theorem State.putNum_heatlim (s : State) (a n w : Nat) : (s.putNum a n w).heatlim = s.heatlim := rfl
@[simp] theorem State.putNum_thermal (s : State) (a n w : Nat) : (s.putNum a n w).thermal = s.thermal := rfl
@[simp] theorem State.putNum_nirports (s : State) (a n w : Nat) : (s.putNum a n w).nirports = s.nirports := rfl
@[simp] theorem State.putNum_domid (s : State) (a n w : Nat) : (s.putNum a n w).domid = s.domid := rfl
@[simp] theorem State.putNum_devices (s : State) (a n w : Nat) : (s.putNum a n w).devices = s.devices := rfl
@[simp] theorem State.putNum_withdrawn (s : State) (a n w : Nat) : (s.putNum a n w).withdrawn = s.withdrawn := rfl
@[simp] theorem State.putNum_retiredCores (s : State) (a n w : Nat) : (s.putNum a n w).retiredCores = s.retiredCores := rfl
@[simp] theorem State.putNum_remap (s : State) (a n w : Nat) : (s.putNum a n w).remap = s.remap := rfl
@[simp] theorem State.putNum_ce (s : State) (a n w : Nat) : (s.putNum a n w).ce = s.ce := rfl
@[simp] theorem State.putNum_spares (s : State) (a n w : Nat) : (s.putNum a n w).spares = s.spares := rfl
@[simp] theorem State.putNum_fwfail (s : State) (a n w : Nat) : (s.putNum a n w).fwfail = s.fwfail := rfl
@[simp] theorem State.putNum_uncorr (s : State) (a n w : Nat) : (s.putNum a n w).uncorr = s.uncorr := rfl
@[simp] theorem State.putNum_replaceRequested (s : State) (a n w : Nat) : (s.putNum a n w).replaceRequested = s.replaceRequested := rfl
@[simp] theorem State.putNum_coreErrors (s : State) (a n w : Nat) : (s.putNum a n w).coreErrors = s.coreErrors := rfl
@[simp] theorem State.putNum_failing (s : State) (a n w : Nat) : (s.putNum a n w).failing = s.failing := rfl
@[simp] theorem State.putNum_badMem (s : State) (a n w : Nat) : (s.putNum a n w).badMem = s.badMem := rfl
@[simp] theorem State.putNum_hvec (s : State) (a n w : Nat) : (s.putNum a n w).hvec = s.hvec := rfl
@[simp] theorem State.putNum_firmware (s : State) (a n w : Nat) : (s.putNum a n w).firmware = s.firmware := rfl
@[simp] theorem State.putNum_nextFirmware (s : State) (a n w : Nat) : (s.putNum a n w).nextFirmware = s.nextFirmware := rfl
@[simp] theorem State.putNum_mailbox (s : State) (a n w : Nat) : (s.putNum a n w).mailbox = s.mailbox := rfl
@[simp] theorem State.putNum_debugger (s : State) (a n w : Nat) : (s.putNum a n w).debugger = s.debugger := rfl
@[simp] theorem State.putNum_windowReqs (s : State) (a n w : Nat) : (s.putNum a n w).windowReqs = s.windowReqs := rfl
@[simp] theorem State.putNum_hostOut (s : State) (a n w : Nat) : (s.putNum a n w).hostOut = s.hostOut := rfl
@[simp] theorem State.putNum_peerReqs (s : State) (a n w : Nat) : (s.putNum a n w).peerReqs = s.peerReqs := rfl
@[simp] theorem State.putNum_lastRefill (s : State) (a n w : Nat) : (s.putNum a n w).lastRefill = s.lastRefill := rfl
@[simp] theorem State.putNum_lastThermal (s : State) (a n w : Nat) : (s.putNum a n w).lastThermal = s.lastThermal := rfl
@[simp] theorem State.putNum_coolSince (s : State) (a n w : Nat) : (s.putNum a n w).coolSince = s.coolSince := rfl
@[simp] theorem State.putNum_agenda (s : State) (a n w : Nat) : (s.putNum a n w).agenda = s.agenda := rfl
@[simp] theorem State.putNum_free (s : State) (a n w : Nat) : (s.putNum a n w).free = s.free := rfl
@[simp] theorem State.putNum_nextGid (s : State) (a n w : Nat) : (s.putNum a n w).nextGid = s.nextGid := rfl
@[simp] theorem State.putNum_nextTeam (s : State) (a n w : Nat) : (s.putNum a n w).nextTeam = s.nextTeam := rfl
@[simp] theorem State.putNum_nextLaunch (s : State) (a n w : Nat) : (s.putNum a n w).nextLaunch = s.nextLaunch := rfl
@[simp] theorem State.putNum_nextOp (s : State) (a n w : Nat) : (s.putNum a n w).nextOp = s.nextOp := rfl
@[simp] theorem State.putNum_busError (s : State) (a n w : Nat) : (s.putNum a n w).busError = s.busError := rfl

/-! `State.modTeam` -/

@[simp] theorem State.modTeam_grp (s : State) (k : Nat) (f : Team → Team) : (s.modTeam k f).grp = s.grp := rfl
@[simp] theorem State.modTeam_others (s : State) (k : Nat) (f : Team → Team) : (s.modTeam k f).others = s.others := rfl
@[simp] theorem State.modTeam_teams (s : State) (k : Nat) (f : Team → Team) : (s.modTeam k f).teams = s.teams.map fun x => if x.id = k then f x else x := rfl
@[simp] theorem State.modTeam_launches (s : State) (k : Nat) (f : Team → Team) : (s.modTeam k f).launches = s.launches := rfl
@[simp] theorem State.modTeam_quads (s : State) (k : Nat) (f : Team → Team) : (s.modTeam k f).quads = s.quads := rfl
@[simp] theorem State.modTeam_gauges (s : State) (k : Nat) (f : Team → Team) : (s.modTeam k f).gauges = s.gauges := rfl
@[simp] theorem State.modTeam_dieExtra (s : State) (k : Nat) (f : Team → Team) : (s.modTeam k f).dieExtra = s.dieExtra := rfl
@[simp] theorem State.modTeam_pkgExtra (s : State) (k : Nat) (f : Team → Team) : (s.modTeam k f).pkgExtra = s.pkgExtra := rfl
@[simp] theorem State.modTeam_slots (s : State) (k : Nat) (f : Team → Team) : (s.modTeam k f).slots = s.slots := rfl
@[simp] theorem State.modTeam_intervalStart (s : State) (k : Nat) (f : Team → Team) : (s.modTeam k f).intervalStart = s.intervalStart := rfl
@[simp] theorem State.modTeam_intervalGrowth (s : State) (k : Nat) (f : Team → Team) : (s.modTeam k f).intervalGrowth = s.intervalGrowth := rfl
@[simp] theorem State.modTeam_arrays (s : State) (k : Nat) (f : Team → Team) : (s.modTeam k f).arrays = s.arrays := rfl
@[simp] theorem State.modTeam_selFree (s : State) (k : Nat) (f : Team → Team) : (s.modTeam k f).selFree = s.selFree := rfl
@[simp] theorem State.modTeam_fullAt (s : State) (k : Nat) (f : Team → Team) : (s.modTeam k f).fullAt = s.fullAt := rfl
@[simp] theorem State.modTeam_pipeFree (s : State) (k : Nat) (f : Team → Team) : (s.modTeam k f).pipeFree = s.pipeFree := rfl
@[simp] theorem State.modTeam_pipeTaken (s : State) (k : Nat) (f : Team → Team) : (s.modTeam k f).pipeTaken = s.pipeTaken := rfl
@[simp] theorem State.modTeam_tieLost (s : State) (k : Nat) (f : Team → Team) : (s.modTeam k f).tieLost = s.tieLost := rfl
@[simp] theorem State.modTeam_tiles (s : State) (k : Nat) (f : Team → Team) : (s.modTeam k f).tiles = s.tiles := rfl
@[simp] theorem State.modTeam_gangOps (s : State) (k : Nat) (f : Team → Team) : (s.modTeam k f).gangOps = s.gangOps := rfl
@[simp] theorem State.modTeam_skeins (s : State) (k : Nat) (f : Team → Team) : (s.modTeam k f).skeins = s.skeins := rfl
@[simp] theorem State.modTeam_waiting (s : State) (k : Nat) (f : Team → Team) : (s.modTeam k f).waiting = s.waiting := rfl
@[simp] theorem State.modTeam_depRecords (s : State) (k : Nat) (f : Team → Team) : (s.modTeam k f).depRecords = s.depRecords := rfl
@[simp] theorem State.modTeam_replies (s : State) (k : Nat) (f : Team → Team) : (s.modTeam k f).replies = s.replies := rfl
@[simp] theorem State.modTeam_marks (s : State) (k : Nat) (f : Team → Team) : (s.modTeam k f).marks = s.marks := rfl
@[simp] theorem State.modTeam_ctxs (s : State) (k : Nat) (f : Team → Team) : (s.modTeam k f).ctxs = s.ctxs := rfl
@[simp] theorem State.modTeam_vds (s : State) (k : Nat) (f : Team → Team) : (s.modTeam k f).vds = s.vds := rfl
@[simp] theorem State.modTeam_queues (s : State) (k : Nat) (f : Team → Team) : (s.modTeam k f).queues = s.queues := rfl
@[simp] theorem State.modTeam_lastServed (s : State) (k : Nat) (f : Team → Team) : (s.modTeam k f).lastServed = s.lastServed := rfl
@[simp] theorem State.modTeam_mem (s : State) (k : Nat) (f : Team → Team) : (s.modTeam k f).mem = s.mem := rfl
@[simp] theorem State.modTeam_tlb (s : State) (k : Nat) (f : Team → Team) : (s.modTeam k f).tlb = s.tlb := rfl
@[simp] theorem State.modTeam_clock (s : State) (k : Nat) (f : Team → Team) : (s.modTeam k f).clock = s.clock := rfl
@[simp] theorem State.modTeam_pwrlim (s : State) (k : Nat) (f : Team → Team) : (s.modTeam k f).pwrlim = s.pwrlim := rfl
@[simp] theorem State.modTeam_heatlim (s : State) (k : Nat) (f : Team → Team) : (s.modTeam k f).heatlim = s.heatlim := rfl
@[simp] theorem State.modTeam_thermal (s : State) (k : Nat) (f : Team → Team) : (s.modTeam k f).thermal = s.thermal := rfl
@[simp] theorem State.modTeam_nirports (s : State) (k : Nat) (f : Team → Team) : (s.modTeam k f).nirports = s.nirports := rfl
@[simp] theorem State.modTeam_domid (s : State) (k : Nat) (f : Team → Team) : (s.modTeam k f).domid = s.domid := rfl
@[simp] theorem State.modTeam_devices (s : State) (k : Nat) (f : Team → Team) : (s.modTeam k f).devices = s.devices := rfl
@[simp] theorem State.modTeam_withdrawn (s : State) (k : Nat) (f : Team → Team) : (s.modTeam k f).withdrawn = s.withdrawn := rfl
@[simp] theorem State.modTeam_retiredCores (s : State) (k : Nat) (f : Team → Team) : (s.modTeam k f).retiredCores = s.retiredCores := rfl
@[simp] theorem State.modTeam_remap (s : State) (k : Nat) (f : Team → Team) : (s.modTeam k f).remap = s.remap := rfl
@[simp] theorem State.modTeam_ce (s : State) (k : Nat) (f : Team → Team) : (s.modTeam k f).ce = s.ce := rfl
@[simp] theorem State.modTeam_spares (s : State) (k : Nat) (f : Team → Team) : (s.modTeam k f).spares = s.spares := rfl
@[simp] theorem State.modTeam_fwfail (s : State) (k : Nat) (f : Team → Team) : (s.modTeam k f).fwfail = s.fwfail := rfl
@[simp] theorem State.modTeam_uncorr (s : State) (k : Nat) (f : Team → Team) : (s.modTeam k f).uncorr = s.uncorr := rfl
@[simp] theorem State.modTeam_replaceRequested (s : State) (k : Nat) (f : Team → Team) : (s.modTeam k f).replaceRequested = s.replaceRequested := rfl
@[simp] theorem State.modTeam_coreErrors (s : State) (k : Nat) (f : Team → Team) : (s.modTeam k f).coreErrors = s.coreErrors := rfl
@[simp] theorem State.modTeam_failing (s : State) (k : Nat) (f : Team → Team) : (s.modTeam k f).failing = s.failing := rfl
@[simp] theorem State.modTeam_badMem (s : State) (k : Nat) (f : Team → Team) : (s.modTeam k f).badMem = s.badMem := rfl
@[simp] theorem State.modTeam_hvec (s : State) (k : Nat) (f : Team → Team) : (s.modTeam k f).hvec = s.hvec := rfl
@[simp] theorem State.modTeam_firmware (s : State) (k : Nat) (f : Team → Team) : (s.modTeam k f).firmware = s.firmware := rfl
@[simp] theorem State.modTeam_nextFirmware (s : State) (k : Nat) (f : Team → Team) : (s.modTeam k f).nextFirmware = s.nextFirmware := rfl
@[simp] theorem State.modTeam_mailbox (s : State) (k : Nat) (f : Team → Team) : (s.modTeam k f).mailbox = s.mailbox := rfl
@[simp] theorem State.modTeam_debugger (s : State) (k : Nat) (f : Team → Team) : (s.modTeam k f).debugger = s.debugger := rfl
@[simp] theorem State.modTeam_windowReqs (s : State) (k : Nat) (f : Team → Team) : (s.modTeam k f).windowReqs = s.windowReqs := rfl
@[simp] theorem State.modTeam_hostOut (s : State) (k : Nat) (f : Team → Team) : (s.modTeam k f).hostOut = s.hostOut := rfl
@[simp] theorem State.modTeam_peerReqs (s : State) (k : Nat) (f : Team → Team) : (s.modTeam k f).peerReqs = s.peerReqs := rfl
@[simp] theorem State.modTeam_lastRefill (s : State) (k : Nat) (f : Team → Team) : (s.modTeam k f).lastRefill = s.lastRefill := rfl
@[simp] theorem State.modTeam_lastThermal (s : State) (k : Nat) (f : Team → Team) : (s.modTeam k f).lastThermal = s.lastThermal := rfl
@[simp] theorem State.modTeam_coolSince (s : State) (k : Nat) (f : Team → Team) : (s.modTeam k f).coolSince = s.coolSince := rfl
@[simp] theorem State.modTeam_agenda (s : State) (k : Nat) (f : Team → Team) : (s.modTeam k f).agenda = s.agenda := rfl
@[simp] theorem State.modTeam_free (s : State) (k : Nat) (f : Team → Team) : (s.modTeam k f).free = s.free := rfl
@[simp] theorem State.modTeam_nextGid (s : State) (k : Nat) (f : Team → Team) : (s.modTeam k f).nextGid = s.nextGid := rfl
@[simp] theorem State.modTeam_nextTeam (s : State) (k : Nat) (f : Team → Team) : (s.modTeam k f).nextTeam = s.nextTeam := rfl
@[simp] theorem State.modTeam_nextLaunch (s : State) (k : Nat) (f : Team → Team) : (s.modTeam k f).nextLaunch = s.nextLaunch := rfl
@[simp] theorem State.modTeam_nextOp (s : State) (k : Nat) (f : Team → Team) : (s.modTeam k f).nextOp = s.nextOp := rfl
@[simp] theorem State.modTeam_busError (s : State) (k : Nat) (f : Team → Team) : (s.modTeam k f).busError = s.busError := rfl

/-! `State.modLaunch` -/

@[simp] theorem State.modLaunch_grp (s : State) (k : Nat) (f : Launch → Launch) : (s.modLaunch k f).grp = s.grp := rfl
@[simp] theorem State.modLaunch_others (s : State) (k : Nat) (f : Launch → Launch) : (s.modLaunch k f).others = s.others := rfl
@[simp] theorem State.modLaunch_teams (s : State) (k : Nat) (f : Launch → Launch) : (s.modLaunch k f).teams = s.teams := rfl
@[simp] theorem State.modLaunch_launches (s : State) (k : Nat) (f : Launch → Launch) : (s.modLaunch k f).launches = s.launches.map fun x => if x.id = k then f x else x := rfl
@[simp] theorem State.modLaunch_quads (s : State) (k : Nat) (f : Launch → Launch) : (s.modLaunch k f).quads = s.quads := rfl
@[simp] theorem State.modLaunch_gauges (s : State) (k : Nat) (f : Launch → Launch) : (s.modLaunch k f).gauges = s.gauges := rfl
@[simp] theorem State.modLaunch_dieExtra (s : State) (k : Nat) (f : Launch → Launch) : (s.modLaunch k f).dieExtra = s.dieExtra := rfl
@[simp] theorem State.modLaunch_pkgExtra (s : State) (k : Nat) (f : Launch → Launch) : (s.modLaunch k f).pkgExtra = s.pkgExtra := rfl
@[simp] theorem State.modLaunch_slots (s : State) (k : Nat) (f : Launch → Launch) : (s.modLaunch k f).slots = s.slots := rfl
@[simp] theorem State.modLaunch_intervalStart (s : State) (k : Nat) (f : Launch → Launch) : (s.modLaunch k f).intervalStart = s.intervalStart := rfl
@[simp] theorem State.modLaunch_intervalGrowth (s : State) (k : Nat) (f : Launch → Launch) : (s.modLaunch k f).intervalGrowth = s.intervalGrowth := rfl
@[simp] theorem State.modLaunch_arrays (s : State) (k : Nat) (f : Launch → Launch) : (s.modLaunch k f).arrays = s.arrays := rfl
@[simp] theorem State.modLaunch_selFree (s : State) (k : Nat) (f : Launch → Launch) : (s.modLaunch k f).selFree = s.selFree := rfl
@[simp] theorem State.modLaunch_fullAt (s : State) (k : Nat) (f : Launch → Launch) : (s.modLaunch k f).fullAt = s.fullAt := rfl
@[simp] theorem State.modLaunch_pipeFree (s : State) (k : Nat) (f : Launch → Launch) : (s.modLaunch k f).pipeFree = s.pipeFree := rfl
@[simp] theorem State.modLaunch_pipeTaken (s : State) (k : Nat) (f : Launch → Launch) : (s.modLaunch k f).pipeTaken = s.pipeTaken := rfl
@[simp] theorem State.modLaunch_tieLost (s : State) (k : Nat) (f : Launch → Launch) : (s.modLaunch k f).tieLost = s.tieLost := rfl
@[simp] theorem State.modLaunch_tiles (s : State) (k : Nat) (f : Launch → Launch) : (s.modLaunch k f).tiles = s.tiles := rfl
@[simp] theorem State.modLaunch_gangOps (s : State) (k : Nat) (f : Launch → Launch) : (s.modLaunch k f).gangOps = s.gangOps := rfl
@[simp] theorem State.modLaunch_skeins (s : State) (k : Nat) (f : Launch → Launch) : (s.modLaunch k f).skeins = s.skeins := rfl
@[simp] theorem State.modLaunch_waiting (s : State) (k : Nat) (f : Launch → Launch) : (s.modLaunch k f).waiting = s.waiting := rfl
@[simp] theorem State.modLaunch_depRecords (s : State) (k : Nat) (f : Launch → Launch) : (s.modLaunch k f).depRecords = s.depRecords := rfl
@[simp] theorem State.modLaunch_replies (s : State) (k : Nat) (f : Launch → Launch) : (s.modLaunch k f).replies = s.replies := rfl
@[simp] theorem State.modLaunch_marks (s : State) (k : Nat) (f : Launch → Launch) : (s.modLaunch k f).marks = s.marks := rfl
@[simp] theorem State.modLaunch_ctxs (s : State) (k : Nat) (f : Launch → Launch) : (s.modLaunch k f).ctxs = s.ctxs := rfl
@[simp] theorem State.modLaunch_vds (s : State) (k : Nat) (f : Launch → Launch) : (s.modLaunch k f).vds = s.vds := rfl
@[simp] theorem State.modLaunch_queues (s : State) (k : Nat) (f : Launch → Launch) : (s.modLaunch k f).queues = s.queues := rfl
@[simp] theorem State.modLaunch_lastServed (s : State) (k : Nat) (f : Launch → Launch) : (s.modLaunch k f).lastServed = s.lastServed := rfl
@[simp] theorem State.modLaunch_mem (s : State) (k : Nat) (f : Launch → Launch) : (s.modLaunch k f).mem = s.mem := rfl
@[simp] theorem State.modLaunch_tlb (s : State) (k : Nat) (f : Launch → Launch) : (s.modLaunch k f).tlb = s.tlb := rfl
@[simp] theorem State.modLaunch_clock (s : State) (k : Nat) (f : Launch → Launch) : (s.modLaunch k f).clock = s.clock := rfl
@[simp] theorem State.modLaunch_pwrlim (s : State) (k : Nat) (f : Launch → Launch) : (s.modLaunch k f).pwrlim = s.pwrlim := rfl
@[simp] theorem State.modLaunch_heatlim (s : State) (k : Nat) (f : Launch → Launch) : (s.modLaunch k f).heatlim = s.heatlim := rfl
@[simp] theorem State.modLaunch_thermal (s : State) (k : Nat) (f : Launch → Launch) : (s.modLaunch k f).thermal = s.thermal := rfl
@[simp] theorem State.modLaunch_nirports (s : State) (k : Nat) (f : Launch → Launch) : (s.modLaunch k f).nirports = s.nirports := rfl
@[simp] theorem State.modLaunch_domid (s : State) (k : Nat) (f : Launch → Launch) : (s.modLaunch k f).domid = s.domid := rfl
@[simp] theorem State.modLaunch_devices (s : State) (k : Nat) (f : Launch → Launch) : (s.modLaunch k f).devices = s.devices := rfl
@[simp] theorem State.modLaunch_withdrawn (s : State) (k : Nat) (f : Launch → Launch) : (s.modLaunch k f).withdrawn = s.withdrawn := rfl
@[simp] theorem State.modLaunch_retiredCores (s : State) (k : Nat) (f : Launch → Launch) : (s.modLaunch k f).retiredCores = s.retiredCores := rfl
@[simp] theorem State.modLaunch_remap (s : State) (k : Nat) (f : Launch → Launch) : (s.modLaunch k f).remap = s.remap := rfl
@[simp] theorem State.modLaunch_ce (s : State) (k : Nat) (f : Launch → Launch) : (s.modLaunch k f).ce = s.ce := rfl
@[simp] theorem State.modLaunch_spares (s : State) (k : Nat) (f : Launch → Launch) : (s.modLaunch k f).spares = s.spares := rfl
@[simp] theorem State.modLaunch_fwfail (s : State) (k : Nat) (f : Launch → Launch) : (s.modLaunch k f).fwfail = s.fwfail := rfl
@[simp] theorem State.modLaunch_uncorr (s : State) (k : Nat) (f : Launch → Launch) : (s.modLaunch k f).uncorr = s.uncorr := rfl
@[simp] theorem State.modLaunch_replaceRequested (s : State) (k : Nat) (f : Launch → Launch) : (s.modLaunch k f).replaceRequested = s.replaceRequested := rfl
@[simp] theorem State.modLaunch_coreErrors (s : State) (k : Nat) (f : Launch → Launch) : (s.modLaunch k f).coreErrors = s.coreErrors := rfl
@[simp] theorem State.modLaunch_failing (s : State) (k : Nat) (f : Launch → Launch) : (s.modLaunch k f).failing = s.failing := rfl
@[simp] theorem State.modLaunch_badMem (s : State) (k : Nat) (f : Launch → Launch) : (s.modLaunch k f).badMem = s.badMem := rfl
@[simp] theorem State.modLaunch_hvec (s : State) (k : Nat) (f : Launch → Launch) : (s.modLaunch k f).hvec = s.hvec := rfl
@[simp] theorem State.modLaunch_firmware (s : State) (k : Nat) (f : Launch → Launch) : (s.modLaunch k f).firmware = s.firmware := rfl
@[simp] theorem State.modLaunch_nextFirmware (s : State) (k : Nat) (f : Launch → Launch) : (s.modLaunch k f).nextFirmware = s.nextFirmware := rfl
@[simp] theorem State.modLaunch_mailbox (s : State) (k : Nat) (f : Launch → Launch) : (s.modLaunch k f).mailbox = s.mailbox := rfl
@[simp] theorem State.modLaunch_debugger (s : State) (k : Nat) (f : Launch → Launch) : (s.modLaunch k f).debugger = s.debugger := rfl
@[simp] theorem State.modLaunch_windowReqs (s : State) (k : Nat) (f : Launch → Launch) : (s.modLaunch k f).windowReqs = s.windowReqs := rfl
@[simp] theorem State.modLaunch_hostOut (s : State) (k : Nat) (f : Launch → Launch) : (s.modLaunch k f).hostOut = s.hostOut := rfl
@[simp] theorem State.modLaunch_peerReqs (s : State) (k : Nat) (f : Launch → Launch) : (s.modLaunch k f).peerReqs = s.peerReqs := rfl
@[simp] theorem State.modLaunch_lastRefill (s : State) (k : Nat) (f : Launch → Launch) : (s.modLaunch k f).lastRefill = s.lastRefill := rfl
@[simp] theorem State.modLaunch_lastThermal (s : State) (k : Nat) (f : Launch → Launch) : (s.modLaunch k f).lastThermal = s.lastThermal := rfl
@[simp] theorem State.modLaunch_coolSince (s : State) (k : Nat) (f : Launch → Launch) : (s.modLaunch k f).coolSince = s.coolSince := rfl
@[simp] theorem State.modLaunch_agenda (s : State) (k : Nat) (f : Launch → Launch) : (s.modLaunch k f).agenda = s.agenda := rfl
@[simp] theorem State.modLaunch_free (s : State) (k : Nat) (f : Launch → Launch) : (s.modLaunch k f).free = s.free := rfl
@[simp] theorem State.modLaunch_nextGid (s : State) (k : Nat) (f : Launch → Launch) : (s.modLaunch k f).nextGid = s.nextGid := rfl
@[simp] theorem State.modLaunch_nextTeam (s : State) (k : Nat) (f : Launch → Launch) : (s.modLaunch k f).nextTeam = s.nextTeam := rfl
@[simp] theorem State.modLaunch_nextLaunch (s : State) (k : Nat) (f : Launch → Launch) : (s.modLaunch k f).nextLaunch = s.nextLaunch := rfl
@[simp] theorem State.modLaunch_nextOp (s : State) (k : Nat) (f : Launch → Launch) : (s.modLaunch k f).nextOp = s.nextOp := rfl
@[simp] theorem State.modLaunch_busError (s : State) (k : Nat) (f : Launch → Launch) : (s.modLaunch k f).busError = s.busError := rfl

/-! `State.modVd` -/

@[simp] theorem State.modVd_grp (s : State) (k : Nat) (f : VDev → VDev) : (s.modVd k f).grp = s.grp := rfl
@[simp] theorem State.modVd_others (s : State) (k : Nat) (f : VDev → VDev) : (s.modVd k f).others = s.others := rfl
@[simp] theorem State.modVd_teams (s : State) (k : Nat) (f : VDev → VDev) : (s.modVd k f).teams = s.teams := rfl
@[simp] theorem State.modVd_launches (s : State) (k : Nat) (f : VDev → VDev) : (s.modVd k f).launches = s.launches := rfl
@[simp] theorem State.modVd_quads (s : State) (k : Nat) (f : VDev → VDev) : (s.modVd k f).quads = s.quads := rfl
@[simp] theorem State.modVd_gauges (s : State) (k : Nat) (f : VDev → VDev) : (s.modVd k f).gauges = s.gauges := rfl
@[simp] theorem State.modVd_dieExtra (s : State) (k : Nat) (f : VDev → VDev) : (s.modVd k f).dieExtra = s.dieExtra := rfl
@[simp] theorem State.modVd_pkgExtra (s : State) (k : Nat) (f : VDev → VDev) : (s.modVd k f).pkgExtra = s.pkgExtra := rfl
@[simp] theorem State.modVd_slots (s : State) (k : Nat) (f : VDev → VDev) : (s.modVd k f).slots = s.slots := rfl
@[simp] theorem State.modVd_intervalStart (s : State) (k : Nat) (f : VDev → VDev) : (s.modVd k f).intervalStart = s.intervalStart := rfl
@[simp] theorem State.modVd_intervalGrowth (s : State) (k : Nat) (f : VDev → VDev) : (s.modVd k f).intervalGrowth = s.intervalGrowth := rfl
@[simp] theorem State.modVd_arrays (s : State) (k : Nat) (f : VDev → VDev) : (s.modVd k f).arrays = s.arrays := rfl
@[simp] theorem State.modVd_selFree (s : State) (k : Nat) (f : VDev → VDev) : (s.modVd k f).selFree = s.selFree := rfl
@[simp] theorem State.modVd_fullAt (s : State) (k : Nat) (f : VDev → VDev) : (s.modVd k f).fullAt = s.fullAt := rfl
@[simp] theorem State.modVd_pipeFree (s : State) (k : Nat) (f : VDev → VDev) : (s.modVd k f).pipeFree = s.pipeFree := rfl
@[simp] theorem State.modVd_pipeTaken (s : State) (k : Nat) (f : VDev → VDev) : (s.modVd k f).pipeTaken = s.pipeTaken := rfl
@[simp] theorem State.modVd_tieLost (s : State) (k : Nat) (f : VDev → VDev) : (s.modVd k f).tieLost = s.tieLost := rfl
@[simp] theorem State.modVd_tiles (s : State) (k : Nat) (f : VDev → VDev) : (s.modVd k f).tiles = s.tiles := rfl
@[simp] theorem State.modVd_gangOps (s : State) (k : Nat) (f : VDev → VDev) : (s.modVd k f).gangOps = s.gangOps := rfl
@[simp] theorem State.modVd_skeins (s : State) (k : Nat) (f : VDev → VDev) : (s.modVd k f).skeins = s.skeins := rfl
@[simp] theorem State.modVd_waiting (s : State) (k : Nat) (f : VDev → VDev) : (s.modVd k f).waiting = s.waiting := rfl
@[simp] theorem State.modVd_depRecords (s : State) (k : Nat) (f : VDev → VDev) : (s.modVd k f).depRecords = s.depRecords := rfl
@[simp] theorem State.modVd_replies (s : State) (k : Nat) (f : VDev → VDev) : (s.modVd k f).replies = s.replies := rfl
@[simp] theorem State.modVd_marks (s : State) (k : Nat) (f : VDev → VDev) : (s.modVd k f).marks = s.marks := rfl
@[simp] theorem State.modVd_ctxs (s : State) (k : Nat) (f : VDev → VDev) : (s.modVd k f).ctxs = s.ctxs := rfl
@[simp] theorem State.modVd_vds (s : State) (k : Nat) (f : VDev → VDev) : (s.modVd k f).vds = nset {} s.vds k (f (s.vd k)) := rfl
@[simp] theorem State.modVd_queues (s : State) (k : Nat) (f : VDev → VDev) : (s.modVd k f).queues = s.queues := rfl
@[simp] theorem State.modVd_lastServed (s : State) (k : Nat) (f : VDev → VDev) : (s.modVd k f).lastServed = s.lastServed := rfl
@[simp] theorem State.modVd_mem (s : State) (k : Nat) (f : VDev → VDev) : (s.modVd k f).mem = s.mem := rfl
@[simp] theorem State.modVd_tlb (s : State) (k : Nat) (f : VDev → VDev) : (s.modVd k f).tlb = s.tlb := rfl
@[simp] theorem State.modVd_clock (s : State) (k : Nat) (f : VDev → VDev) : (s.modVd k f).clock = s.clock := rfl
@[simp] theorem State.modVd_pwrlim (s : State) (k : Nat) (f : VDev → VDev) : (s.modVd k f).pwrlim = s.pwrlim := rfl
@[simp] theorem State.modVd_heatlim (s : State) (k : Nat) (f : VDev → VDev) : (s.modVd k f).heatlim = s.heatlim := rfl
@[simp] theorem State.modVd_thermal (s : State) (k : Nat) (f : VDev → VDev) : (s.modVd k f).thermal = s.thermal := rfl
@[simp] theorem State.modVd_nirports (s : State) (k : Nat) (f : VDev → VDev) : (s.modVd k f).nirports = s.nirports := rfl
@[simp] theorem State.modVd_domid (s : State) (k : Nat) (f : VDev → VDev) : (s.modVd k f).domid = s.domid := rfl
@[simp] theorem State.modVd_devices (s : State) (k : Nat) (f : VDev → VDev) : (s.modVd k f).devices = s.devices := rfl
@[simp] theorem State.modVd_withdrawn (s : State) (k : Nat) (f : VDev → VDev) : (s.modVd k f).withdrawn = s.withdrawn := rfl
@[simp] theorem State.modVd_retiredCores (s : State) (k : Nat) (f : VDev → VDev) : (s.modVd k f).retiredCores = s.retiredCores := rfl
@[simp] theorem State.modVd_remap (s : State) (k : Nat) (f : VDev → VDev) : (s.modVd k f).remap = s.remap := rfl
@[simp] theorem State.modVd_ce (s : State) (k : Nat) (f : VDev → VDev) : (s.modVd k f).ce = s.ce := rfl
@[simp] theorem State.modVd_spares (s : State) (k : Nat) (f : VDev → VDev) : (s.modVd k f).spares = s.spares := rfl
@[simp] theorem State.modVd_fwfail (s : State) (k : Nat) (f : VDev → VDev) : (s.modVd k f).fwfail = s.fwfail := rfl
@[simp] theorem State.modVd_uncorr (s : State) (k : Nat) (f : VDev → VDev) : (s.modVd k f).uncorr = s.uncorr := rfl
@[simp] theorem State.modVd_replaceRequested (s : State) (k : Nat) (f : VDev → VDev) : (s.modVd k f).replaceRequested = s.replaceRequested := rfl
@[simp] theorem State.modVd_coreErrors (s : State) (k : Nat) (f : VDev → VDev) : (s.modVd k f).coreErrors = s.coreErrors := rfl
@[simp] theorem State.modVd_failing (s : State) (k : Nat) (f : VDev → VDev) : (s.modVd k f).failing = s.failing := rfl
@[simp] theorem State.modVd_badMem (s : State) (k : Nat) (f : VDev → VDev) : (s.modVd k f).badMem = s.badMem := rfl
@[simp] theorem State.modVd_hvec (s : State) (k : Nat) (f : VDev → VDev) : (s.modVd k f).hvec = s.hvec := rfl
@[simp] theorem State.modVd_firmware (s : State) (k : Nat) (f : VDev → VDev) : (s.modVd k f).firmware = s.firmware := rfl
@[simp] theorem State.modVd_nextFirmware (s : State) (k : Nat) (f : VDev → VDev) : (s.modVd k f).nextFirmware = s.nextFirmware := rfl
@[simp] theorem State.modVd_mailbox (s : State) (k : Nat) (f : VDev → VDev) : (s.modVd k f).mailbox = s.mailbox := rfl
@[simp] theorem State.modVd_debugger (s : State) (k : Nat) (f : VDev → VDev) : (s.modVd k f).debugger = s.debugger := rfl
@[simp] theorem State.modVd_windowReqs (s : State) (k : Nat) (f : VDev → VDev) : (s.modVd k f).windowReqs = s.windowReqs := rfl
@[simp] theorem State.modVd_hostOut (s : State) (k : Nat) (f : VDev → VDev) : (s.modVd k f).hostOut = s.hostOut := rfl
@[simp] theorem State.modVd_peerReqs (s : State) (k : Nat) (f : VDev → VDev) : (s.modVd k f).peerReqs = s.peerReqs := rfl
@[simp] theorem State.modVd_lastRefill (s : State) (k : Nat) (f : VDev → VDev) : (s.modVd k f).lastRefill = s.lastRefill := rfl
@[simp] theorem State.modVd_lastThermal (s : State) (k : Nat) (f : VDev → VDev) : (s.modVd k f).lastThermal = s.lastThermal := rfl
@[simp] theorem State.modVd_coolSince (s : State) (k : Nat) (f : VDev → VDev) : (s.modVd k f).coolSince = s.coolSince := rfl
@[simp] theorem State.modVd_agenda (s : State) (k : Nat) (f : VDev → VDev) : (s.modVd k f).agenda = s.agenda := rfl
@[simp] theorem State.modVd_free (s : State) (k : Nat) (f : VDev → VDev) : (s.modVd k f).free = s.free := rfl
@[simp] theorem State.modVd_nextGid (s : State) (k : Nat) (f : VDev → VDev) : (s.modVd k f).nextGid = s.nextGid := rfl
@[simp] theorem State.modVd_nextTeam (s : State) (k : Nat) (f : VDev → VDev) : (s.modVd k f).nextTeam = s.nextTeam := rfl
@[simp] theorem State.modVd_nextLaunch (s : State) (k : Nat) (f : VDev → VDev) : (s.modVd k f).nextLaunch = s.nextLaunch := rfl
@[simp] theorem State.modVd_nextOp (s : State) (k : Nat) (f : VDev → VDev) : (s.modVd k f).nextOp = s.nextOp := rfl
@[simp] theorem State.modVd_busError (s : State) (k : Nat) (f : VDev → VDev) : (s.modVd k f).busError = s.busError := rfl

/-! `State.modSkein` -/

@[simp] theorem State.modSkein_grp (s : State) (k : Nat) (f : Skein → Skein) : (s.modSkein k f).grp = s.grp := rfl
@[simp] theorem State.modSkein_others (s : State) (k : Nat) (f : Skein → Skein) : (s.modSkein k f).others = s.others := rfl
@[simp] theorem State.modSkein_teams (s : State) (k : Nat) (f : Skein → Skein) : (s.modSkein k f).teams = s.teams := rfl
@[simp] theorem State.modSkein_launches (s : State) (k : Nat) (f : Skein → Skein) : (s.modSkein k f).launches = s.launches := rfl
@[simp] theorem State.modSkein_quads (s : State) (k : Nat) (f : Skein → Skein) : (s.modSkein k f).quads = s.quads := rfl
@[simp] theorem State.modSkein_gauges (s : State) (k : Nat) (f : Skein → Skein) : (s.modSkein k f).gauges = s.gauges := rfl
@[simp] theorem State.modSkein_dieExtra (s : State) (k : Nat) (f : Skein → Skein) : (s.modSkein k f).dieExtra = s.dieExtra := rfl
@[simp] theorem State.modSkein_pkgExtra (s : State) (k : Nat) (f : Skein → Skein) : (s.modSkein k f).pkgExtra = s.pkgExtra := rfl
@[simp] theorem State.modSkein_slots (s : State) (k : Nat) (f : Skein → Skein) : (s.modSkein k f).slots = s.slots := rfl
@[simp] theorem State.modSkein_intervalStart (s : State) (k : Nat) (f : Skein → Skein) : (s.modSkein k f).intervalStart = s.intervalStart := rfl
@[simp] theorem State.modSkein_intervalGrowth (s : State) (k : Nat) (f : Skein → Skein) : (s.modSkein k f).intervalGrowth = s.intervalGrowth := rfl
@[simp] theorem State.modSkein_arrays (s : State) (k : Nat) (f : Skein → Skein) : (s.modSkein k f).arrays = s.arrays := rfl
@[simp] theorem State.modSkein_selFree (s : State) (k : Nat) (f : Skein → Skein) : (s.modSkein k f).selFree = s.selFree := rfl
@[simp] theorem State.modSkein_fullAt (s : State) (k : Nat) (f : Skein → Skein) : (s.modSkein k f).fullAt = s.fullAt := rfl
@[simp] theorem State.modSkein_pipeFree (s : State) (k : Nat) (f : Skein → Skein) : (s.modSkein k f).pipeFree = s.pipeFree := rfl
@[simp] theorem State.modSkein_pipeTaken (s : State) (k : Nat) (f : Skein → Skein) : (s.modSkein k f).pipeTaken = s.pipeTaken := rfl
@[simp] theorem State.modSkein_tieLost (s : State) (k : Nat) (f : Skein → Skein) : (s.modSkein k f).tieLost = s.tieLost := rfl
@[simp] theorem State.modSkein_tiles (s : State) (k : Nat) (f : Skein → Skein) : (s.modSkein k f).tiles = s.tiles := rfl
@[simp] theorem State.modSkein_gangOps (s : State) (k : Nat) (f : Skein → Skein) : (s.modSkein k f).gangOps = s.gangOps := rfl
@[simp] theorem State.modSkein_skeins (s : State) (k : Nat) (f : Skein → Skein) : (s.modSkein k f).skeins = nset {} s.skeins k (f (s.skein k)) := rfl
@[simp] theorem State.modSkein_waiting (s : State) (k : Nat) (f : Skein → Skein) : (s.modSkein k f).waiting = s.waiting := rfl
@[simp] theorem State.modSkein_depRecords (s : State) (k : Nat) (f : Skein → Skein) : (s.modSkein k f).depRecords = s.depRecords := rfl
@[simp] theorem State.modSkein_replies (s : State) (k : Nat) (f : Skein → Skein) : (s.modSkein k f).replies = s.replies := rfl
@[simp] theorem State.modSkein_marks (s : State) (k : Nat) (f : Skein → Skein) : (s.modSkein k f).marks = s.marks := rfl
@[simp] theorem State.modSkein_ctxs (s : State) (k : Nat) (f : Skein → Skein) : (s.modSkein k f).ctxs = s.ctxs := rfl
@[simp] theorem State.modSkein_vds (s : State) (k : Nat) (f : Skein → Skein) : (s.modSkein k f).vds = s.vds := rfl
@[simp] theorem State.modSkein_queues (s : State) (k : Nat) (f : Skein → Skein) : (s.modSkein k f).queues = s.queues := rfl
@[simp] theorem State.modSkein_lastServed (s : State) (k : Nat) (f : Skein → Skein) : (s.modSkein k f).lastServed = s.lastServed := rfl
@[simp] theorem State.modSkein_mem (s : State) (k : Nat) (f : Skein → Skein) : (s.modSkein k f).mem = s.mem := rfl
@[simp] theorem State.modSkein_tlb (s : State) (k : Nat) (f : Skein → Skein) : (s.modSkein k f).tlb = s.tlb := rfl
@[simp] theorem State.modSkein_clock (s : State) (k : Nat) (f : Skein → Skein) : (s.modSkein k f).clock = s.clock := rfl
@[simp] theorem State.modSkein_pwrlim (s : State) (k : Nat) (f : Skein → Skein) : (s.modSkein k f).pwrlim = s.pwrlim := rfl
@[simp] theorem State.modSkein_heatlim (s : State) (k : Nat) (f : Skein → Skein) : (s.modSkein k f).heatlim = s.heatlim := rfl
@[simp] theorem State.modSkein_thermal (s : State) (k : Nat) (f : Skein → Skein) : (s.modSkein k f).thermal = s.thermal := rfl
@[simp] theorem State.modSkein_nirports (s : State) (k : Nat) (f : Skein → Skein) : (s.modSkein k f).nirports = s.nirports := rfl
@[simp] theorem State.modSkein_domid (s : State) (k : Nat) (f : Skein → Skein) : (s.modSkein k f).domid = s.domid := rfl
@[simp] theorem State.modSkein_devices (s : State) (k : Nat) (f : Skein → Skein) : (s.modSkein k f).devices = s.devices := rfl
@[simp] theorem State.modSkein_withdrawn (s : State) (k : Nat) (f : Skein → Skein) : (s.modSkein k f).withdrawn = s.withdrawn := rfl
@[simp] theorem State.modSkein_retiredCores (s : State) (k : Nat) (f : Skein → Skein) : (s.modSkein k f).retiredCores = s.retiredCores := rfl
@[simp] theorem State.modSkein_remap (s : State) (k : Nat) (f : Skein → Skein) : (s.modSkein k f).remap = s.remap := rfl
@[simp] theorem State.modSkein_ce (s : State) (k : Nat) (f : Skein → Skein) : (s.modSkein k f).ce = s.ce := rfl
@[simp] theorem State.modSkein_spares (s : State) (k : Nat) (f : Skein → Skein) : (s.modSkein k f).spares = s.spares := rfl
@[simp] theorem State.modSkein_fwfail (s : State) (k : Nat) (f : Skein → Skein) : (s.modSkein k f).fwfail = s.fwfail := rfl
@[simp] theorem State.modSkein_uncorr (s : State) (k : Nat) (f : Skein → Skein) : (s.modSkein k f).uncorr = s.uncorr := rfl
@[simp] theorem State.modSkein_replaceRequested (s : State) (k : Nat) (f : Skein → Skein) : (s.modSkein k f).replaceRequested = s.replaceRequested := rfl
@[simp] theorem State.modSkein_coreErrors (s : State) (k : Nat) (f : Skein → Skein) : (s.modSkein k f).coreErrors = s.coreErrors := rfl
@[simp] theorem State.modSkein_failing (s : State) (k : Nat) (f : Skein → Skein) : (s.modSkein k f).failing = s.failing := rfl
@[simp] theorem State.modSkein_badMem (s : State) (k : Nat) (f : Skein → Skein) : (s.modSkein k f).badMem = s.badMem := rfl
@[simp] theorem State.modSkein_hvec (s : State) (k : Nat) (f : Skein → Skein) : (s.modSkein k f).hvec = s.hvec := rfl
@[simp] theorem State.modSkein_firmware (s : State) (k : Nat) (f : Skein → Skein) : (s.modSkein k f).firmware = s.firmware := rfl
@[simp] theorem State.modSkein_nextFirmware (s : State) (k : Nat) (f : Skein → Skein) : (s.modSkein k f).nextFirmware = s.nextFirmware := rfl
@[simp] theorem State.modSkein_mailbox (s : State) (k : Nat) (f : Skein → Skein) : (s.modSkein k f).mailbox = s.mailbox := rfl
@[simp] theorem State.modSkein_debugger (s : State) (k : Nat) (f : Skein → Skein) : (s.modSkein k f).debugger = s.debugger := rfl
@[simp] theorem State.modSkein_windowReqs (s : State) (k : Nat) (f : Skein → Skein) : (s.modSkein k f).windowReqs = s.windowReqs := rfl
@[simp] theorem State.modSkein_hostOut (s : State) (k : Nat) (f : Skein → Skein) : (s.modSkein k f).hostOut = s.hostOut := rfl
@[simp] theorem State.modSkein_peerReqs (s : State) (k : Nat) (f : Skein → Skein) : (s.modSkein k f).peerReqs = s.peerReqs := rfl
@[simp] theorem State.modSkein_lastRefill (s : State) (k : Nat) (f : Skein → Skein) : (s.modSkein k f).lastRefill = s.lastRefill := rfl
@[simp] theorem State.modSkein_lastThermal (s : State) (k : Nat) (f : Skein → Skein) : (s.modSkein k f).lastThermal = s.lastThermal := rfl
@[simp] theorem State.modSkein_coolSince (s : State) (k : Nat) (f : Skein → Skein) : (s.modSkein k f).coolSince = s.coolSince := rfl
@[simp] theorem State.modSkein_agenda (s : State) (k : Nat) (f : Skein → Skein) : (s.modSkein k f).agenda = s.agenda := rfl
@[simp] theorem State.modSkein_free (s : State) (k : Nat) (f : Skein → Skein) : (s.modSkein k f).free = s.free := rfl
@[simp] theorem State.modSkein_nextGid (s : State) (k : Nat) (f : Skein → Skein) : (s.modSkein k f).nextGid = s.nextGid := rfl
@[simp] theorem State.modSkein_nextTeam (s : State) (k : Nat) (f : Skein → Skein) : (s.modSkein k f).nextTeam = s.nextTeam := rfl
@[simp] theorem State.modSkein_nextLaunch (s : State) (k : Nat) (f : Skein → Skein) : (s.modSkein k f).nextLaunch = s.nextLaunch := rfl
@[simp] theorem State.modSkein_nextOp (s : State) (k : Nat) (f : Skein → Skein) : (s.modSkein k f).nextOp = s.nextOp := rfl
@[simp] theorem State.modSkein_busError (s : State) (k : Nat) (f : Skein → Skein) : (s.modSkein k f).busError = s.busError := rfl

/-! `State.bumpFree` -/

@[simp] theorem State.bumpFree_grp (s : State) (n : Nat) : (s.bumpFree n).grp = s.grp := rfl
@[simp] theorem State.bumpFree_others (s : State) (n : Nat) : (s.bumpFree n).others = s.others := rfl
@[simp] theorem State.bumpFree_teams (s : State) (n : Nat) : (s.bumpFree n).teams = s.teams := rfl
@[simp] theorem State.bumpFree_launches (s : State) (n : Nat) : (s.bumpFree n).launches = s.launches := rfl
@[simp] theorem State.bumpFree_quads (s : State) (n : Nat) : (s.bumpFree n).quads = s.quads := rfl
@[simp] theorem State.bumpFree_gauges (s : State) (n : Nat) : (s.bumpFree n).gauges = s.gauges := rfl
@[simp] theorem State.bumpFree_dieExtra (s : State) (n : Nat) : (s.bumpFree n).dieExtra = s.dieExtra := rfl
@[simp] theorem State.bumpFree_pkgExtra (s : State) (n : Nat) : (s.bumpFree n).pkgExtra = s.pkgExtra := rfl
@[simp] theorem State.bumpFree_slots (s : State) (n : Nat) : (s.bumpFree n).slots = s.slots := rfl
@[simp] theorem State.bumpFree_intervalStart (s : State) (n : Nat) : (s.bumpFree n).intervalStart = s.intervalStart := rfl
@[simp] theorem State.bumpFree_intervalGrowth (s : State) (n : Nat) : (s.bumpFree n).intervalGrowth = s.intervalGrowth := rfl
@[simp] theorem State.bumpFree_arrays (s : State) (n : Nat) : (s.bumpFree n).arrays = s.arrays := rfl
@[simp] theorem State.bumpFree_selFree (s : State) (n : Nat) : (s.bumpFree n).selFree = s.selFree := rfl
@[simp] theorem State.bumpFree_fullAt (s : State) (n : Nat) : (s.bumpFree n).fullAt = s.fullAt := rfl
@[simp] theorem State.bumpFree_pipeFree (s : State) (n : Nat) : (s.bumpFree n).pipeFree = s.pipeFree := rfl
@[simp] theorem State.bumpFree_pipeTaken (s : State) (n : Nat) : (s.bumpFree n).pipeTaken = s.pipeTaken := rfl
@[simp] theorem State.bumpFree_tieLost (s : State) (n : Nat) : (s.bumpFree n).tieLost = s.tieLost := rfl
@[simp] theorem State.bumpFree_tiles (s : State) (n : Nat) : (s.bumpFree n).tiles = s.tiles := rfl
@[simp] theorem State.bumpFree_gangOps (s : State) (n : Nat) : (s.bumpFree n).gangOps = s.gangOps := rfl
@[simp] theorem State.bumpFree_skeins (s : State) (n : Nat) : (s.bumpFree n).skeins = s.skeins := rfl
@[simp] theorem State.bumpFree_waiting (s : State) (n : Nat) : (s.bumpFree n).waiting = s.waiting := rfl
@[simp] theorem State.bumpFree_depRecords (s : State) (n : Nat) : (s.bumpFree n).depRecords = s.depRecords := rfl
@[simp] theorem State.bumpFree_replies (s : State) (n : Nat) : (s.bumpFree n).replies = s.replies := rfl
@[simp] theorem State.bumpFree_marks (s : State) (n : Nat) : (s.bumpFree n).marks = s.marks := rfl
@[simp] theorem State.bumpFree_ctxs (s : State) (n : Nat) : (s.bumpFree n).ctxs = s.ctxs := rfl
@[simp] theorem State.bumpFree_vds (s : State) (n : Nat) : (s.bumpFree n).vds = s.vds := rfl
@[simp] theorem State.bumpFree_queues (s : State) (n : Nat) : (s.bumpFree n).queues = s.queues := rfl
@[simp] theorem State.bumpFree_lastServed (s : State) (n : Nat) : (s.bumpFree n).lastServed = s.lastServed := rfl
@[simp] theorem State.bumpFree_mem (s : State) (n : Nat) : (s.bumpFree n).mem = s.mem := rfl
@[simp] theorem State.bumpFree_tlb (s : State) (n : Nat) : (s.bumpFree n).tlb = s.tlb := rfl
@[simp] theorem State.bumpFree_clock (s : State) (n : Nat) : (s.bumpFree n).clock = s.clock := rfl
@[simp] theorem State.bumpFree_pwrlim (s : State) (n : Nat) : (s.bumpFree n).pwrlim = s.pwrlim := rfl
@[simp] theorem State.bumpFree_heatlim (s : State) (n : Nat) : (s.bumpFree n).heatlim = s.heatlim := rfl
@[simp] theorem State.bumpFree_thermal (s : State) (n : Nat) : (s.bumpFree n).thermal = s.thermal := rfl
@[simp] theorem State.bumpFree_nirports (s : State) (n : Nat) : (s.bumpFree n).nirports = s.nirports := rfl
@[simp] theorem State.bumpFree_domid (s : State) (n : Nat) : (s.bumpFree n).domid = s.domid := rfl
@[simp] theorem State.bumpFree_devices (s : State) (n : Nat) : (s.bumpFree n).devices = s.devices := rfl
@[simp] theorem State.bumpFree_withdrawn (s : State) (n : Nat) : (s.bumpFree n).withdrawn = s.withdrawn := rfl
@[simp] theorem State.bumpFree_retiredCores (s : State) (n : Nat) : (s.bumpFree n).retiredCores = s.retiredCores := rfl
@[simp] theorem State.bumpFree_remap (s : State) (n : Nat) : (s.bumpFree n).remap = s.remap := rfl
@[simp] theorem State.bumpFree_ce (s : State) (n : Nat) : (s.bumpFree n).ce = s.ce := rfl
@[simp] theorem State.bumpFree_spares (s : State) (n : Nat) : (s.bumpFree n).spares = s.spares := rfl
@[simp] theorem State.bumpFree_fwfail (s : State) (n : Nat) : (s.bumpFree n).fwfail = s.fwfail := rfl
@[simp] theorem State.bumpFree_uncorr (s : State) (n : Nat) : (s.bumpFree n).uncorr = s.uncorr := rfl
@[simp] theorem State.bumpFree_replaceRequested (s : State) (n : Nat) : (s.bumpFree n).replaceRequested = s.replaceRequested := rfl
@[simp] theorem State.bumpFree_coreErrors (s : State) (n : Nat) : (s.bumpFree n).coreErrors = s.coreErrors := rfl
@[simp] theorem State.bumpFree_failing (s : State) (n : Nat) : (s.bumpFree n).failing = s.failing := rfl
@[simp] theorem State.bumpFree_badMem (s : State) (n : Nat) : (s.bumpFree n).badMem = s.badMem := rfl
@[simp] theorem State.bumpFree_hvec (s : State) (n : Nat) : (s.bumpFree n).hvec = s.hvec := rfl
@[simp] theorem State.bumpFree_firmware (s : State) (n : Nat) : (s.bumpFree n).firmware = s.firmware := rfl
@[simp] theorem State.bumpFree_nextFirmware (s : State) (n : Nat) : (s.bumpFree n).nextFirmware = s.nextFirmware := rfl
@[simp] theorem State.bumpFree_mailbox (s : State) (n : Nat) : (s.bumpFree n).mailbox = s.mailbox := rfl
@[simp] theorem State.bumpFree_debugger (s : State) (n : Nat) : (s.bumpFree n).debugger = s.debugger := rfl
@[simp] theorem State.bumpFree_windowReqs (s : State) (n : Nat) : (s.bumpFree n).windowReqs = s.windowReqs := rfl
@[simp] theorem State.bumpFree_hostOut (s : State) (n : Nat) : (s.bumpFree n).hostOut = s.hostOut := rfl
@[simp] theorem State.bumpFree_peerReqs (s : State) (n : Nat) : (s.bumpFree n).peerReqs = s.peerReqs := rfl
@[simp] theorem State.bumpFree_lastRefill (s : State) (n : Nat) : (s.bumpFree n).lastRefill = s.lastRefill := rfl
@[simp] theorem State.bumpFree_lastThermal (s : State) (n : Nat) : (s.bumpFree n).lastThermal = s.lastThermal := rfl
@[simp] theorem State.bumpFree_coolSince (s : State) (n : Nat) : (s.bumpFree n).coolSince = s.coolSince := rfl
@[simp] theorem State.bumpFree_agenda (s : State) (n : Nat) : (s.bumpFree n).agenda = s.agenda := rfl
@[simp] theorem State.bumpFree_free (s : State) (n : Nat) : (s.bumpFree n).free = s.free + n := rfl
@[simp] theorem State.bumpFree_nextGid (s : State) (n : Nat) : (s.bumpFree n).nextGid = s.nextGid := rfl
@[simp] theorem State.bumpFree_nextTeam (s : State) (n : Nat) : (s.bumpFree n).nextTeam = s.nextTeam := rfl
@[simp] theorem State.bumpFree_nextLaunch (s : State) (n : Nat) : (s.bumpFree n).nextLaunch = s.nextLaunch := rfl
@[simp] theorem State.bumpFree_nextOp (s : State) (n : Nat) : (s.bumpFree n).nextOp = s.nextOp := rfl
@[simp] theorem State.bumpFree_busError (s : State) (n : Nat) : (s.bumpFree n).busError = s.busError := rfl

/-! `State.modGroup`, `State.modGroups` and `State.focus` -/

@[simp] theorem State.modGroup_teams (s : State) (k : Nat) (f : Group → Group) : (s.modGroup k f).teams = s.teams := by
  unfold State.modGroup; split <;> rfl
@[simp] theorem State.modGroups_teams (s : State) (p : Group → Bool) (f : Group → Group) : (s.modGroups p f).teams = s.teams := rfl
@[simp] theorem State.focus_teams (s : State) (k : Nat) : (s.focus k).teams = s.teams := by
  unfold State.focus; split; rfl; split <;> rfl
@[simp] theorem State.modGroup_launches (s : State) (k : Nat) (f : Group → Group) : (s.modGroup k f).launches = s.launches := by
  unfold State.modGroup; split <;> rfl
@[simp] theorem State.modGroups_launches (s : State) (p : Group → Bool) (f : Group → Group) : (s.modGroups p f).launches = s.launches := rfl
@[simp] theorem State.focus_launches (s : State) (k : Nat) : (s.focus k).launches = s.launches := by
  unfold State.focus; split; rfl; split <;> rfl
@[simp] theorem State.modGroup_quads (s : State) (k : Nat) (f : Group → Group) : (s.modGroup k f).quads = s.quads := by
  unfold State.modGroup; split <;> rfl
@[simp] theorem State.modGroups_quads (s : State) (p : Group → Bool) (f : Group → Group) : (s.modGroups p f).quads = s.quads := rfl
@[simp] theorem State.focus_quads (s : State) (k : Nat) : (s.focus k).quads = s.quads := by
  unfold State.focus; split; rfl; split <;> rfl
@[simp] theorem State.modGroup_gauges (s : State) (k : Nat) (f : Group → Group) : (s.modGroup k f).gauges = s.gauges := by
  unfold State.modGroup; split <;> rfl
@[simp] theorem State.modGroups_gauges (s : State) (p : Group → Bool) (f : Group → Group) : (s.modGroups p f).gauges = s.gauges := rfl
@[simp] theorem State.focus_gauges (s : State) (k : Nat) : (s.focus k).gauges = s.gauges := by
  unfold State.focus; split; rfl; split <;> rfl
@[simp] theorem State.modGroup_dieExtra (s : State) (k : Nat) (f : Group → Group) : (s.modGroup k f).dieExtra = s.dieExtra := by
  unfold State.modGroup; split <;> rfl
@[simp] theorem State.modGroups_dieExtra (s : State) (p : Group → Bool) (f : Group → Group) : (s.modGroups p f).dieExtra = s.dieExtra := rfl
@[simp] theorem State.focus_dieExtra (s : State) (k : Nat) : (s.focus k).dieExtra = s.dieExtra := by
  unfold State.focus; split; rfl; split <;> rfl
@[simp] theorem State.modGroup_pkgExtra (s : State) (k : Nat) (f : Group → Group) : (s.modGroup k f).pkgExtra = s.pkgExtra := by
  unfold State.modGroup; split <;> rfl
@[simp] theorem State.modGroups_pkgExtra (s : State) (p : Group → Bool) (f : Group → Group) : (s.modGroups p f).pkgExtra = s.pkgExtra := rfl
@[simp] theorem State.focus_pkgExtra (s : State) (k : Nat) : (s.focus k).pkgExtra = s.pkgExtra := by
  unfold State.focus; split; rfl; split <;> rfl
@[simp] theorem State.modGroup_slots (s : State) (k : Nat) (f : Group → Group) : (s.modGroup k f).slots = s.slots := by
  unfold State.modGroup; split <;> rfl
@[simp] theorem State.modGroups_slots (s : State) (p : Group → Bool) (f : Group → Group) : (s.modGroups p f).slots = s.slots := rfl
@[simp] theorem State.focus_slots (s : State) (k : Nat) : (s.focus k).slots = s.slots := by
  unfold State.focus; split; rfl; split <;> rfl
@[simp] theorem State.modGroup_intervalStart (s : State) (k : Nat) (f : Group → Group) : (s.modGroup k f).intervalStart = s.intervalStart := by
  unfold State.modGroup; split <;> rfl
@[simp] theorem State.modGroups_intervalStart (s : State) (p : Group → Bool) (f : Group → Group) : (s.modGroups p f).intervalStart = s.intervalStart := rfl
@[simp] theorem State.focus_intervalStart (s : State) (k : Nat) : (s.focus k).intervalStart = s.intervalStart := by
  unfold State.focus; split; rfl; split <;> rfl
@[simp] theorem State.modGroup_intervalGrowth (s : State) (k : Nat) (f : Group → Group) : (s.modGroup k f).intervalGrowth = s.intervalGrowth := by
  unfold State.modGroup; split <;> rfl
@[simp] theorem State.modGroups_intervalGrowth (s : State) (p : Group → Bool) (f : Group → Group) : (s.modGroups p f).intervalGrowth = s.intervalGrowth := rfl
@[simp] theorem State.focus_intervalGrowth (s : State) (k : Nat) : (s.focus k).intervalGrowth = s.intervalGrowth := by
  unfold State.focus; split; rfl; split <;> rfl
@[simp] theorem State.modGroup_arrays (s : State) (k : Nat) (f : Group → Group) : (s.modGroup k f).arrays = s.arrays := by
  unfold State.modGroup; split <;> rfl
@[simp] theorem State.modGroups_arrays (s : State) (p : Group → Bool) (f : Group → Group) : (s.modGroups p f).arrays = s.arrays := rfl
@[simp] theorem State.focus_arrays (s : State) (k : Nat) : (s.focus k).arrays = s.arrays := by
  unfold State.focus; split; rfl; split <;> rfl
@[simp] theorem State.modGroup_selFree (s : State) (k : Nat) (f : Group → Group) : (s.modGroup k f).selFree = s.selFree := by
  unfold State.modGroup; split <;> rfl
@[simp] theorem State.modGroups_selFree (s : State) (p : Group → Bool) (f : Group → Group) : (s.modGroups p f).selFree = s.selFree := rfl
@[simp] theorem State.focus_selFree (s : State) (k : Nat) : (s.focus k).selFree = s.selFree := by
  unfold State.focus; split; rfl; split <;> rfl
@[simp] theorem State.modGroup_fullAt (s : State) (k : Nat) (f : Group → Group) : (s.modGroup k f).fullAt = s.fullAt := by
  unfold State.modGroup; split <;> rfl
@[simp] theorem State.modGroups_fullAt (s : State) (p : Group → Bool) (f : Group → Group) : (s.modGroups p f).fullAt = s.fullAt := rfl
@[simp] theorem State.focus_fullAt (s : State) (k : Nat) : (s.focus k).fullAt = s.fullAt := by
  unfold State.focus; split; rfl; split <;> rfl
@[simp] theorem State.modGroup_pipeFree (s : State) (k : Nat) (f : Group → Group) : (s.modGroup k f).pipeFree = s.pipeFree := by
  unfold State.modGroup; split <;> rfl
@[simp] theorem State.modGroup_pipeTaken (s : State) (k : Nat) (f : Group → Group) : (s.modGroup k f).pipeTaken = s.pipeTaken := by
  unfold State.modGroup; split <;> rfl
@[simp] theorem State.modGroups_pipeFree (s : State) (p : Group → Bool) (f : Group → Group) : (s.modGroups p f).pipeFree = s.pipeFree := rfl
@[simp] theorem State.modGroups_pipeTaken (s : State) (p : Group → Bool) (f : Group → Group) : (s.modGroups p f).pipeTaken = s.pipeTaken := rfl
@[simp] theorem State.focus_pipeFree (s : State) (k : Nat) : (s.focus k).pipeFree = s.pipeFree := by
  unfold State.focus; split; rfl; split <;> rfl
@[simp] theorem State.focus_pipeTaken (s : State) (k : Nat) : (s.focus k).pipeTaken = s.pipeTaken := by
  unfold State.focus; split; rfl; split <;> rfl
@[simp] theorem State.modGroup_tieLost (s : State) (k : Nat) (f : Group → Group) : (s.modGroup k f).tieLost = s.tieLost := by
  unfold State.modGroup; split <;> rfl
@[simp] theorem State.modGroups_tieLost (s : State) (p : Group → Bool) (f : Group → Group) : (s.modGroups p f).tieLost = s.tieLost := rfl
@[simp] theorem State.focus_tieLost (s : State) (k : Nat) : (s.focus k).tieLost = s.tieLost := by
  unfold State.focus; split; rfl; split <;> rfl
@[simp] theorem State.modGroup_tiles (s : State) (k : Nat) (f : Group → Group) : (s.modGroup k f).tiles = s.tiles := by
  unfold State.modGroup; split <;> rfl
@[simp] theorem State.modGroups_tiles (s : State) (p : Group → Bool) (f : Group → Group) : (s.modGroups p f).tiles = s.tiles := rfl
@[simp] theorem State.focus_tiles (s : State) (k : Nat) : (s.focus k).tiles = s.tiles := by
  unfold State.focus; split; rfl; split <;> rfl
@[simp] theorem State.modGroup_gangOps (s : State) (k : Nat) (f : Group → Group) : (s.modGroup k f).gangOps = s.gangOps := by
  unfold State.modGroup; split <;> rfl
@[simp] theorem State.modGroups_gangOps (s : State) (p : Group → Bool) (f : Group → Group) : (s.modGroups p f).gangOps = s.gangOps := rfl
@[simp] theorem State.focus_gangOps (s : State) (k : Nat) : (s.focus k).gangOps = s.gangOps := by
  unfold State.focus; split; rfl; split <;> rfl
@[simp] theorem State.modGroup_skeins (s : State) (k : Nat) (f : Group → Group) : (s.modGroup k f).skeins = s.skeins := by
  unfold State.modGroup; split <;> rfl
@[simp] theorem State.modGroups_skeins (s : State) (p : Group → Bool) (f : Group → Group) : (s.modGroups p f).skeins = s.skeins := rfl
@[simp] theorem State.focus_skeins (s : State) (k : Nat) : (s.focus k).skeins = s.skeins := by
  unfold State.focus; split; rfl; split <;> rfl
@[simp] theorem State.modGroup_waiting (s : State) (k : Nat) (f : Group → Group) : (s.modGroup k f).waiting = s.waiting := by
  unfold State.modGroup; split <;> rfl
@[simp] theorem State.modGroups_waiting (s : State) (p : Group → Bool) (f : Group → Group) : (s.modGroups p f).waiting = s.waiting := rfl
@[simp] theorem State.focus_waiting (s : State) (k : Nat) : (s.focus k).waiting = s.waiting := by
  unfold State.focus; split; rfl; split <;> rfl
@[simp] theorem State.modGroup_depRecords (s : State) (k : Nat) (f : Group → Group) : (s.modGroup k f).depRecords = s.depRecords := by
  unfold State.modGroup; split <;> rfl
@[simp] theorem State.modGroups_depRecords (s : State) (p : Group → Bool) (f : Group → Group) : (s.modGroups p f).depRecords = s.depRecords := rfl
@[simp] theorem State.focus_depRecords (s : State) (k : Nat) : (s.focus k).depRecords = s.depRecords := by
  unfold State.focus; split; rfl; split <;> rfl
@[simp] theorem State.modGroup_replies (s : State) (k : Nat) (f : Group → Group) : (s.modGroup k f).replies = s.replies := by
  unfold State.modGroup; split <;> rfl
@[simp] theorem State.modGroups_replies (s : State) (p : Group → Bool) (f : Group → Group) : (s.modGroups p f).replies = s.replies := rfl
@[simp] theorem State.focus_replies (s : State) (k : Nat) : (s.focus k).replies = s.replies := by
  unfold State.focus; split; rfl; split <;> rfl
@[simp] theorem State.modGroup_marks (s : State) (k : Nat) (f : Group → Group) : (s.modGroup k f).marks = s.marks := by
  unfold State.modGroup; split <;> rfl
@[simp] theorem State.modGroups_marks (s : State) (p : Group → Bool) (f : Group → Group) : (s.modGroups p f).marks = s.marks := rfl
@[simp] theorem State.focus_marks (s : State) (k : Nat) : (s.focus k).marks = s.marks := by
  unfold State.focus; split; rfl; split <;> rfl
@[simp] theorem State.modGroup_ctxs (s : State) (k : Nat) (f : Group → Group) : (s.modGroup k f).ctxs = s.ctxs := by
  unfold State.modGroup; split <;> rfl
@[simp] theorem State.modGroups_ctxs (s : State) (p : Group → Bool) (f : Group → Group) : (s.modGroups p f).ctxs = s.ctxs := rfl
@[simp] theorem State.focus_ctxs (s : State) (k : Nat) : (s.focus k).ctxs = s.ctxs := by
  unfold State.focus; split; rfl; split <;> rfl
@[simp] theorem State.modGroup_vds (s : State) (k : Nat) (f : Group → Group) : (s.modGroup k f).vds = s.vds := by
  unfold State.modGroup; split <;> rfl
@[simp] theorem State.modGroups_vds (s : State) (p : Group → Bool) (f : Group → Group) : (s.modGroups p f).vds = s.vds := rfl
@[simp] theorem State.focus_vds (s : State) (k : Nat) : (s.focus k).vds = s.vds := by
  unfold State.focus; split; rfl; split <;> rfl
@[simp] theorem State.modGroup_queues (s : State) (k : Nat) (f : Group → Group) : (s.modGroup k f).queues = s.queues := by
  unfold State.modGroup; split <;> rfl
@[simp] theorem State.modGroups_queues (s : State) (p : Group → Bool) (f : Group → Group) : (s.modGroups p f).queues = s.queues := rfl
@[simp] theorem State.focus_queues (s : State) (k : Nat) : (s.focus k).queues = s.queues := by
  unfold State.focus; split; rfl; split <;> rfl
@[simp] theorem State.modGroup_lastServed (s : State) (k : Nat) (f : Group → Group) : (s.modGroup k f).lastServed = s.lastServed := by
  unfold State.modGroup; split <;> rfl
@[simp] theorem State.modGroups_lastServed (s : State) (p : Group → Bool) (f : Group → Group) : (s.modGroups p f).lastServed = s.lastServed := rfl
@[simp] theorem State.focus_lastServed (s : State) (k : Nat) : (s.focus k).lastServed = s.lastServed := by
  unfold State.focus; split; rfl; split <;> rfl
@[simp] theorem State.modGroup_mem (s : State) (k : Nat) (f : Group → Group) : (s.modGroup k f).mem = s.mem := by
  unfold State.modGroup; split <;> rfl
@[simp] theorem State.modGroups_mem (s : State) (p : Group → Bool) (f : Group → Group) : (s.modGroups p f).mem = s.mem := rfl
@[simp] theorem State.focus_mem (s : State) (k : Nat) : (s.focus k).mem = s.mem := by
  unfold State.focus; split; rfl; split <;> rfl
@[simp] theorem State.modGroup_tlb (s : State) (k : Nat) (f : Group → Group) : (s.modGroup k f).tlb = s.tlb := by
  unfold State.modGroup; split <;> rfl
@[simp] theorem State.modGroups_tlb (s : State) (p : Group → Bool) (f : Group → Group) : (s.modGroups p f).tlb = s.tlb := rfl
@[simp] theorem State.focus_tlb (s : State) (k : Nat) : (s.focus k).tlb = s.tlb := by
  unfold State.focus; split; rfl; split <;> rfl
@[simp] theorem State.modGroup_clock (s : State) (k : Nat) (f : Group → Group) : (s.modGroup k f).clock = s.clock := by
  unfold State.modGroup; split <;> rfl
@[simp] theorem State.modGroups_clock (s : State) (p : Group → Bool) (f : Group → Group) : (s.modGroups p f).clock = s.clock := rfl
@[simp] theorem State.focus_clock (s : State) (k : Nat) : (s.focus k).clock = s.clock := by
  unfold State.focus; split; rfl; split <;> rfl
@[simp] theorem State.modGroup_pwrlim (s : State) (k : Nat) (f : Group → Group) : (s.modGroup k f).pwrlim = s.pwrlim := by
  unfold State.modGroup; split <;> rfl
@[simp] theorem State.modGroups_pwrlim (s : State) (p : Group → Bool) (f : Group → Group) : (s.modGroups p f).pwrlim = s.pwrlim := rfl
@[simp] theorem State.focus_pwrlim (s : State) (k : Nat) : (s.focus k).pwrlim = s.pwrlim := by
  unfold State.focus; split; rfl; split <;> rfl
@[simp] theorem State.modGroup_heatlim (s : State) (k : Nat) (f : Group → Group) : (s.modGroup k f).heatlim = s.heatlim := by
  unfold State.modGroup; split <;> rfl
@[simp] theorem State.modGroups_heatlim (s : State) (p : Group → Bool) (f : Group → Group) : (s.modGroups p f).heatlim = s.heatlim := rfl
@[simp] theorem State.focus_heatlim (s : State) (k : Nat) : (s.focus k).heatlim = s.heatlim := by
  unfold State.focus; split; rfl; split <;> rfl
@[simp] theorem State.modGroup_thermal (s : State) (k : Nat) (f : Group → Group) : (s.modGroup k f).thermal = s.thermal := by
  unfold State.modGroup; split <;> rfl
@[simp] theorem State.modGroups_thermal (s : State) (p : Group → Bool) (f : Group → Group) : (s.modGroups p f).thermal = s.thermal := rfl
@[simp] theorem State.focus_thermal (s : State) (k : Nat) : (s.focus k).thermal = s.thermal := by
  unfold State.focus; split; rfl; split <;> rfl
@[simp] theorem State.modGroup_nirports (s : State) (k : Nat) (f : Group → Group) : (s.modGroup k f).nirports = s.nirports := by
  unfold State.modGroup; split <;> rfl
@[simp] theorem State.modGroups_nirports (s : State) (p : Group → Bool) (f : Group → Group) : (s.modGroups p f).nirports = s.nirports := rfl
@[simp] theorem State.focus_nirports (s : State) (k : Nat) : (s.focus k).nirports = s.nirports := by
  unfold State.focus; split; rfl; split <;> rfl
@[simp] theorem State.modGroup_domid (s : State) (k : Nat) (f : Group → Group) : (s.modGroup k f).domid = s.domid := by
  unfold State.modGroup; split <;> rfl
@[simp] theorem State.modGroups_domid (s : State) (p : Group → Bool) (f : Group → Group) : (s.modGroups p f).domid = s.domid := rfl
@[simp] theorem State.focus_domid (s : State) (k : Nat) : (s.focus k).domid = s.domid := by
  unfold State.focus; split; rfl; split <;> rfl
@[simp] theorem State.modGroup_devices (s : State) (k : Nat) (f : Group → Group) : (s.modGroup k f).devices = s.devices := by
  unfold State.modGroup; split <;> rfl
@[simp] theorem State.modGroups_devices (s : State) (p : Group → Bool) (f : Group → Group) : (s.modGroups p f).devices = s.devices := rfl
@[simp] theorem State.focus_devices (s : State) (k : Nat) : (s.focus k).devices = s.devices := by
  unfold State.focus; split; rfl; split <;> rfl
@[simp] theorem State.modGroup_withdrawn (s : State) (k : Nat) (f : Group → Group) : (s.modGroup k f).withdrawn = s.withdrawn := by
  unfold State.modGroup; split <;> rfl
@[simp] theorem State.modGroups_withdrawn (s : State) (p : Group → Bool) (f : Group → Group) : (s.modGroups p f).withdrawn = s.withdrawn := rfl
@[simp] theorem State.focus_withdrawn (s : State) (k : Nat) : (s.focus k).withdrawn = s.withdrawn := by
  unfold State.focus; split; rfl; split <;> rfl
@[simp] theorem State.modGroup_retiredCores (s : State) (k : Nat) (f : Group → Group) : (s.modGroup k f).retiredCores = s.retiredCores := by
  unfold State.modGroup; split <;> rfl
@[simp] theorem State.modGroups_retiredCores (s : State) (p : Group → Bool) (f : Group → Group) : (s.modGroups p f).retiredCores = s.retiredCores := rfl
@[simp] theorem State.focus_retiredCores (s : State) (k : Nat) : (s.focus k).retiredCores = s.retiredCores := by
  unfold State.focus; split; rfl; split <;> rfl
@[simp] theorem State.modGroup_remap (s : State) (k : Nat) (f : Group → Group) : (s.modGroup k f).remap = s.remap := by
  unfold State.modGroup; split <;> rfl
@[simp] theorem State.modGroups_remap (s : State) (p : Group → Bool) (f : Group → Group) : (s.modGroups p f).remap = s.remap := rfl
@[simp] theorem State.focus_remap (s : State) (k : Nat) : (s.focus k).remap = s.remap := by
  unfold State.focus; split; rfl; split <;> rfl
@[simp] theorem State.modGroup_ce (s : State) (k : Nat) (f : Group → Group) : (s.modGroup k f).ce = s.ce := by
  unfold State.modGroup; split <;> rfl
@[simp] theorem State.modGroups_ce (s : State) (p : Group → Bool) (f : Group → Group) : (s.modGroups p f).ce = s.ce := rfl
@[simp] theorem State.focus_ce (s : State) (k : Nat) : (s.focus k).ce = s.ce := by
  unfold State.focus; split; rfl; split <;> rfl
@[simp] theorem State.modGroup_spares (s : State) (k : Nat) (f : Group → Group) : (s.modGroup k f).spares = s.spares := by
  unfold State.modGroup; split <;> rfl
@[simp] theorem State.modGroups_spares (s : State) (p : Group → Bool) (f : Group → Group) : (s.modGroups p f).spares = s.spares := rfl
@[simp] theorem State.focus_spares (s : State) (k : Nat) : (s.focus k).spares = s.spares := by
  unfold State.focus; split; rfl; split <;> rfl
@[simp] theorem State.modGroup_fwfail (s : State) (k : Nat) (f : Group → Group) : (s.modGroup k f).fwfail = s.fwfail := by
  unfold State.modGroup; split <;> rfl
@[simp] theorem State.modGroups_fwfail (s : State) (p : Group → Bool) (f : Group → Group) : (s.modGroups p f).fwfail = s.fwfail := rfl
@[simp] theorem State.focus_fwfail (s : State) (k : Nat) : (s.focus k).fwfail = s.fwfail := by
  unfold State.focus; split; rfl; split <;> rfl
@[simp] theorem State.modGroup_uncorr (s : State) (k : Nat) (f : Group → Group) : (s.modGroup k f).uncorr = s.uncorr := by
  unfold State.modGroup; split <;> rfl
@[simp] theorem State.modGroups_uncorr (s : State) (p : Group → Bool) (f : Group → Group) : (s.modGroups p f).uncorr = s.uncorr := rfl
@[simp] theorem State.focus_uncorr (s : State) (k : Nat) : (s.focus k).uncorr = s.uncorr := by
  unfold State.focus; split; rfl; split <;> rfl
@[simp] theorem State.modGroup_replaceRequested (s : State) (k : Nat) (f : Group → Group) : (s.modGroup k f).replaceRequested = s.replaceRequested := by
  unfold State.modGroup; split <;> rfl
@[simp] theorem State.modGroups_replaceRequested (s : State) (p : Group → Bool) (f : Group → Group) : (s.modGroups p f).replaceRequested = s.replaceRequested := rfl
@[simp] theorem State.focus_replaceRequested (s : State) (k : Nat) : (s.focus k).replaceRequested = s.replaceRequested := by
  unfold State.focus; split; rfl; split <;> rfl
@[simp] theorem State.modGroup_coreErrors (s : State) (k : Nat) (f : Group → Group) : (s.modGroup k f).coreErrors = s.coreErrors := by
  unfold State.modGroup; split <;> rfl
@[simp] theorem State.modGroups_coreErrors (s : State) (p : Group → Bool) (f : Group → Group) : (s.modGroups p f).coreErrors = s.coreErrors := rfl
@[simp] theorem State.focus_coreErrors (s : State) (k : Nat) : (s.focus k).coreErrors = s.coreErrors := by
  unfold State.focus; split; rfl; split <;> rfl
@[simp] theorem State.modGroup_failing (s : State) (k : Nat) (f : Group → Group) : (s.modGroup k f).failing = s.failing := by
  unfold State.modGroup; split <;> rfl
@[simp] theorem State.modGroups_failing (s : State) (p : Group → Bool) (f : Group → Group) : (s.modGroups p f).failing = s.failing := rfl
@[simp] theorem State.focus_failing (s : State) (k : Nat) : (s.focus k).failing = s.failing := by
  unfold State.focus; split; rfl; split <;> rfl
@[simp] theorem State.modGroup_badMem (s : State) (k : Nat) (f : Group → Group) : (s.modGroup k f).badMem = s.badMem := by
  unfold State.modGroup; split <;> rfl
@[simp] theorem State.modGroups_badMem (s : State) (p : Group → Bool) (f : Group → Group) : (s.modGroups p f).badMem = s.badMem := rfl
@[simp] theorem State.focus_badMem (s : State) (k : Nat) : (s.focus k).badMem = s.badMem := by
  unfold State.focus; split; rfl; split <;> rfl
@[simp] theorem State.modGroup_hvec (s : State) (k : Nat) (f : Group → Group) : (s.modGroup k f).hvec = s.hvec := by
  unfold State.modGroup; split <;> rfl
@[simp] theorem State.modGroups_hvec (s : State) (p : Group → Bool) (f : Group → Group) : (s.modGroups p f).hvec = s.hvec := rfl
@[simp] theorem State.focus_hvec (s : State) (k : Nat) : (s.focus k).hvec = s.hvec := by
  unfold State.focus; split; rfl; split <;> rfl
@[simp] theorem State.modGroup_firmware (s : State) (k : Nat) (f : Group → Group) : (s.modGroup k f).firmware = s.firmware := by
  unfold State.modGroup; split <;> rfl
@[simp] theorem State.modGroups_firmware (s : State) (p : Group → Bool) (f : Group → Group) : (s.modGroups p f).firmware = s.firmware := rfl
@[simp] theorem State.focus_firmware (s : State) (k : Nat) : (s.focus k).firmware = s.firmware := by
  unfold State.focus; split; rfl; split <;> rfl
@[simp] theorem State.modGroup_nextFirmware (s : State) (k : Nat) (f : Group → Group) : (s.modGroup k f).nextFirmware = s.nextFirmware := by
  unfold State.modGroup; split <;> rfl
@[simp] theorem State.modGroups_nextFirmware (s : State) (p : Group → Bool) (f : Group → Group) : (s.modGroups p f).nextFirmware = s.nextFirmware := rfl
@[simp] theorem State.focus_nextFirmware (s : State) (k : Nat) : (s.focus k).nextFirmware = s.nextFirmware := by
  unfold State.focus; split; rfl; split <;> rfl
@[simp] theorem State.modGroup_mailbox (s : State) (k : Nat) (f : Group → Group) : (s.modGroup k f).mailbox = s.mailbox := by
  unfold State.modGroup; split <;> rfl
@[simp] theorem State.modGroups_mailbox (s : State) (p : Group → Bool) (f : Group → Group) : (s.modGroups p f).mailbox = s.mailbox := rfl
@[simp] theorem State.focus_mailbox (s : State) (k : Nat) : (s.focus k).mailbox = s.mailbox := by
  unfold State.focus; split; rfl; split <;> rfl
@[simp] theorem State.modGroup_debugger (s : State) (k : Nat) (f : Group → Group) : (s.modGroup k f).debugger = s.debugger := by
  unfold State.modGroup; split <;> rfl
@[simp] theorem State.modGroups_debugger (s : State) (p : Group → Bool) (f : Group → Group) : (s.modGroups p f).debugger = s.debugger := rfl
@[simp] theorem State.focus_debugger (s : State) (k : Nat) : (s.focus k).debugger = s.debugger := by
  unfold State.focus; split; rfl; split <;> rfl
@[simp] theorem State.modGroup_windowReqs (s : State) (k : Nat) (f : Group → Group) : (s.modGroup k f).windowReqs = s.windowReqs := by
  unfold State.modGroup; split <;> rfl
@[simp] theorem State.modGroups_windowReqs (s : State) (p : Group → Bool) (f : Group → Group) : (s.modGroups p f).windowReqs = s.windowReqs := rfl
@[simp] theorem State.focus_windowReqs (s : State) (k : Nat) : (s.focus k).windowReqs = s.windowReqs := by
  unfold State.focus; split; rfl; split <;> rfl
@[simp] theorem State.modGroup_hostOut (s : State) (k : Nat) (f : Group → Group) : (s.modGroup k f).hostOut = s.hostOut := by
  unfold State.modGroup; split <;> rfl
@[simp] theorem State.modGroups_hostOut (s : State) (p : Group → Bool) (f : Group → Group) : (s.modGroups p f).hostOut = s.hostOut := rfl
@[simp] theorem State.focus_hostOut (s : State) (k : Nat) : (s.focus k).hostOut = s.hostOut := by
  unfold State.focus; split; rfl; split <;> rfl
@[simp] theorem State.modGroup_peerReqs (s : State) (k : Nat) (f : Group → Group) : (s.modGroup k f).peerReqs = s.peerReqs := by
  unfold State.modGroup; split <;> rfl
@[simp] theorem State.modGroups_peerReqs (s : State) (p : Group → Bool) (f : Group → Group) : (s.modGroups p f).peerReqs = s.peerReqs := rfl
@[simp] theorem State.focus_peerReqs (s : State) (k : Nat) : (s.focus k).peerReqs = s.peerReqs := by
  unfold State.focus; split; rfl; split <;> rfl
@[simp] theorem State.modGroup_lastRefill (s : State) (k : Nat) (f : Group → Group) : (s.modGroup k f).lastRefill = s.lastRefill := by
  unfold State.modGroup; split <;> rfl
@[simp] theorem State.modGroups_lastRefill (s : State) (p : Group → Bool) (f : Group → Group) : (s.modGroups p f).lastRefill = s.lastRefill := rfl
@[simp] theorem State.focus_lastRefill (s : State) (k : Nat) : (s.focus k).lastRefill = s.lastRefill := by
  unfold State.focus; split; rfl; split <;> rfl
@[simp] theorem State.modGroup_lastThermal (s : State) (k : Nat) (f : Group → Group) : (s.modGroup k f).lastThermal = s.lastThermal := by
  unfold State.modGroup; split <;> rfl
@[simp] theorem State.modGroups_lastThermal (s : State) (p : Group → Bool) (f : Group → Group) : (s.modGroups p f).lastThermal = s.lastThermal := rfl
@[simp] theorem State.focus_lastThermal (s : State) (k : Nat) : (s.focus k).lastThermal = s.lastThermal := by
  unfold State.focus; split; rfl; split <;> rfl
@[simp] theorem State.modGroup_coolSince (s : State) (k : Nat) (f : Group → Group) : (s.modGroup k f).coolSince = s.coolSince := by
  unfold State.modGroup; split <;> rfl
@[simp] theorem State.modGroups_coolSince (s : State) (p : Group → Bool) (f : Group → Group) : (s.modGroups p f).coolSince = s.coolSince := rfl
@[simp] theorem State.focus_coolSince (s : State) (k : Nat) : (s.focus k).coolSince = s.coolSince := by
  unfold State.focus; split; rfl; split <;> rfl
@[simp] theorem State.modGroup_agenda (s : State) (k : Nat) (f : Group → Group) : (s.modGroup k f).agenda = s.agenda := by
  unfold State.modGroup; split <;> rfl
@[simp] theorem State.modGroups_agenda (s : State) (p : Group → Bool) (f : Group → Group) : (s.modGroups p f).agenda = s.agenda := rfl
@[simp] theorem State.focus_agenda (s : State) (k : Nat) : (s.focus k).agenda = s.agenda := by
  unfold State.focus; split; rfl; split <;> rfl
@[simp] theorem State.modGroup_free (s : State) (k : Nat) (f : Group → Group) : (s.modGroup k f).free = s.free := by
  unfold State.modGroup; split <;> rfl
@[simp] theorem State.modGroups_free (s : State) (p : Group → Bool) (f : Group → Group) : (s.modGroups p f).free = s.free := rfl
@[simp] theorem State.focus_free (s : State) (k : Nat) : (s.focus k).free = s.free := by
  unfold State.focus; split; rfl; split <;> rfl
@[simp] theorem State.modGroup_nextGid (s : State) (k : Nat) (f : Group → Group) : (s.modGroup k f).nextGid = s.nextGid := by
  unfold State.modGroup; split <;> rfl
@[simp] theorem State.modGroups_nextGid (s : State) (p : Group → Bool) (f : Group → Group) : (s.modGroups p f).nextGid = s.nextGid := rfl
@[simp] theorem State.focus_nextGid (s : State) (k : Nat) : (s.focus k).nextGid = s.nextGid := by
  unfold State.focus; split; rfl; split <;> rfl
@[simp] theorem State.modGroup_nextTeam (s : State) (k : Nat) (f : Group → Group) : (s.modGroup k f).nextTeam = s.nextTeam := by
  unfold State.modGroup; split <;> rfl
@[simp] theorem State.modGroups_nextTeam (s : State) (p : Group → Bool) (f : Group → Group) : (s.modGroups p f).nextTeam = s.nextTeam := rfl
@[simp] theorem State.focus_nextTeam (s : State) (k : Nat) : (s.focus k).nextTeam = s.nextTeam := by
  unfold State.focus; split; rfl; split <;> rfl
@[simp] theorem State.modGroup_nextLaunch (s : State) (k : Nat) (f : Group → Group) : (s.modGroup k f).nextLaunch = s.nextLaunch := by
  unfold State.modGroup; split <;> rfl
@[simp] theorem State.modGroups_nextLaunch (s : State) (p : Group → Bool) (f : Group → Group) : (s.modGroups p f).nextLaunch = s.nextLaunch := rfl
@[simp] theorem State.focus_nextLaunch (s : State) (k : Nat) : (s.focus k).nextLaunch = s.nextLaunch := by
  unfold State.focus; split; rfl; split <;> rfl
@[simp] theorem State.modGroup_nextOp (s : State) (k : Nat) (f : Group → Group) : (s.modGroup k f).nextOp = s.nextOp := by
  unfold State.modGroup; split <;> rfl
@[simp] theorem State.modGroups_nextOp (s : State) (p : Group → Bool) (f : Group → Group) : (s.modGroups p f).nextOp = s.nextOp := rfl
@[simp] theorem State.focus_nextOp (s : State) (k : Nat) : (s.focus k).nextOp = s.nextOp := by
  unfold State.focus; split; rfl; split <;> rfl
@[simp] theorem State.modGroup_busError (s : State) (k : Nat) (f : Group → Group) : (s.modGroup k f).busError = s.busError := by
  unfold State.modGroup; split <;> rfl
@[simp] theorem State.modGroups_busError (s : State) (p : Group → Bool) (f : Group → Group) : (s.modGroups p f).busError = s.busError := rfl
@[simp] theorem State.focus_busError (s : State) (k : Nat) : (s.focus k).busError = s.busError := by
  unfold State.focus; split; rfl; split <;> rfl
@[simp] theorem State.modGroup_own (s : State) (f : Group → Group) : (s.modGroup s.grp.id f).grp = f s.grp := by
  simp [State.modGroup]

/-! `Group.setV` -/

@[simp] theorem Group.setV_id (g : Group) (n : Nat) (x : LaneVec) : (g.setV n x).id = g.id := rfl
@[simp] theorem Group.setV_live (g : Group) (n : Nat) (x : LaneVec) : (g.setV n x).live = g.live := rfl
@[simp] theorem Group.setV_saved (g : Group) (n : Nat) (x : LaneVec) : (g.setV n x).saved = g.saved := rfl
@[simp] theorem Group.setV_kind (g : Group) (n : Nat) (x : LaneVec) : (g.setV n x).kind = g.kind := rfl
@[simp] theorem Group.setV_vd (g : Group) (n : Nat) (x : LaneVec) : (g.setV n x).vd = g.vd := rfl
@[simp] theorem Group.setV_launch (g : Group) (n : Nat) (x : LaneVec) : (g.setV n x).launch = g.launch := rfl
@[simp] theorem Group.setV_team (g : Group) (n : Nat) (x : LaneVec) : (g.setV n x).team = g.team := rfl
@[simp] theorem Group.setV_groupid (g : Group) (n : Nat) (x : LaneVec) : (g.setV n x).groupid = g.groupid := rfl
@[simp] theorem Group.setV_ngroups (g : Group) (n : Nat) (x : LaneVec) : (g.setV n x).ngroups = g.ngroups := rfl
@[simp] theorem Group.setV_teamid (g : Group) (n : Nat) (x : LaneVec) : (g.setV n x).teamid = g.teamid := rfl
@[simp] theorem Group.setV_nteams (g : Group) (n : Nat) (x : LaneVec) : (g.setV n x).nteams = g.nteams := rfl
@[simp] theorem Group.setV_role (g : Group) (n : Nat) (x : LaneVec) : (g.setV n x).role = g.role := rfl
@[simp] theorem Group.setV_roleidx (g : Group) (n : Nat) (x : LaneVec) : (g.setV n x).roleidx = g.roleidx := rfl
@[simp] theorem Group.setV_core (g : Group) (n : Nat) (x : LaneVec) : (g.setV n x).core = g.core := rfl
@[simp] theorem Group.setV_part (g : Group) (n : Nat) (x : LaneVec) : (g.setV n x).part = g.part := rfl
@[simp] theorem Group.setV_slot (g : Group) (n : Nat) (x : LaneVec) : (g.setV n x).slot = g.slot := rfl
@[simp] theorem Group.setV_lcore (g : Group) (n : Nat) (x : LaneVec) : (g.setV n x).lcore = g.lcore := rfl
@[simp] theorem Group.setV_alloc (g : Group) (n : Nat) (x : LaneVec) : (g.setV n x).alloc = g.alloc := rfl
@[simp] theorem Group.setV_winbase (g : Group) (n : Nat) (x : LaneVec) : (g.setV n x).winbase = g.winbase := rfl
@[simp] theorem Group.setV_v (g : Group) (n : Nat) (x : LaneVec) : (g.setV n x).v = nset zeroVec g.v n x := rfl
@[simp] theorem Group.setV_s (g : Group) (n : Nat) (x : LaneVec) : (g.setV n x).s = g.s := rfl
@[simp] theorem Group.setV_p (g : Group) (n : Nat) (x : LaneVec) : (g.setV n x).p = g.p := rfl
@[simp] theorem Group.setV_q (g : Group) (n : Nat) (x : LaneVec) : (g.setV n x).q = g.q := rfl
@[simp] theorem Group.setV_gs (g : Group) (n : Nat) (x : LaneVec) : (g.setV n x).gs = g.gs := rfl
@[simp] theorem Group.setV_xs (g : Group) (n : Nat) (x : LaneVec) : (g.setV n x).xs = g.xs := rfl
@[simp] theorem Group.setV_exec (g : Group) (n : Nat) (x : LaneVec) : (g.setV n x).exec = g.exec := rfl
@[simp] theorem Group.setV_retired (g : Group) (n : Nat) (x : LaneVec) : (g.setV n x).retired = g.retired := rfl
@[simp] theorem Group.setV_stack (g : Group) (n : Nat) (x : LaneVec) : (g.setV n x).stack = g.stack := rfl
@[simp] theorem Group.setV_hidden (g : Group) (n : Nat) (x : LaneVec) : (g.setV n x).hidden = g.hidden := rfl
@[simp] theorem Group.setV_pc (g : Group) (n : Nat) (x : LaneVec) : (g.setV n x).pc = g.pc := rfl
@[simp] theorem Group.setV_clockLatch (g : Group) (n : Nat) (x : LaneVec) : (g.setV n x).clockLatch = g.clockLatch := rfl
@[simp] theorem Group.setV_passno (g : Group) (n : Nat) (x : LaneVec) : (g.setV n x).passno = g.passno := rfl
@[simp] theorem Group.setV_spb (g : Group) (n : Nat) (x : LaneVec) : (g.setV n x).spb = g.spb := rfl
@[simp] theorem Group.setV_barbase (g : Group) (n : Nat) (x : LaneVec) : (g.setV n x).barbase = g.barbase := rfl
@[simp] theorem Group.setV_trb (g : Group) (n : Nat) (x : LaneVec) : (g.setV n x).trb = g.trb := rfl
@[simp] theorem Group.setV_utv (g : Group) (n : Nat) (x : LaneVec) : (g.setV n x).utv = g.utv := rfl
@[simp] theorem Group.setV_stv (g : Group) (n : Nat) (x : LaneVec) : (g.setV n x).stv = g.stv := rfl
@[simp] theorem Group.setV_gentag (g : Group) (n : Nat) (x : LaneVec) : (g.setV n x).gentag = g.gentag := rfl
@[simp] theorem Group.setV_checkmode (g : Group) (n : Nat) (x : LaneVec) : (g.setV n x).checkmode = g.checkmode := rfl
@[simp] theorem Group.setV_arg (g : Group) (n : Nat) (x : LaneVec) : (g.setV n x).arg = g.arg := rfl
@[simp] theorem Group.setV_level (g : Group) (n : Nat) (x : LaneVec) : (g.setV n x).level = g.level := rfl
@[simp] theorem Group.setV_trap (g : Group) (n : Nat) (x : LaneVec) : (g.setV n x).trap = g.trap := rfl
@[simp] theorem Group.setV_user (g : Group) (n : Nat) (x : LaneVec) : (g.setV n x).user = g.user := rfl
@[simp] theorem Group.setV_super (g : Group) (n : Nat) (x : LaneVec) : (g.setV n x).super = g.super := rfl
@[simp] theorem Group.setV_trapUser (g : Group) (n : Nat) (x : LaneVec) : (g.setV n x).trapUser = g.trapUser := rfl
@[simp] theorem Group.setV_retry (g : Group) (n : Nat) (x : LaneVec) : (g.setV n x).retry = g.retry := rfl
@[simp] theorem Group.setV_gang (g : Group) (n : Nat) (x : LaneVec) : (g.setV n x).gang = g.gang := rfl
@[simp] theorem Group.setV_nextBatch (g : Group) (n : Nat) (x : LaneVec) : (g.setV n x).nextBatch = g.nextBatch := rfl
@[simp] theorem Group.setV_openOps (g : Group) (n : Nat) (x : LaneVec) : (g.setV n x).openOps = g.openOps := rfl
@[simp] theorem Group.setV_batches (g : Group) (n : Nat) (x : LaneVec) : (g.setV n x).batches = g.batches := rfl
@[simp] theorem Group.setV_queues (g : Group) (n : Nat) (x : LaneVec) : (g.setV n x).queues = g.queues := rfl
@[simp] theorem Group.setV_records (g : Group) (n : Nat) (x : LaneVec) : (g.setV n x).records = g.records := rfl
@[simp] theorem Group.setV_sticky (g : Group) (n : Nat) (x : LaneVec) : (g.setV n x).sticky = g.sticky := rfl
@[simp] theorem Group.setV_drains (g : Group) (n : Nat) (x : LaneVec) : (g.setV n x).drains = g.drains := rfl
@[simp] theorem Group.setV_storeQ (g : Group) (n : Nat) (x : LaneVec) : (g.setV n x).storeQ = g.storeQ := rfl
@[simp] theorem Group.setV_pend (g : Group) (n : Nat) (x : LaneVec) : (g.setV n x).pend = g.pend := rfl
@[simp] theorem Group.setV_qfences (g : Group) (n : Nat) (x : LaneVec) : (g.setV n x).qfences = g.qfences := rfl
@[simp] theorem Group.setV_seq (g : Group) (n : Nat) (x : LaneVec) : (g.setV n x).seq = g.seq := rfl
@[simp] theorem Group.setV_wait (g : Group) (n : Nat) (x : LaneVec) : (g.setV n x).wait = g.wait := rfl
@[simp] theorem Group.setV_remote (g : Group) (n : Nat) (x : LaneVec) : (g.setV n x).remote = g.remote := rfl
@[simp] theorem Group.setV_active (g : Group) (n : Nat) (x : LaneVec) : (g.setV n x).active = g.active := rfl
@[simp] theorem Group.setV_readySince (g : Group) (n : Nat) (x : LaneVec) : (g.setV n x).readySince = g.readySince := rfl
@[simp] theorem Group.setV_enteredAt (g : Group) (n : Nat) (x : LaneVec) : (g.setV n x).enteredAt = g.enteredAt := rfl
@[simp] theorem Group.setV_lastIssue (g : Group) (n : Nat) (x : LaneVec) : (g.setV n x).lastIssue = g.lastIssue := rfl
@[simp] theorem Group.setV_stallUntil (g : Group) (n : Nat) (x : LaneVec) : (g.setV n x).stallUntil = g.stallUntil := rfl
@[simp] theorem Group.setV_pausedUntil (g : Group) (n : Nat) (x : LaneVec) : (g.setV n x).pausedUntil = g.pausedUntil := rfl
@[simp] theorem Group.setV_prods (g : Group) (n : Nat) (x : LaneVec) : (g.setV n x).prods = g.prods := rfl
@[simp] theorem Group.setV_hz (g : Group) (n : Nat) (x : LaneVec) : (g.setV n x).hz = g.hz := rfl
@[simp] theorem Group.setV_frame (g : Group) (n : Nat) (x : LaneVec) : (g.setV n x).frame = g.frame := rfl
@[simp] theorem Group.setV_pins (g : Group) (n : Nat) (x : LaneVec) : (g.setV n x).pins = g.pins := rfl
@[simp] theorem Group.setV_stopped (g : Group) (n : Nat) (x : LaneVec) : (g.setV n x).stopped = g.stopped := rfl
@[simp] theorem Group.setV_committed (g : Group) (n : Nat) (x : LaneVec) : (g.setV n x).committed = g.committed := rfl
@[simp] theorem Group.setV_long (g : Group) (n : Nat) (x : LaneVec) : (g.setV n x).long = g.long := rfl
@[simp] theorem Group.setV_tookTrap (g : Group) (n : Nat) (x : LaneVec) : (g.setV n x).tookTrap = g.tookTrap := rfl
@[simp] theorem Group.setV_posts (g : Group) (n : Nat) (x : LaneVec) : (g.setV n x).posts = g.posts := rfl
@[simp] theorem Group.setV_base (g : Group) (n : Nat) (x : LaneVec) : (g.setV n x).base = g.base := rfl
@[simp] theorem Group.setV_unitSaved (g : Group) (n : Nat) (x : LaneVec) : (g.setV n x).unitSaved = g.unitSaved := rfl
@[simp] theorem Group.setV_postBegun (g : Group) (n : Nat) (x : LaneVec) : (g.setV n x).postBegun = g.postBegun := rfl
@[simp] theorem Group.setV_noted (g : Group) (n : Nat) (x : LaneVec) : (g.setV n x).noted = g.noted := rfl

/-! `Group.setX` -/

@[simp] theorem Group.setX_id (g : Group) (n : Nat) (x : XReg) : (g.setX n x).id = g.id := rfl
@[simp] theorem Group.setX_live (g : Group) (n : Nat) (x : XReg) : (g.setX n x).live = g.live := rfl
@[simp] theorem Group.setX_saved (g : Group) (n : Nat) (x : XReg) : (g.setX n x).saved = g.saved := rfl
@[simp] theorem Group.setX_kind (g : Group) (n : Nat) (x : XReg) : (g.setX n x).kind = g.kind := rfl
@[simp] theorem Group.setX_vd (g : Group) (n : Nat) (x : XReg) : (g.setX n x).vd = g.vd := rfl
@[simp] theorem Group.setX_launch (g : Group) (n : Nat) (x : XReg) : (g.setX n x).launch = g.launch := rfl
@[simp] theorem Group.setX_team (g : Group) (n : Nat) (x : XReg) : (g.setX n x).team = g.team := rfl
@[simp] theorem Group.setX_groupid (g : Group) (n : Nat) (x : XReg) : (g.setX n x).groupid = g.groupid := rfl
@[simp] theorem Group.setX_ngroups (g : Group) (n : Nat) (x : XReg) : (g.setX n x).ngroups = g.ngroups := rfl
@[simp] theorem Group.setX_teamid (g : Group) (n : Nat) (x : XReg) : (g.setX n x).teamid = g.teamid := rfl
@[simp] theorem Group.setX_nteams (g : Group) (n : Nat) (x : XReg) : (g.setX n x).nteams = g.nteams := rfl
@[simp] theorem Group.setX_role (g : Group) (n : Nat) (x : XReg) : (g.setX n x).role = g.role := rfl
@[simp] theorem Group.setX_roleidx (g : Group) (n : Nat) (x : XReg) : (g.setX n x).roleidx = g.roleidx := rfl
@[simp] theorem Group.setX_core (g : Group) (n : Nat) (x : XReg) : (g.setX n x).core = g.core := rfl
@[simp] theorem Group.setX_part (g : Group) (n : Nat) (x : XReg) : (g.setX n x).part = g.part := rfl
@[simp] theorem Group.setX_slot (g : Group) (n : Nat) (x : XReg) : (g.setX n x).slot = g.slot := rfl
@[simp] theorem Group.setX_lcore (g : Group) (n : Nat) (x : XReg) : (g.setX n x).lcore = g.lcore := rfl
@[simp] theorem Group.setX_alloc (g : Group) (n : Nat) (x : XReg) : (g.setX n x).alloc = g.alloc := rfl
@[simp] theorem Group.setX_winbase (g : Group) (n : Nat) (x : XReg) : (g.setX n x).winbase = g.winbase := rfl
@[simp] theorem Group.setX_v (g : Group) (n : Nat) (x : XReg) : (g.setX n x).v = g.v := rfl
@[simp] theorem Group.setX_s (g : Group) (n : Nat) (x : XReg) : (g.setX n x).s = g.s := rfl
@[simp] theorem Group.setX_p (g : Group) (n : Nat) (x : XReg) : (g.setX n x).p = g.p := rfl
@[simp] theorem Group.setX_q (g : Group) (n : Nat) (x : XReg) : (g.setX n x).q = g.q := rfl
@[simp] theorem Group.setX_gs (g : Group) (n : Nat) (x : XReg) : (g.setX n x).gs = g.gs := rfl
@[simp] theorem Group.setX_xs (g : Group) (n : Nat) (x : XReg) : (g.setX n x).xs = nset {} g.xs n x := rfl
@[simp] theorem Group.setX_exec (g : Group) (n : Nat) (x : XReg) : (g.setX n x).exec = g.exec := rfl
@[simp] theorem Group.setX_retired (g : Group) (n : Nat) (x : XReg) : (g.setX n x).retired = g.retired := rfl
@[simp] theorem Group.setX_stack (g : Group) (n : Nat) (x : XReg) : (g.setX n x).stack = g.stack := rfl
@[simp] theorem Group.setX_hidden (g : Group) (n : Nat) (x : XReg) : (g.setX n x).hidden = g.hidden := rfl
@[simp] theorem Group.setX_pc (g : Group) (n : Nat) (x : XReg) : (g.setX n x).pc = g.pc := rfl
@[simp] theorem Group.setX_clockLatch (g : Group) (n : Nat) (x : XReg) : (g.setX n x).clockLatch = g.clockLatch := rfl
@[simp] theorem Group.setX_passno (g : Group) (n : Nat) (x : XReg) : (g.setX n x).passno = g.passno := rfl
@[simp] theorem Group.setX_spb (g : Group) (n : Nat) (x : XReg) : (g.setX n x).spb = g.spb := rfl
@[simp] theorem Group.setX_barbase (g : Group) (n : Nat) (x : XReg) : (g.setX n x).barbase = g.barbase := rfl
@[simp] theorem Group.setX_trb (g : Group) (n : Nat) (x : XReg) : (g.setX n x).trb = g.trb := rfl
@[simp] theorem Group.setX_utv (g : Group) (n : Nat) (x : XReg) : (g.setX n x).utv = g.utv := rfl
@[simp] theorem Group.setX_stv (g : Group) (n : Nat) (x : XReg) : (g.setX n x).stv = g.stv := rfl
@[simp] theorem Group.setX_gentag (g : Group) (n : Nat) (x : XReg) : (g.setX n x).gentag = g.gentag := rfl
@[simp] theorem Group.setX_checkmode (g : Group) (n : Nat) (x : XReg) : (g.setX n x).checkmode = g.checkmode := rfl
@[simp] theorem Group.setX_arg (g : Group) (n : Nat) (x : XReg) : (g.setX n x).arg = g.arg := rfl
@[simp] theorem Group.setX_level (g : Group) (n : Nat) (x : XReg) : (g.setX n x).level = g.level := rfl
@[simp] theorem Group.setX_trap (g : Group) (n : Nat) (x : XReg) : (g.setX n x).trap = g.trap := rfl
@[simp] theorem Group.setX_user (g : Group) (n : Nat) (x : XReg) : (g.setX n x).user = g.user := rfl
@[simp] theorem Group.setX_super (g : Group) (n : Nat) (x : XReg) : (g.setX n x).super = g.super := rfl
@[simp] theorem Group.setX_trapUser (g : Group) (n : Nat) (x : XReg) : (g.setX n x).trapUser = g.trapUser := rfl
@[simp] theorem Group.setX_retry (g : Group) (n : Nat) (x : XReg) : (g.setX n x).retry = g.retry := rfl
@[simp] theorem Group.setX_gang (g : Group) (n : Nat) (x : XReg) : (g.setX n x).gang = g.gang := rfl
@[simp] theorem Group.setX_nextBatch (g : Group) (n : Nat) (x : XReg) : (g.setX n x).nextBatch = g.nextBatch := rfl
@[simp] theorem Group.setX_openOps (g : Group) (n : Nat) (x : XReg) : (g.setX n x).openOps = g.openOps := rfl
@[simp] theorem Group.setX_batches (g : Group) (n : Nat) (x : XReg) : (g.setX n x).batches = g.batches := rfl
@[simp] theorem Group.setX_queues (g : Group) (n : Nat) (x : XReg) : (g.setX n x).queues = g.queues := rfl
@[simp] theorem Group.setX_records (g : Group) (n : Nat) (x : XReg) : (g.setX n x).records = g.records := rfl
@[simp] theorem Group.setX_sticky (g : Group) (n : Nat) (x : XReg) : (g.setX n x).sticky = g.sticky := rfl
@[simp] theorem Group.setX_drains (g : Group) (n : Nat) (x : XReg) : (g.setX n x).drains = g.drains := rfl
@[simp] theorem Group.setX_storeQ (g : Group) (n : Nat) (x : XReg) : (g.setX n x).storeQ = g.storeQ := rfl
@[simp] theorem Group.setX_pend (g : Group) (n : Nat) (x : XReg) : (g.setX n x).pend = g.pend := rfl
@[simp] theorem Group.setX_qfences (g : Group) (n : Nat) (x : XReg) : (g.setX n x).qfences = g.qfences := rfl
@[simp] theorem Group.setX_seq (g : Group) (n : Nat) (x : XReg) : (g.setX n x).seq = g.seq := rfl
@[simp] theorem Group.setX_wait (g : Group) (n : Nat) (x : XReg) : (g.setX n x).wait = g.wait := rfl
@[simp] theorem Group.setX_remote (g : Group) (n : Nat) (x : XReg) : (g.setX n x).remote = g.remote := rfl
@[simp] theorem Group.setX_active (g : Group) (n : Nat) (x : XReg) : (g.setX n x).active = g.active := rfl
@[simp] theorem Group.setX_readySince (g : Group) (n : Nat) (x : XReg) : (g.setX n x).readySince = g.readySince := rfl
@[simp] theorem Group.setX_enteredAt (g : Group) (n : Nat) (x : XReg) : (g.setX n x).enteredAt = g.enteredAt := rfl
@[simp] theorem Group.setX_lastIssue (g : Group) (n : Nat) (x : XReg) : (g.setX n x).lastIssue = g.lastIssue := rfl
@[simp] theorem Group.setX_stallUntil (g : Group) (n : Nat) (x : XReg) : (g.setX n x).stallUntil = g.stallUntil := rfl
@[simp] theorem Group.setX_pausedUntil (g : Group) (n : Nat) (x : XReg) : (g.setX n x).pausedUntil = g.pausedUntil := rfl
@[simp] theorem Group.setX_prods (g : Group) (n : Nat) (x : XReg) : (g.setX n x).prods = g.prods := rfl
@[simp] theorem Group.setX_hz (g : Group) (n : Nat) (x : XReg) : (g.setX n x).hz = g.hz := rfl
@[simp] theorem Group.setX_frame (g : Group) (n : Nat) (x : XReg) : (g.setX n x).frame = g.frame := rfl
@[simp] theorem Group.setX_pins (g : Group) (n : Nat) (x : XReg) : (g.setX n x).pins = g.pins := rfl
@[simp] theorem Group.setX_stopped (g : Group) (n : Nat) (x : XReg) : (g.setX n x).stopped = g.stopped := rfl
@[simp] theorem Group.setX_committed (g : Group) (n : Nat) (x : XReg) : (g.setX n x).committed = g.committed := rfl
@[simp] theorem Group.setX_long (g : Group) (n : Nat) (x : XReg) : (g.setX n x).long = g.long := rfl
@[simp] theorem Group.setX_tookTrap (g : Group) (n : Nat) (x : XReg) : (g.setX n x).tookTrap = g.tookTrap := rfl
@[simp] theorem Group.setX_posts (g : Group) (n : Nat) (x : XReg) : (g.setX n x).posts = g.posts := rfl
@[simp] theorem Group.setX_base (g : Group) (n : Nat) (x : XReg) : (g.setX n x).base = g.base := rfl
@[simp] theorem Group.setX_unitSaved (g : Group) (n : Nat) (x : XReg) : (g.setX n x).unitSaved = g.unitSaved := rfl
@[simp] theorem Group.setX_postBegun (g : Group) (n : Nat) (x : XReg) : (g.setX n x).postBegun = g.postBegun := rfl
@[simp] theorem Group.setX_noted (g : Group) (n : Nat) (x : XReg) : (g.setX n x).noted = g.noted := rfl

/-! `Group.push` -/

@[simp] theorem Group.push_id (g : Group) (e : StackEntry) : (g.push e).id = g.id := rfl
@[simp] theorem Group.push_live (g : Group) (e : StackEntry) : (g.push e).live = g.live := rfl
@[simp] theorem Group.push_saved (g : Group) (e : StackEntry) : (g.push e).saved = g.saved := rfl
@[simp] theorem Group.push_kind (g : Group) (e : StackEntry) : (g.push e).kind = g.kind := rfl
@[simp] theorem Group.push_vd (g : Group) (e : StackEntry) : (g.push e).vd = g.vd := rfl
@[simp] theorem Group.push_launch (g : Group) (e : StackEntry) : (g.push e).launch = g.launch := rfl
@[simp] theorem Group.push_team (g : Group) (e : StackEntry) : (g.push e).team = g.team := rfl
@[simp] theorem Group.push_groupid (g : Group) (e : StackEntry) : (g.push e).groupid = g.groupid := rfl
@[simp] theorem Group.push_ngroups (g : Group) (e : StackEntry) : (g.push e).ngroups = g.ngroups := rfl
@[simp] theorem Group.push_teamid (g : Group) (e : StackEntry) : (g.push e).teamid = g.teamid := rfl
@[simp] theorem Group.push_nteams (g : Group) (e : StackEntry) : (g.push e).nteams = g.nteams := rfl
@[simp] theorem Group.push_role (g : Group) (e : StackEntry) : (g.push e).role = g.role := rfl
@[simp] theorem Group.push_roleidx (g : Group) (e : StackEntry) : (g.push e).roleidx = g.roleidx := rfl
@[simp] theorem Group.push_core (g : Group) (e : StackEntry) : (g.push e).core = g.core := rfl
@[simp] theorem Group.push_part (g : Group) (e : StackEntry) : (g.push e).part = g.part := rfl
@[simp] theorem Group.push_slot (g : Group) (e : StackEntry) : (g.push e).slot = g.slot := rfl
@[simp] theorem Group.push_lcore (g : Group) (e : StackEntry) : (g.push e).lcore = g.lcore := rfl
@[simp] theorem Group.push_alloc (g : Group) (e : StackEntry) : (g.push e).alloc = g.alloc := rfl
@[simp] theorem Group.push_winbase (g : Group) (e : StackEntry) : (g.push e).winbase = g.winbase := rfl
@[simp] theorem Group.push_v (g : Group) (e : StackEntry) : (g.push e).v = g.v := rfl
@[simp] theorem Group.push_s (g : Group) (e : StackEntry) : (g.push e).s = g.s := rfl
@[simp] theorem Group.push_p (g : Group) (e : StackEntry) : (g.push e).p = g.p := rfl
@[simp] theorem Group.push_q (g : Group) (e : StackEntry) : (g.push e).q = g.q := rfl
@[simp] theorem Group.push_gs (g : Group) (e : StackEntry) : (g.push e).gs = g.gs := rfl
@[simp] theorem Group.push_xs (g : Group) (e : StackEntry) : (g.push e).xs = g.xs := rfl
@[simp] theorem Group.push_exec (g : Group) (e : StackEntry) : (g.push e).exec = g.exec := rfl
@[simp] theorem Group.push_retired (g : Group) (e : StackEntry) : (g.push e).retired = g.retired := rfl
@[simp] theorem Group.push_stack (g : Group) (e : StackEntry) : (g.push e).stack = e :: g.stack := rfl
@[simp] theorem Group.push_hidden (g : Group) (e : StackEntry) : (g.push e).hidden = g.hidden := rfl
@[simp] theorem Group.push_pc (g : Group) (e : StackEntry) : (g.push e).pc = g.pc := rfl
@[simp] theorem Group.push_clockLatch (g : Group) (e : StackEntry) : (g.push e).clockLatch = g.clockLatch := rfl
@[simp] theorem Group.push_passno (g : Group) (e : StackEntry) : (g.push e).passno = g.passno := rfl
@[simp] theorem Group.push_spb (g : Group) (e : StackEntry) : (g.push e).spb = g.spb := rfl
@[simp] theorem Group.push_barbase (g : Group) (e : StackEntry) : (g.push e).barbase = g.barbase := rfl
@[simp] theorem Group.push_trb (g : Group) (e : StackEntry) : (g.push e).trb = g.trb := rfl
@[simp] theorem Group.push_utv (g : Group) (e : StackEntry) : (g.push e).utv = g.utv := rfl
@[simp] theorem Group.push_stv (g : Group) (e : StackEntry) : (g.push e).stv = g.stv := rfl
@[simp] theorem Group.push_gentag (g : Group) (e : StackEntry) : (g.push e).gentag = g.gentag := rfl
@[simp] theorem Group.push_checkmode (g : Group) (e : StackEntry) : (g.push e).checkmode = g.checkmode := rfl
@[simp] theorem Group.push_arg (g : Group) (e : StackEntry) : (g.push e).arg = g.arg := rfl
@[simp] theorem Group.push_level (g : Group) (e : StackEntry) : (g.push e).level = g.level := rfl
@[simp] theorem Group.push_trap (g : Group) (e : StackEntry) : (g.push e).trap = g.trap := rfl
@[simp] theorem Group.push_user (g : Group) (e : StackEntry) : (g.push e).user = g.user := rfl
@[simp] theorem Group.push_super (g : Group) (e : StackEntry) : (g.push e).super = g.super := rfl
@[simp] theorem Group.push_trapUser (g : Group) (e : StackEntry) : (g.push e).trapUser = g.trapUser := rfl
@[simp] theorem Group.push_retry (g : Group) (e : StackEntry) : (g.push e).retry = g.retry := rfl
@[simp] theorem Group.push_gang (g : Group) (e : StackEntry) : (g.push e).gang = g.gang := rfl
@[simp] theorem Group.push_nextBatch (g : Group) (e : StackEntry) : (g.push e).nextBatch = g.nextBatch := rfl
@[simp] theorem Group.push_openOps (g : Group) (e : StackEntry) : (g.push e).openOps = g.openOps := rfl
@[simp] theorem Group.push_batches (g : Group) (e : StackEntry) : (g.push e).batches = g.batches := rfl
@[simp] theorem Group.push_queues (g : Group) (e : StackEntry) : (g.push e).queues = g.queues := rfl
@[simp] theorem Group.push_records (g : Group) (e : StackEntry) : (g.push e).records = g.records := rfl
@[simp] theorem Group.push_sticky (g : Group) (e : StackEntry) : (g.push e).sticky = g.sticky := rfl
@[simp] theorem Group.push_drains (g : Group) (e : StackEntry) : (g.push e).drains = g.drains := rfl
@[simp] theorem Group.push_storeQ (g : Group) (e : StackEntry) : (g.push e).storeQ = g.storeQ := rfl
@[simp] theorem Group.push_pend (g : Group) (e : StackEntry) : (g.push e).pend = g.pend := rfl
@[simp] theorem Group.push_qfences (g : Group) (e : StackEntry) : (g.push e).qfences = g.qfences := rfl
@[simp] theorem Group.push_seq (g : Group) (e : StackEntry) : (g.push e).seq = g.seq := rfl
@[simp] theorem Group.push_wait (g : Group) (e : StackEntry) : (g.push e).wait = g.wait := rfl
@[simp] theorem Group.push_remote (g : Group) (e : StackEntry) : (g.push e).remote = g.remote := rfl
@[simp] theorem Group.push_active (g : Group) (e : StackEntry) : (g.push e).active = g.active := rfl
@[simp] theorem Group.push_readySince (g : Group) (e : StackEntry) : (g.push e).readySince = g.readySince := rfl
@[simp] theorem Group.push_enteredAt (g : Group) (e : StackEntry) : (g.push e).enteredAt = g.enteredAt := rfl
@[simp] theorem Group.push_lastIssue (g : Group) (e : StackEntry) : (g.push e).lastIssue = g.lastIssue := rfl
@[simp] theorem Group.push_stallUntil (g : Group) (e : StackEntry) : (g.push e).stallUntil = g.stallUntil := rfl
@[simp] theorem Group.push_pausedUntil (g : Group) (e : StackEntry) : (g.push e).pausedUntil = g.pausedUntil := rfl
@[simp] theorem Group.push_prods (g : Group) (e : StackEntry) : (g.push e).prods = g.prods := rfl
@[simp] theorem Group.push_hz (g : Group) (e : StackEntry) : (g.push e).hz = g.hz := rfl
@[simp] theorem Group.push_frame (g : Group) (e : StackEntry) : (g.push e).frame = g.frame := rfl
@[simp] theorem Group.push_pins (g : Group) (e : StackEntry) : (g.push e).pins = g.pins := rfl
@[simp] theorem Group.push_stopped (g : Group) (e : StackEntry) : (g.push e).stopped = g.stopped := rfl
@[simp] theorem Group.push_committed (g : Group) (e : StackEntry) : (g.push e).committed = g.committed := rfl
@[simp] theorem Group.push_long (g : Group) (e : StackEntry) : (g.push e).long = g.long := rfl
@[simp] theorem Group.push_tookTrap (g : Group) (e : StackEntry) : (g.push e).tookTrap = g.tookTrap := rfl
@[simp] theorem Group.push_posts (g : Group) (e : StackEntry) : (g.push e).posts = g.posts := rfl
@[simp] theorem Group.push_base (g : Group) (e : StackEntry) : (g.push e).base = g.base := rfl
@[simp] theorem Group.push_unitSaved (g : Group) (e : StackEntry) : (g.push e).unitSaved = g.unitSaved := rfl
@[simp] theorem Group.push_postBegun (g : Group) (e : StackEntry) : (g.push e).postBegun = g.postBegun := rfl
@[simp] theorem Group.push_noted (g : Group) (e : StackEntry) : (g.push e).noted = g.noted := rfl

/-! `Group.setS` -/

@[simp] theorem Group.setS_id (g : Group) (n : Nat) (w : Word) : (g.setS n w).id = g.id := by
  unfold Group.setS; split <;> rfl
@[simp] theorem Group.setS_live (g : Group) (n : Nat) (w : Word) : (g.setS n w).live = g.live := by
  unfold Group.setS; split <;> rfl
@[simp] theorem Group.setS_saved (g : Group) (n : Nat) (w : Word) : (g.setS n w).saved = g.saved := by
  unfold Group.setS; split <;> rfl
@[simp] theorem Group.setS_kind (g : Group) (n : Nat) (w : Word) : (g.setS n w).kind = g.kind := by
  unfold Group.setS; split <;> rfl
@[simp] theorem Group.setS_vd (g : Group) (n : Nat) (w : Word) : (g.setS n w).vd = g.vd := by
  unfold Group.setS; split <;> rfl
@[simp] theorem Group.setS_launch (g : Group) (n : Nat) (w : Word) : (g.setS n w).launch = g.launch := by
  unfold Group.setS; split <;> rfl
@[simp] theorem Group.setS_team (g : Group) (n : Nat) (w : Word) : (g.setS n w).team = g.team := by
  unfold Group.setS; split <;> rfl
@[simp] theorem Group.setS_groupid (g : Group) (n : Nat) (w : Word) : (g.setS n w).groupid = g.groupid := by
  unfold Group.setS; split <;> rfl
@[simp] theorem Group.setS_ngroups (g : Group) (n : Nat) (w : Word) : (g.setS n w).ngroups = g.ngroups := by
  unfold Group.setS; split <;> rfl
@[simp] theorem Group.setS_teamid (g : Group) (n : Nat) (w : Word) : (g.setS n w).teamid = g.teamid := by
  unfold Group.setS; split <;> rfl
@[simp] theorem Group.setS_nteams (g : Group) (n : Nat) (w : Word) : (g.setS n w).nteams = g.nteams := by
  unfold Group.setS; split <;> rfl
@[simp] theorem Group.setS_role (g : Group) (n : Nat) (w : Word) : (g.setS n w).role = g.role := by
  unfold Group.setS; split <;> rfl
@[simp] theorem Group.setS_roleidx (g : Group) (n : Nat) (w : Word) : (g.setS n w).roleidx = g.roleidx := by
  unfold Group.setS; split <;> rfl
@[simp] theorem Group.setS_core (g : Group) (n : Nat) (w : Word) : (g.setS n w).core = g.core := by
  unfold Group.setS; split <;> rfl
@[simp] theorem Group.setS_part (g : Group) (n : Nat) (w : Word) : (g.setS n w).part = g.part := by
  unfold Group.setS; split <;> rfl
@[simp] theorem Group.setS_slot (g : Group) (n : Nat) (w : Word) : (g.setS n w).slot = g.slot := by
  unfold Group.setS; split <;> rfl
@[simp] theorem Group.setS_lcore (g : Group) (n : Nat) (w : Word) : (g.setS n w).lcore = g.lcore := by
  unfold Group.setS; split <;> rfl
@[simp] theorem Group.setS_alloc (g : Group) (n : Nat) (w : Word) : (g.setS n w).alloc = g.alloc := by
  unfold Group.setS; split <;> rfl
@[simp] theorem Group.setS_winbase (g : Group) (n : Nat) (w : Word) : (g.setS n w).winbase = g.winbase := by
  unfold Group.setS; split <;> rfl
@[simp] theorem Group.setS_v (g : Group) (n : Nat) (w : Word) : (g.setS n w).v = g.v := by
  unfold Group.setS; split <;> rfl
@[simp] theorem Group.setS_s (g : Group) (n : Nat) (w : Word) : (g.setS n w).s = if n = 127 then g.s else nset 0 g.s n w := by
  unfold Group.setS; split <;> rfl
@[simp] theorem Group.setS_p (g : Group) (n : Nat) (w : Word) : (g.setS n w).p = g.p := by
  unfold Group.setS; split <;> rfl
@[simp] theorem Group.setS_q (g : Group) (n : Nat) (w : Word) : (g.setS n w).q = g.q := by
  unfold Group.setS; split <;> rfl
@[simp] theorem Group.setS_gs (g : Group) (n : Nat) (w : Word) : (g.setS n w).gs = g.gs := by
  unfold Group.setS; split <;> rfl
@[simp] theorem Group.setS_xs (g : Group) (n : Nat) (w : Word) : (g.setS n w).xs = g.xs := by
  unfold Group.setS; split <;> rfl
@[simp] theorem Group.setS_exec (g : Group) (n : Nat) (w : Word) : (g.setS n w).exec = g.exec := by
  unfold Group.setS; split <;> rfl
@[simp] theorem Group.setS_retired (g : Group) (n : Nat) (w : Word) : (g.setS n w).retired = g.retired := by
  unfold Group.setS; split <;> rfl
@[simp] theorem Group.setS_stack (g : Group) (n : Nat) (w : Word) : (g.setS n w).stack = g.stack := by
  unfold Group.setS; split <;> rfl
@[simp] theorem Group.setS_hidden (g : Group) (n : Nat) (w : Word) : (g.setS n w).hidden = g.hidden := by
  unfold Group.setS; split <;> rfl
@[simp] theorem Group.setS_pc (g : Group) (n : Nat) (w : Word) : (g.setS n w).pc = g.pc := by
  unfold Group.setS; split <;> rfl
@[simp] theorem Group.setS_clockLatch (g : Group) (n : Nat) (w : Word) : (g.setS n w).clockLatch = g.clockLatch := by
  unfold Group.setS; split <;> rfl
@[simp] theorem Group.setS_passno (g : Group) (n : Nat) (w : Word) : (g.setS n w).passno = g.passno := by
  unfold Group.setS; split <;> rfl
@[simp] theorem Group.setS_spb (g : Group) (n : Nat) (w : Word) : (g.setS n w).spb = g.spb := by
  unfold Group.setS; split <;> rfl
@[simp] theorem Group.setS_barbase (g : Group) (n : Nat) (w : Word) : (g.setS n w).barbase = g.barbase := by
  unfold Group.setS; split <;> rfl
@[simp] theorem Group.setS_trb (g : Group) (n : Nat) (w : Word) : (g.setS n w).trb = g.trb := by
  unfold Group.setS; split <;> rfl
@[simp] theorem Group.setS_utv (g : Group) (n : Nat) (w : Word) : (g.setS n w).utv = g.utv := by
  unfold Group.setS; split <;> rfl
@[simp] theorem Group.setS_stv (g : Group) (n : Nat) (w : Word) : (g.setS n w).stv = g.stv := by
  unfold Group.setS; split <;> rfl
@[simp] theorem Group.setS_gentag (g : Group) (n : Nat) (w : Word) : (g.setS n w).gentag = g.gentag := by
  unfold Group.setS; split <;> rfl
@[simp] theorem Group.setS_checkmode (g : Group) (n : Nat) (w : Word) : (g.setS n w).checkmode = g.checkmode := by
  unfold Group.setS; split <;> rfl
@[simp] theorem Group.setS_arg (g : Group) (n : Nat) (w : Word) : (g.setS n w).arg = g.arg := by
  unfold Group.setS; split <;> rfl
@[simp] theorem Group.setS_level (g : Group) (n : Nat) (w : Word) : (g.setS n w).level = g.level := by
  unfold Group.setS; split <;> rfl
@[simp] theorem Group.setS_trap (g : Group) (n : Nat) (w : Word) : (g.setS n w).trap = g.trap := by
  unfold Group.setS; split <;> rfl
@[simp] theorem Group.setS_user (g : Group) (n : Nat) (w : Word) : (g.setS n w).user = g.user := by
  unfold Group.setS; split <;> rfl
@[simp] theorem Group.setS_super (g : Group) (n : Nat) (w : Word) : (g.setS n w).super = g.super := by
  unfold Group.setS; split <;> rfl
@[simp] theorem Group.setS_trapUser (g : Group) (n : Nat) (w : Word) : (g.setS n w).trapUser = g.trapUser := by
  unfold Group.setS; split <;> rfl
@[simp] theorem Group.setS_retry (g : Group) (n : Nat) (w : Word) : (g.setS n w).retry = g.retry := by
  unfold Group.setS; split <;> rfl
@[simp] theorem Group.setS_gang (g : Group) (n : Nat) (w : Word) : (g.setS n w).gang = g.gang := by
  unfold Group.setS; split <;> rfl
@[simp] theorem Group.setS_nextBatch (g : Group) (n : Nat) (w : Word) : (g.setS n w).nextBatch = g.nextBatch := by
  unfold Group.setS; split <;> rfl
@[simp] theorem Group.setS_openOps (g : Group) (n : Nat) (w : Word) : (g.setS n w).openOps = g.openOps := by
  unfold Group.setS; split <;> rfl
@[simp] theorem Group.setS_batches (g : Group) (n : Nat) (w : Word) : (g.setS n w).batches = g.batches := by
  unfold Group.setS; split <;> rfl
@[simp] theorem Group.setS_queues (g : Group) (n : Nat) (w : Word) : (g.setS n w).queues = g.queues := by
  unfold Group.setS; split <;> rfl
@[simp] theorem Group.setS_records (g : Group) (n : Nat) (w : Word) : (g.setS n w).records = g.records := by
  unfold Group.setS; split <;> rfl
@[simp] theorem Group.setS_sticky (g : Group) (n : Nat) (w : Word) : (g.setS n w).sticky = g.sticky := by
  unfold Group.setS; split <;> rfl
@[simp] theorem Group.setS_drains (g : Group) (n : Nat) (w : Word) : (g.setS n w).drains = g.drains := by
  unfold Group.setS; split <;> rfl
@[simp] theorem Group.setS_storeQ (g : Group) (n : Nat) (w : Word) : (g.setS n w).storeQ = g.storeQ := by
  unfold Group.setS; split <;> rfl
@[simp] theorem Group.setS_pend (g : Group) (n : Nat) (w : Word) : (g.setS n w).pend = g.pend := by
  unfold Group.setS; split <;> rfl
@[simp] theorem Group.setS_qfences (g : Group) (n : Nat) (w : Word) : (g.setS n w).qfences = g.qfences := by
  unfold Group.setS; split <;> rfl
@[simp] theorem Group.setS_seq (g : Group) (n : Nat) (w : Word) : (g.setS n w).seq = g.seq := by
  unfold Group.setS; split <;> rfl
@[simp] theorem Group.setS_wait (g : Group) (n : Nat) (w : Word) : (g.setS n w).wait = g.wait := by
  unfold Group.setS; split <;> rfl
@[simp] theorem Group.setS_remote (g : Group) (n : Nat) (w : Word) : (g.setS n w).remote = g.remote := by
  unfold Group.setS; split <;> rfl
@[simp] theorem Group.setS_active (g : Group) (n : Nat) (w : Word) : (g.setS n w).active = g.active := by
  unfold Group.setS; split <;> rfl
@[simp] theorem Group.setS_readySince (g : Group) (n : Nat) (w : Word) : (g.setS n w).readySince = g.readySince := by
  unfold Group.setS; split <;> rfl
@[simp] theorem Group.setS_enteredAt (g : Group) (n : Nat) (w : Word) : (g.setS n w).enteredAt = g.enteredAt := by
  unfold Group.setS; split <;> rfl
@[simp] theorem Group.setS_lastIssue (g : Group) (n : Nat) (w : Word) : (g.setS n w).lastIssue = g.lastIssue := by
  unfold Group.setS; split <;> rfl
@[simp] theorem Group.setS_stallUntil (g : Group) (n : Nat) (w : Word) : (g.setS n w).stallUntil = g.stallUntil := by
  unfold Group.setS; split <;> rfl
@[simp] theorem Group.setS_pausedUntil (g : Group) (n : Nat) (w : Word) : (g.setS n w).pausedUntil = g.pausedUntil := by
  unfold Group.setS; split <;> rfl
@[simp] theorem Group.setS_prods (g : Group) (n : Nat) (w : Word) : (g.setS n w).prods = g.prods := by
  unfold Group.setS; split <;> rfl
@[simp] theorem Group.setS_hz (g : Group) (n : Nat) (w : Word) : (g.setS n w).hz = g.hz := by
  unfold Group.setS; split <;> rfl
@[simp] theorem Group.setS_frame (g : Group) (n : Nat) (w : Word) : (g.setS n w).frame = g.frame := by
  unfold Group.setS; split <;> rfl
@[simp] theorem Group.setS_pins (g : Group) (n : Nat) (w : Word) : (g.setS n w).pins = g.pins := by
  unfold Group.setS; split <;> rfl
@[simp] theorem Group.setS_stopped (g : Group) (n : Nat) (w : Word) : (g.setS n w).stopped = g.stopped := by
  unfold Group.setS; split <;> rfl
@[simp] theorem Group.setS_committed (g : Group) (n : Nat) (w : Word) : (g.setS n w).committed = g.committed := by
  unfold Group.setS; split <;> rfl
@[simp] theorem Group.setS_long (g : Group) (n : Nat) (w : Word) : (g.setS n w).long = g.long := by
  unfold Group.setS; split <;> rfl
@[simp] theorem Group.setS_tookTrap (g : Group) (n : Nat) (w : Word) : (g.setS n w).tookTrap = g.tookTrap := by
  unfold Group.setS; split <;> rfl
@[simp] theorem Group.setS_posts (g : Group) (n : Nat) (w : Word) : (g.setS n w).posts = g.posts := by
  unfold Group.setS; split <;> rfl
@[simp] theorem Group.setS_base (g : Group) (n : Nat) (w : Word) : (g.setS n w).base = g.base := by
  unfold Group.setS; split <;> rfl
@[simp] theorem Group.setS_unitSaved (g : Group) (n : Nat) (w : Word) : (g.setS n w).unitSaved = g.unitSaved := by
  unfold Group.setS; split <;> rfl
@[simp] theorem Group.setS_postBegun (g : Group) (n : Nat) (w : Word) : (g.setS n w).postBegun = g.postBegun := by
  unfold Group.setS; split <;> rfl
@[simp] theorem Group.setS_noted (g : Group) (n : Nat) (w : Word) : (g.setS n w).noted = g.noted := by
  unfold Group.setS; split <;> rfl

/-! `Group.setP` -/

@[simp] theorem Group.setP_id (g : Group) (n : Nat) (m : Mask) : (g.setP n m).id = g.id := by
  unfold Group.setP; split <;> rfl
@[simp] theorem Group.setP_live (g : Group) (n : Nat) (m : Mask) : (g.setP n m).live = g.live := by
  unfold Group.setP; split <;> rfl
@[simp] theorem Group.setP_saved (g : Group) (n : Nat) (m : Mask) : (g.setP n m).saved = g.saved := by
  unfold Group.setP; split <;> rfl
@[simp] theorem Group.setP_kind (g : Group) (n : Nat) (m : Mask) : (g.setP n m).kind = g.kind := by
  unfold Group.setP; split <;> rfl
@[simp] theorem Group.setP_vd (g : Group) (n : Nat) (m : Mask) : (g.setP n m).vd = g.vd := by
  unfold Group.setP; split <;> rfl
@[simp] theorem Group.setP_launch (g : Group) (n : Nat) (m : Mask) : (g.setP n m).launch = g.launch := by
  unfold Group.setP; split <;> rfl
@[simp] theorem Group.setP_team (g : Group) (n : Nat) (m : Mask) : (g.setP n m).team = g.team := by
  unfold Group.setP; split <;> rfl
@[simp] theorem Group.setP_groupid (g : Group) (n : Nat) (m : Mask) : (g.setP n m).groupid = g.groupid := by
  unfold Group.setP; split <;> rfl
@[simp] theorem Group.setP_ngroups (g : Group) (n : Nat) (m : Mask) : (g.setP n m).ngroups = g.ngroups := by
  unfold Group.setP; split <;> rfl
@[simp] theorem Group.setP_teamid (g : Group) (n : Nat) (m : Mask) : (g.setP n m).teamid = g.teamid := by
  unfold Group.setP; split <;> rfl
@[simp] theorem Group.setP_nteams (g : Group) (n : Nat) (m : Mask) : (g.setP n m).nteams = g.nteams := by
  unfold Group.setP; split <;> rfl
@[simp] theorem Group.setP_role (g : Group) (n : Nat) (m : Mask) : (g.setP n m).role = g.role := by
  unfold Group.setP; split <;> rfl
@[simp] theorem Group.setP_roleidx (g : Group) (n : Nat) (m : Mask) : (g.setP n m).roleidx = g.roleidx := by
  unfold Group.setP; split <;> rfl
@[simp] theorem Group.setP_core (g : Group) (n : Nat) (m : Mask) : (g.setP n m).core = g.core := by
  unfold Group.setP; split <;> rfl
@[simp] theorem Group.setP_part (g : Group) (n : Nat) (m : Mask) : (g.setP n m).part = g.part := by
  unfold Group.setP; split <;> rfl
@[simp] theorem Group.setP_slot (g : Group) (n : Nat) (m : Mask) : (g.setP n m).slot = g.slot := by
  unfold Group.setP; split <;> rfl
@[simp] theorem Group.setP_lcore (g : Group) (n : Nat) (m : Mask) : (g.setP n m).lcore = g.lcore := by
  unfold Group.setP; split <;> rfl
@[simp] theorem Group.setP_alloc (g : Group) (n : Nat) (m : Mask) : (g.setP n m).alloc = g.alloc := by
  unfold Group.setP; split <;> rfl
@[simp] theorem Group.setP_winbase (g : Group) (n : Nat) (m : Mask) : (g.setP n m).winbase = g.winbase := by
  unfold Group.setP; split <;> rfl
@[simp] theorem Group.setP_v (g : Group) (n : Nat) (m : Mask) : (g.setP n m).v = g.v := by
  unfold Group.setP; split <;> rfl
@[simp] theorem Group.setP_s (g : Group) (n : Nat) (m : Mask) : (g.setP n m).s = g.s := by
  unfold Group.setP; split <;> rfl
@[simp] theorem Group.setP_p (g : Group) (n : Nat) (m : Mask) : (g.setP n m).p = if n = 0 then g.p else nset 0 g.p n m := by
  unfold Group.setP; split <;> rfl
@[simp] theorem Group.setP_q (g : Group) (n : Nat) (m : Mask) : (g.setP n m).q = g.q := by
  unfold Group.setP; split <;> rfl
@[simp] theorem Group.setP_gs (g : Group) (n : Nat) (m : Mask) : (g.setP n m).gs = g.gs := by
  unfold Group.setP; split <;> rfl
@[simp] theorem Group.setP_xs (g : Group) (n : Nat) (m : Mask) : (g.setP n m).xs = g.xs := by
  unfold Group.setP; split <;> rfl
@[simp] theorem Group.setP_exec (g : Group) (n : Nat) (m : Mask) : (g.setP n m).exec = g.exec := by
  unfold Group.setP; split <;> rfl
@[simp] theorem Group.setP_retired (g : Group) (n : Nat) (m : Mask) : (g.setP n m).retired = g.retired := by
  unfold Group.setP; split <;> rfl
@[simp] theorem Group.setP_stack (g : Group) (n : Nat) (m : Mask) : (g.setP n m).stack = g.stack := by
  unfold Group.setP; split <;> rfl
@[simp] theorem Group.setP_hidden (g : Group) (n : Nat) (m : Mask) : (g.setP n m).hidden = g.hidden := by
  unfold Group.setP; split <;> rfl
@[simp] theorem Group.setP_pc (g : Group) (n : Nat) (m : Mask) : (g.setP n m).pc = g.pc := by
  unfold Group.setP; split <;> rfl
@[simp] theorem Group.setP_clockLatch (g : Group) (n : Nat) (m : Mask) : (g.setP n m).clockLatch = g.clockLatch := by
  unfold Group.setP; split <;> rfl
@[simp] theorem Group.setP_passno (g : Group) (n : Nat) (m : Mask) : (g.setP n m).passno = g.passno := by
  unfold Group.setP; split <;> rfl
@[simp] theorem Group.setP_spb (g : Group) (n : Nat) (m : Mask) : (g.setP n m).spb = g.spb := by
  unfold Group.setP; split <;> rfl
@[simp] theorem Group.setP_barbase (g : Group) (n : Nat) (m : Mask) : (g.setP n m).barbase = g.barbase := by
  unfold Group.setP; split <;> rfl
@[simp] theorem Group.setP_trb (g : Group) (n : Nat) (m : Mask) : (g.setP n m).trb = g.trb := by
  unfold Group.setP; split <;> rfl
@[simp] theorem Group.setP_utv (g : Group) (n : Nat) (m : Mask) : (g.setP n m).utv = g.utv := by
  unfold Group.setP; split <;> rfl
@[simp] theorem Group.setP_stv (g : Group) (n : Nat) (m : Mask) : (g.setP n m).stv = g.stv := by
  unfold Group.setP; split <;> rfl
@[simp] theorem Group.setP_gentag (g : Group) (n : Nat) (m : Mask) : (g.setP n m).gentag = g.gentag := by
  unfold Group.setP; split <;> rfl
@[simp] theorem Group.setP_checkmode (g : Group) (n : Nat) (m : Mask) : (g.setP n m).checkmode = g.checkmode := by
  unfold Group.setP; split <;> rfl
@[simp] theorem Group.setP_arg (g : Group) (n : Nat) (m : Mask) : (g.setP n m).arg = g.arg := by
  unfold Group.setP; split <;> rfl
@[simp] theorem Group.setP_level (g : Group) (n : Nat) (m : Mask) : (g.setP n m).level = g.level := by
  unfold Group.setP; split <;> rfl
@[simp] theorem Group.setP_trap (g : Group) (n : Nat) (m : Mask) : (g.setP n m).trap = g.trap := by
  unfold Group.setP; split <;> rfl
@[simp] theorem Group.setP_user (g : Group) (n : Nat) (m : Mask) : (g.setP n m).user = g.user := by
  unfold Group.setP; split <;> rfl
@[simp] theorem Group.setP_super (g : Group) (n : Nat) (m : Mask) : (g.setP n m).super = g.super := by
  unfold Group.setP; split <;> rfl
@[simp] theorem Group.setP_trapUser (g : Group) (n : Nat) (m : Mask) : (g.setP n m).trapUser = g.trapUser := by
  unfold Group.setP; split <;> rfl
@[simp] theorem Group.setP_retry (g : Group) (n : Nat) (m : Mask) : (g.setP n m).retry = g.retry := by
  unfold Group.setP; split <;> rfl
@[simp] theorem Group.setP_gang (g : Group) (n : Nat) (m : Mask) : (g.setP n m).gang = g.gang := by
  unfold Group.setP; split <;> rfl
@[simp] theorem Group.setP_nextBatch (g : Group) (n : Nat) (m : Mask) : (g.setP n m).nextBatch = g.nextBatch := by
  unfold Group.setP; split <;> rfl
@[simp] theorem Group.setP_openOps (g : Group) (n : Nat) (m : Mask) : (g.setP n m).openOps = g.openOps := by
  unfold Group.setP; split <;> rfl
@[simp] theorem Group.setP_batches (g : Group) (n : Nat) (m : Mask) : (g.setP n m).batches = g.batches := by
  unfold Group.setP; split <;> rfl
@[simp] theorem Group.setP_queues (g : Group) (n : Nat) (m : Mask) : (g.setP n m).queues = g.queues := by
  unfold Group.setP; split <;> rfl
@[simp] theorem Group.setP_records (g : Group) (n : Nat) (m : Mask) : (g.setP n m).records = g.records := by
  unfold Group.setP; split <;> rfl
@[simp] theorem Group.setP_sticky (g : Group) (n : Nat) (m : Mask) : (g.setP n m).sticky = g.sticky := by
  unfold Group.setP; split <;> rfl
@[simp] theorem Group.setP_drains (g : Group) (n : Nat) (m : Mask) : (g.setP n m).drains = g.drains := by
  unfold Group.setP; split <;> rfl
@[simp] theorem Group.setP_storeQ (g : Group) (n : Nat) (m : Mask) : (g.setP n m).storeQ = g.storeQ := by
  unfold Group.setP; split <;> rfl
@[simp] theorem Group.setP_pend (g : Group) (n : Nat) (m : Mask) : (g.setP n m).pend = g.pend := by
  unfold Group.setP; split <;> rfl
@[simp] theorem Group.setP_qfences (g : Group) (n : Nat) (m : Mask) : (g.setP n m).qfences = g.qfences := by
  unfold Group.setP; split <;> rfl
@[simp] theorem Group.setP_seq (g : Group) (n : Nat) (m : Mask) : (g.setP n m).seq = g.seq := by
  unfold Group.setP; split <;> rfl
@[simp] theorem Group.setP_wait (g : Group) (n : Nat) (m : Mask) : (g.setP n m).wait = g.wait := by
  unfold Group.setP; split <;> rfl
@[simp] theorem Group.setP_remote (g : Group) (n : Nat) (m : Mask) : (g.setP n m).remote = g.remote := by
  unfold Group.setP; split <;> rfl
@[simp] theorem Group.setP_active (g : Group) (n : Nat) (m : Mask) : (g.setP n m).active = g.active := by
  unfold Group.setP; split <;> rfl
@[simp] theorem Group.setP_readySince (g : Group) (n : Nat) (m : Mask) : (g.setP n m).readySince = g.readySince := by
  unfold Group.setP; split <;> rfl
@[simp] theorem Group.setP_enteredAt (g : Group) (n : Nat) (m : Mask) : (g.setP n m).enteredAt = g.enteredAt := by
  unfold Group.setP; split <;> rfl
@[simp] theorem Group.setP_lastIssue (g : Group) (n : Nat) (m : Mask) : (g.setP n m).lastIssue = g.lastIssue := by
  unfold Group.setP; split <;> rfl
@[simp] theorem Group.setP_stallUntil (g : Group) (n : Nat) (m : Mask) : (g.setP n m).stallUntil = g.stallUntil := by
  unfold Group.setP; split <;> rfl
@[simp] theorem Group.setP_pausedUntil (g : Group) (n : Nat) (m : Mask) : (g.setP n m).pausedUntil = g.pausedUntil := by
  unfold Group.setP; split <;> rfl
@[simp] theorem Group.setP_prods (g : Group) (n : Nat) (m : Mask) : (g.setP n m).prods = g.prods := by
  unfold Group.setP; split <;> rfl
@[simp] theorem Group.setP_hz (g : Group) (n : Nat) (m : Mask) : (g.setP n m).hz = g.hz := by
  unfold Group.setP; split <;> rfl
@[simp] theorem Group.setP_frame (g : Group) (n : Nat) (m : Mask) : (g.setP n m).frame = g.frame := by
  unfold Group.setP; split <;> rfl
@[simp] theorem Group.setP_pins (g : Group) (n : Nat) (m : Mask) : (g.setP n m).pins = g.pins := by
  unfold Group.setP; split <;> rfl
@[simp] theorem Group.setP_stopped (g : Group) (n : Nat) (m : Mask) : (g.setP n m).stopped = g.stopped := by
  unfold Group.setP; split <;> rfl
@[simp] theorem Group.setP_committed (g : Group) (n : Nat) (m : Mask) : (g.setP n m).committed = g.committed := by
  unfold Group.setP; split <;> rfl
@[simp] theorem Group.setP_long (g : Group) (n : Nat) (m : Mask) : (g.setP n m).long = g.long := by
  unfold Group.setP; split <;> rfl
@[simp] theorem Group.setP_tookTrap (g : Group) (n : Nat) (m : Mask) : (g.setP n m).tookTrap = g.tookTrap := by
  unfold Group.setP; split <;> rfl
@[simp] theorem Group.setP_posts (g : Group) (n : Nat) (m : Mask) : (g.setP n m).posts = g.posts := by
  unfold Group.setP; split <;> rfl
@[simp] theorem Group.setP_base (g : Group) (n : Nat) (m : Mask) : (g.setP n m).base = g.base := by
  unfold Group.setP; split <;> rfl
@[simp] theorem Group.setP_unitSaved (g : Group) (n : Nat) (m : Mask) : (g.setP n m).unitSaved = g.unitSaved := by
  unfold Group.setP; split <;> rfl
@[simp] theorem Group.setP_postBegun (g : Group) (n : Nat) (m : Mask) : (g.setP n m).postBegun = g.postBegun := by
  unfold Group.setP; split <;> rfl
@[simp] theorem Group.setP_noted (g : Group) (n : Nat) (m : Mask) : (g.setP n m).noted = g.noted := by
  unfold Group.setP; split <;> rfl

/-! `Group.setQ` -/

@[simp] theorem Group.setQ_id (g : Group) (n : Nat) (b : Bool) : (g.setQ n b).id = g.id := by
  unfold Group.setQ; split <;> rfl
@[simp] theorem Group.setQ_live (g : Group) (n : Nat) (b : Bool) : (g.setQ n b).live = g.live := by
  unfold Group.setQ; split <;> rfl
@[simp] theorem Group.setQ_saved (g : Group) (n : Nat) (b : Bool) : (g.setQ n b).saved = g.saved := by
  unfold Group.setQ; split <;> rfl
@[simp] theorem Group.setQ_kind (g : Group) (n : Nat) (b : Bool) : (g.setQ n b).kind = g.kind := by
  unfold Group.setQ; split <;> rfl
@[simp] theorem Group.setQ_vd (g : Group) (n : Nat) (b : Bool) : (g.setQ n b).vd = g.vd := by
  unfold Group.setQ; split <;> rfl
@[simp] theorem Group.setQ_launch (g : Group) (n : Nat) (b : Bool) : (g.setQ n b).launch = g.launch := by
  unfold Group.setQ; split <;> rfl
@[simp] theorem Group.setQ_team (g : Group) (n : Nat) (b : Bool) : (g.setQ n b).team = g.team := by
  unfold Group.setQ; split <;> rfl
@[simp] theorem Group.setQ_groupid (g : Group) (n : Nat) (b : Bool) : (g.setQ n b).groupid = g.groupid := by
  unfold Group.setQ; split <;> rfl
@[simp] theorem Group.setQ_ngroups (g : Group) (n : Nat) (b : Bool) : (g.setQ n b).ngroups = g.ngroups := by
  unfold Group.setQ; split <;> rfl
@[simp] theorem Group.setQ_teamid (g : Group) (n : Nat) (b : Bool) : (g.setQ n b).teamid = g.teamid := by
  unfold Group.setQ; split <;> rfl
@[simp] theorem Group.setQ_nteams (g : Group) (n : Nat) (b : Bool) : (g.setQ n b).nteams = g.nteams := by
  unfold Group.setQ; split <;> rfl
@[simp] theorem Group.setQ_role (g : Group) (n : Nat) (b : Bool) : (g.setQ n b).role = g.role := by
  unfold Group.setQ; split <;> rfl
@[simp] theorem Group.setQ_roleidx (g : Group) (n : Nat) (b : Bool) : (g.setQ n b).roleidx = g.roleidx := by
  unfold Group.setQ; split <;> rfl
@[simp] theorem Group.setQ_core (g : Group) (n : Nat) (b : Bool) : (g.setQ n b).core = g.core := by
  unfold Group.setQ; split <;> rfl
@[simp] theorem Group.setQ_part (g : Group) (n : Nat) (b : Bool) : (g.setQ n b).part = g.part := by
  unfold Group.setQ; split <;> rfl
@[simp] theorem Group.setQ_slot (g : Group) (n : Nat) (b : Bool) : (g.setQ n b).slot = g.slot := by
  unfold Group.setQ; split <;> rfl
@[simp] theorem Group.setQ_lcore (g : Group) (n : Nat) (b : Bool) : (g.setQ n b).lcore = g.lcore := by
  unfold Group.setQ; split <;> rfl
@[simp] theorem Group.setQ_alloc (g : Group) (n : Nat) (b : Bool) : (g.setQ n b).alloc = g.alloc := by
  unfold Group.setQ; split <;> rfl
@[simp] theorem Group.setQ_winbase (g : Group) (n : Nat) (b : Bool) : (g.setQ n b).winbase = g.winbase := by
  unfold Group.setQ; split <;> rfl
@[simp] theorem Group.setQ_v (g : Group) (n : Nat) (b : Bool) : (g.setQ n b).v = g.v := by
  unfold Group.setQ; split <;> rfl
@[simp] theorem Group.setQ_s (g : Group) (n : Nat) (b : Bool) : (g.setQ n b).s = g.s := by
  unfold Group.setQ; split <;> rfl
@[simp] theorem Group.setQ_p (g : Group) (n : Nat) (b : Bool) : (g.setQ n b).p = g.p := by
  unfold Group.setQ; split <;> rfl
@[simp] theorem Group.setQ_q (g : Group) (n : Nat) (b : Bool) : (g.setQ n b).q = if n = 0 || 16 ≤ n then g.q else if b then g.q ||| (1#16 <<< n) else g.q &&& ~~~(1#16 <<< n) := by
  unfold Group.setQ; split <;> rfl
@[simp] theorem Group.setQ_gs (g : Group) (n : Nat) (b : Bool) : (g.setQ n b).gs = g.gs := by
  unfold Group.setQ; split <;> rfl
@[simp] theorem Group.setQ_xs (g : Group) (n : Nat) (b : Bool) : (g.setQ n b).xs = g.xs := by
  unfold Group.setQ; split <;> rfl
@[simp] theorem Group.setQ_exec (g : Group) (n : Nat) (b : Bool) : (g.setQ n b).exec = g.exec := by
  unfold Group.setQ; split <;> rfl
@[simp] theorem Group.setQ_retired (g : Group) (n : Nat) (b : Bool) : (g.setQ n b).retired = g.retired := by
  unfold Group.setQ; split <;> rfl
@[simp] theorem Group.setQ_stack (g : Group) (n : Nat) (b : Bool) : (g.setQ n b).stack = g.stack := by
  unfold Group.setQ; split <;> rfl
@[simp] theorem Group.setQ_hidden (g : Group) (n : Nat) (b : Bool) : (g.setQ n b).hidden = g.hidden := by
  unfold Group.setQ; split <;> rfl
@[simp] theorem Group.setQ_pc (g : Group) (n : Nat) (b : Bool) : (g.setQ n b).pc = g.pc := by
  unfold Group.setQ; split <;> rfl
@[simp] theorem Group.setQ_clockLatch (g : Group) (n : Nat) (b : Bool) : (g.setQ n b).clockLatch = g.clockLatch := by
  unfold Group.setQ; split <;> rfl
@[simp] theorem Group.setQ_passno (g : Group) (n : Nat) (b : Bool) : (g.setQ n b).passno = g.passno := by
  unfold Group.setQ; split <;> rfl
@[simp] theorem Group.setQ_spb (g : Group) (n : Nat) (b : Bool) : (g.setQ n b).spb = g.spb := by
  unfold Group.setQ; split <;> rfl
@[simp] theorem Group.setQ_barbase (g : Group) (n : Nat) (b : Bool) : (g.setQ n b).barbase = g.barbase := by
  unfold Group.setQ; split <;> rfl
@[simp] theorem Group.setQ_trb (g : Group) (n : Nat) (b : Bool) : (g.setQ n b).trb = g.trb := by
  unfold Group.setQ; split <;> rfl
@[simp] theorem Group.setQ_utv (g : Group) (n : Nat) (b : Bool) : (g.setQ n b).utv = g.utv := by
  unfold Group.setQ; split <;> rfl
@[simp] theorem Group.setQ_stv (g : Group) (n : Nat) (b : Bool) : (g.setQ n b).stv = g.stv := by
  unfold Group.setQ; split <;> rfl
@[simp] theorem Group.setQ_gentag (g : Group) (n : Nat) (b : Bool) : (g.setQ n b).gentag = g.gentag := by
  unfold Group.setQ; split <;> rfl
@[simp] theorem Group.setQ_checkmode (g : Group) (n : Nat) (b : Bool) : (g.setQ n b).checkmode = g.checkmode := by
  unfold Group.setQ; split <;> rfl
@[simp] theorem Group.setQ_arg (g : Group) (n : Nat) (b : Bool) : (g.setQ n b).arg = g.arg := by
  unfold Group.setQ; split <;> rfl
@[simp] theorem Group.setQ_level (g : Group) (n : Nat) (b : Bool) : (g.setQ n b).level = g.level := by
  unfold Group.setQ; split <;> rfl
@[simp] theorem Group.setQ_trap (g : Group) (n : Nat) (b : Bool) : (g.setQ n b).trap = g.trap := by
  unfold Group.setQ; split <;> rfl
@[simp] theorem Group.setQ_user (g : Group) (n : Nat) (b : Bool) : (g.setQ n b).user = g.user := by
  unfold Group.setQ; split <;> rfl
@[simp] theorem Group.setQ_super (g : Group) (n : Nat) (b : Bool) : (g.setQ n b).super = g.super := by
  unfold Group.setQ; split <;> rfl
@[simp] theorem Group.setQ_trapUser (g : Group) (n : Nat) (b : Bool) : (g.setQ n b).trapUser = g.trapUser := by
  unfold Group.setQ; split <;> rfl
@[simp] theorem Group.setQ_retry (g : Group) (n : Nat) (b : Bool) : (g.setQ n b).retry = g.retry := by
  unfold Group.setQ; split <;> rfl
@[simp] theorem Group.setQ_gang (g : Group) (n : Nat) (b : Bool) : (g.setQ n b).gang = g.gang := by
  unfold Group.setQ; split <;> rfl
@[simp] theorem Group.setQ_nextBatch (g : Group) (n : Nat) (b : Bool) : (g.setQ n b).nextBatch = g.nextBatch := by
  unfold Group.setQ; split <;> rfl
@[simp] theorem Group.setQ_openOps (g : Group) (n : Nat) (b : Bool) : (g.setQ n b).openOps = g.openOps := by
  unfold Group.setQ; split <;> rfl
@[simp] theorem Group.setQ_batches (g : Group) (n : Nat) (b : Bool) : (g.setQ n b).batches = g.batches := by
  unfold Group.setQ; split <;> rfl
@[simp] theorem Group.setQ_queues (g : Group) (n : Nat) (b : Bool) : (g.setQ n b).queues = g.queues := by
  unfold Group.setQ; split <;> rfl
@[simp] theorem Group.setQ_records (g : Group) (n : Nat) (b : Bool) : (g.setQ n b).records = g.records := by
  unfold Group.setQ; split <;> rfl
@[simp] theorem Group.setQ_sticky (g : Group) (n : Nat) (b : Bool) : (g.setQ n b).sticky = g.sticky := by
  unfold Group.setQ; split <;> rfl
@[simp] theorem Group.setQ_drains (g : Group) (n : Nat) (b : Bool) : (g.setQ n b).drains = g.drains := by
  unfold Group.setQ; split <;> rfl
@[simp] theorem Group.setQ_storeQ (g : Group) (n : Nat) (b : Bool) : (g.setQ n b).storeQ = g.storeQ := by
  unfold Group.setQ; split <;> rfl
@[simp] theorem Group.setQ_pend (g : Group) (n : Nat) (b : Bool) : (g.setQ n b).pend = g.pend := by
  unfold Group.setQ; split <;> rfl
@[simp] theorem Group.setQ_qfences (g : Group) (n : Nat) (b : Bool) : (g.setQ n b).qfences = g.qfences := by
  unfold Group.setQ; split <;> rfl
@[simp] theorem Group.setQ_seq (g : Group) (n : Nat) (b : Bool) : (g.setQ n b).seq = g.seq := by
  unfold Group.setQ; split <;> rfl
@[simp] theorem Group.setQ_wait (g : Group) (n : Nat) (b : Bool) : (g.setQ n b).wait = g.wait := by
  unfold Group.setQ; split <;> rfl
@[simp] theorem Group.setQ_remote (g : Group) (n : Nat) (b : Bool) : (g.setQ n b).remote = g.remote := by
  unfold Group.setQ; split <;> rfl
@[simp] theorem Group.setQ_active (g : Group) (n : Nat) (b : Bool) : (g.setQ n b).active = g.active := by
  unfold Group.setQ; split <;> rfl
@[simp] theorem Group.setQ_readySince (g : Group) (n : Nat) (b : Bool) : (g.setQ n b).readySince = g.readySince := by
  unfold Group.setQ; split <;> rfl
@[simp] theorem Group.setQ_enteredAt (g : Group) (n : Nat) (b : Bool) : (g.setQ n b).enteredAt = g.enteredAt := by
  unfold Group.setQ; split <;> rfl
@[simp] theorem Group.setQ_lastIssue (g : Group) (n : Nat) (b : Bool) : (g.setQ n b).lastIssue = g.lastIssue := by
  unfold Group.setQ; split <;> rfl
@[simp] theorem Group.setQ_stallUntil (g : Group) (n : Nat) (b : Bool) : (g.setQ n b).stallUntil = g.stallUntil := by
  unfold Group.setQ; split <;> rfl
@[simp] theorem Group.setQ_pausedUntil (g : Group) (n : Nat) (b : Bool) : (g.setQ n b).pausedUntil = g.pausedUntil := by
  unfold Group.setQ; split <;> rfl
@[simp] theorem Group.setQ_prods (g : Group) (n : Nat) (b : Bool) : (g.setQ n b).prods = g.prods := by
  unfold Group.setQ; split <;> rfl
@[simp] theorem Group.setQ_hz (g : Group) (n : Nat) (b : Bool) : (g.setQ n b).hz = g.hz := by
  unfold Group.setQ; split <;> rfl
@[simp] theorem Group.setQ_frame (g : Group) (n : Nat) (b : Bool) : (g.setQ n b).frame = g.frame := by
  unfold Group.setQ; split <;> rfl
@[simp] theorem Group.setQ_pins (g : Group) (n : Nat) (b : Bool) : (g.setQ n b).pins = g.pins := by
  unfold Group.setQ; split <;> rfl
@[simp] theorem Group.setQ_stopped (g : Group) (n : Nat) (b : Bool) : (g.setQ n b).stopped = g.stopped := by
  unfold Group.setQ; split <;> rfl
@[simp] theorem Group.setQ_committed (g : Group) (n : Nat) (b : Bool) : (g.setQ n b).committed = g.committed := by
  unfold Group.setQ; split <;> rfl
@[simp] theorem Group.setQ_long (g : Group) (n : Nat) (b : Bool) : (g.setQ n b).long = g.long := by
  unfold Group.setQ; split <;> rfl
@[simp] theorem Group.setQ_tookTrap (g : Group) (n : Nat) (b : Bool) : (g.setQ n b).tookTrap = g.tookTrap := by
  unfold Group.setQ; split <;> rfl
@[simp] theorem Group.setQ_posts (g : Group) (n : Nat) (b : Bool) : (g.setQ n b).posts = g.posts := by
  unfold Group.setQ; split <;> rfl
@[simp] theorem Group.setQ_base (g : Group) (n : Nat) (b : Bool) : (g.setQ n b).base = g.base := by
  unfold Group.setQ; split <;> rfl
@[simp] theorem Group.setQ_unitSaved (g : Group) (n : Nat) (b : Bool) : (g.setQ n b).unitSaved = g.unitSaved := by
  unfold Group.setQ; split <;> rfl
@[simp] theorem Group.setQ_postBegun (g : Group) (n : Nat) (b : Bool) : (g.setQ n b).postBegun = g.postBegun := by
  unfold Group.setQ; split <;> rfl
@[simp] theorem Group.setQ_noted (g : Group) (n : Nat) (b : Bool) : (g.setQ n b).noted = g.noted := by
  unfold Group.setQ; split <;> rfl

end Sys2Proof.Machine
end

