-- ==== Sys2Proof/Laws/Ops.lean ====
section
/-! SUPPORT. What each shared operation can do, once: completing, taking a trap, resume(), and the two shapes of compute
instructions (05 R46-R51, 11 R125, R126, R154, 25 R316-R318). -/

namespace Sys2Proof.Machine

/-! Vectors and masks. -/

/-- A lane of a vector given lane by lane. -/
@[simp] theorem lanes_lane (f : Nat → Word) {k : Nat} (h : k < 32) : (lanes f).lane k = f k := by
  simp [lanes, LaneVec.lane, h]

/-- A register that was written reads as written. -/
@[simp] theorem Group.vreg_setV (g : Group) (n m : Nat) (x : LaneVec) :
    (g.setV n x).vreg m = if m = n then x else g.vreg m := nget_nset zeroVec x n m g.v

/-- R46: a vector destination that is written, lane by lane; 127 discards. -/
theorem Group.putLanes_vreg (g : Group) (d n k : Nat) (m : Mask) (val : Nat → Word) (h : k < 32) :
    ((g.putLanes d m val).vreg n).lane k =
      if d ≤ 111 ∧ n = g.phys d ∧ hasLane m k then val k else (g.vreg n).lane k := by
  by_cases hd : d ≤ 111
  · simp only [Group.putLanes, hd, if_true, Group.vreg_setV, true_and]
    by_cases hn : n = g.phys d
    · subst hn
      simp only [if_true, true_and, lanes_lane _ h]
    · simp only [hn, if_false, false_and]
  · simp only [Group.putLanes, hd, if_false, false_and]

/-- R46: writing a vector destination changes the vector registers alone. -/
theorem Group.putLanes_only (g : Group) (d : Nat) (m : Mask) (val : Nat → Word) :
    g.putLanes d m val = { g with v := (g.putLanes d m val).v } := by
  by_cases hd : d ≤ 111
  · simp only [Group.putLanes, hd, if_true]
    generalize lanes _ = x
    rfl
  · simp only [Group.putLanes, hd, if_false]

/-- R48: a uniform destination that is written; 127 discards. -/
theorem Group.setS_sreg (g : Group) (d n : Nat) (w : Word) :
    nget 0 (g.setS d w).s n = if n = d ∧ n ≠ 127 then w else nget 0 g.s n := by
  unfold Group.setS
  by_cases hd : d = 127
  · rw [if_pos hd]
    by_cases hn : n = d
    · have h127 : ¬ (n = d ∧ n ≠ 127) := by omega
      rw [if_neg h127]
    · rw [if_neg fun h => hn h.1]
  · rw [if_neg hd]
    show nget 0 (nset 0 g.s d w) n = _
    rw [nget_nset]
    by_cases hn : n = d
    · rw [if_pos hn, if_pos ⟨hn, by omega⟩]
    · rw [if_neg hn, if_neg fun h => hn h.1]

/-- R48: writing a uniform register changes the uniform registers alone. -/
theorem Group.setS_only (g : Group) (d : Nat) (w : Word) : g.setS d w = { g with s := (g.setS d w).s } := by
  unfold Group.setS
  split <;> rfl

/-- R49: writing a predicate changes the predicates alone. -/
theorem Group.putPred_only (g : Group) (n : Nat) (m : Mask) (val : Nat → Bool) :
    g.putPred n m val = { g with p := (g.putPred n m val).p } := by
  unfold Group.putPred Group.setP
  split <;> rfl

/-- R49: writing a uniform predicate changes the uniform predicates alone. -/
theorem Group.setQ_only (g : Group) (n : Nat) (b : Bool) : g.setQ n b = { g with q := (g.setQ n b).q } := by
  unfold Group.setQ
  split <;> rfl

/-! Completing. -/

/-- An instruction that is no retry completes by moving the PC to the next slot. -/
theorem State.complete_eq (s : State) (h : s.grp.retry = none) :
    s.complete = { s with grp := { s.grp with pc := nextSlot s.grp.pc } } := by
  simp only [State.complete, State.completeAt, h]

/-- An L-form that is no retry completes by moving the PC past its literal. -/
theorem State.completeL_eq (s : State) (h : s.grp.retry = none) :
    s.completeL = { s with grp := { s.grp with pc := nextSlot (s.grp.pc + 4) } } := by
  simp only [State.completeL, State.completeAt, h]

/-- R318: a retry that completes takes SMASK − RETIRED, where some lane of it is left. -/
theorem State.complete_retry (s : State) (r : Retry) (h : s.grp.retry = some r) (hm : minus r.smask s.grp.retired ≠ 0) :
    s.complete = { s with grp := { s.grp with
      pc := nextSlot s.grp.pc, retry := none, exec := minus r.smask s.grp.retired } } := by
  simp only [State.complete, State.completeAt, h, hm, if_false]

/-! Targets (R89). -/

/-- R89: an address falls on a frame header where it is a multiple of 32. -/
theorem onHeader_iff (a : DWord) : onHeader a = true ↔ a.toNat % 32 = 0 := by
  unfold onHeader
  rw [beq_iff_eq, ← BitVec.toNat_inj]
  simp [BitVec.extractLsb'_toNat]

/-! resume() (R154). -/

/-- R154: the stack that resume() leaves is what stood below the entry it took. -/
theorem resumeFrom_suffix (r : Mask) (n : Nat) : ∀ (st : List StackEntry) {st' : List StackEntry} {pc : DWord} {m : Mask},
    resumeFrom r n st = some (st', pc, m) → st'.length < st.length ∧ m = m ∧ ∃ pre, st = pre ++ st'
  | [], _, _, _, h => by simp [resumeFrom] at h
  | e :: rest, st', pc, m, h => by
    unfold resumeFrom at h
    split at h
    · cases h
    · split at h
      · cases h; exact ⟨by simp, rfl, [e], rfl⟩
      · split at h
        · cases h; exact ⟨by simp, rfl, [e], rfl⟩
        · obtain ⟨hl, _, pre, hp⟩ := resumeFrom_suffix r n rest h
          exact ⟨by simp only [List.length_cons]; omega, rfl, e :: pre, by rw [hp]; rfl⟩

/-! Taking a trap (R316, R317). -/

/-- R316: where a trap goes. The group halts in the supervisor handler, or where the trap is the supervisor's and STV is 0; else it
enters the user handler, for a user trap at program level with UTV, or the supervisor handler, a user trap of the user handler
as cause 0x29. -/
theorem Group.takeTrap_cases (g : Group) (cause detail : Nat) (m : Mask) (faddr : DWord) :
    (g.takeTrap cause detail m faddr =
        ({ g with
          trap := { cause := causeWord cause detail, pc := g.pc, mask := m, faddr := faddr }, tookTrap := some cause }, true) ∧
      (g.level = .supervisor ∨ g.stv = 0)) ∨
    (g.takeTrap cause detail m faddr = (g.enter .user cause detail m faddr, false) ∧
      g.level = .program ∧ cause < 0x20 ∧ g.utv ≠ 0) ∨
    (g.takeTrap cause detail m faddr = (g.enter .supervisor cause detail m faddr, false) ∧ g.stv ≠ 0 ∧
      ((g.level = .program ∧ ¬ (cause < 0x20 ∧ g.utv ≠ 0)) ∨ (g.level = .user ∧ ¬ cause < 0x20))) ∨
    (g.takeTrap cause detail m faddr = ({ g.enter .supervisor 0x29 cause m faddr with tookTrap := some cause }, false) ∧
      g.stv ≠ 0 ∧ g.level = .user ∧ cause < 0x20) := by
  by_cases hs : g.stv = 0
  · cases hl : g.level with
    | supervisor => exact .inl ⟨by simp only [Group.takeTrap, hl], .inl rfl⟩
    | user => exact .inl ⟨by simp only [Group.takeTrap, hl, hs, if_true, ite_self], .inr hs⟩
    | program =>
      by_cases hc : cause < 0x20 ∧ g.utv ≠ 0
      · exact .inr (.inl ⟨by simp only [Group.takeTrap, hl, hc.1, hc.2, ne_eq, not_false_eq_true, decide_true, Bool.and_self, if_true], rfl, hc⟩)
      · exact .inl ⟨by
          have : (decide (cause < 0x20) && decide (g.utv ≠ 0)) = false := by simpa using hc
          simp only [Group.takeTrap, hl, hs, this, if_true, Bool.false_eq_true, if_false], .inr hs⟩
  · cases hl : g.level with
    | supervisor => exact .inl ⟨by simp only [Group.takeTrap, hl], .inl rfl⟩
    | user =>
      by_cases hc : cause < 0x20
      · exact .inr (.inr (.inr ⟨by simp only [Group.takeTrap, hl, hs, hc, if_true, if_false], hs, rfl, hc⟩))
      · exact .inr (.inr (.inl ⟨by simp only [Group.takeTrap, hl, hs, hc, if_false]; rfl, hs, .inr ⟨rfl, hc⟩⟩))
    | program =>
      by_cases hc : cause < 0x20 ∧ g.utv ≠ 0
      · exact .inr (.inl ⟨by simp only [Group.takeTrap, hl, hc.1, hc.2, ne_eq, not_false_eq_true, decide_true, Bool.and_self, if_true], rfl, hc⟩)
      · exact .inr (.inr (.inl ⟨by
          have : (decide (cause < 0x20) && decide (g.utv ≠ 0)) = false := by simpa using hc
          simp only [Group.takeTrap, hl, hs, this, Bool.false_eq_true, if_false]; rfl, hs, .inl ⟨rfl, hc⟩⟩))

/-- R317: entering a handler keeps every register file, the stack, the queues and the group's place. -/
theorem Group.enter_frame (g : Group) (lvl : Level) (cause detail : Nat) (m : Mask) (faddr : DWord) :
    let h := g.enter lvl cause detail m faddr
    h.v = g.v ∧ h.s = g.s ∧ h.p = g.p ∧ h.q = g.q ∧ h.gs = g.gs ∧ h.xs = g.xs ∧ h.stack = g.stack ∧ h.queues = g.queues ∧
      h.storeQ = g.storeQ ∧ h.pend = g.pend ∧ h.retired = g.retired ∧ h.id = g.id ∧ h.live = g.live ∧ h.stv = g.stv ∧
      h.exec = m ∧ h.hidden = g.stack.length := by
  refine ⟨rfl, rfl, rfl, rfl, rfl, rfl, rfl, rfl, rfl, rfl, rfl, rfl, rfl, rfl, rfl, rfl⟩

/-- A trap that is taken changes the group alone. -/
theorem State.trap_enters (s : State) (cause detail : Nat) (m : Mask) (faddr : DWord)
    (h : (s.grp.takeTrap cause detail m faddr).2 = false) :
    s.trap cause detail m faddr = { s with grp := (s.grp.takeTrap cause detail m faddr).1 } := by
  unfold State.trap
  simp only [h, Bool.false_eq_true, if_false]

/-! The shapes of compute instructions (R125, R126). -/

/-- What a vector instruction can do. -/
theorem State.vecOp_cases (s : State) (guard : Nat) (os : List Opnd) (fin : State → State) (f : Mask → Group → Group) :
    (s.grp.act guard = 0 ∧ s.vecOp guard os fin f = .next (fin s)) ∨
    (s.grp.act guard ≠ 0 ∧ ∃ c, s.grp.vecFault os = some c ∧ s.vecOp guard os fin f = .next (s.trap c 0 (s.grp.act guard) 0)) ∨
    (s.grp.act guard ≠ 0 ∧ s.grp.vecFault os = none ∧
      s.vecOp guard os fin f = .next (fin { s with grp := f (s.grp.act guard) s.grp })) := by
  unfold State.vecOp
  by_cases hm : s.grp.act guard = 0
  · exact .inl ⟨hm, by simp only [hm, if_true]⟩
  · cases hv : s.grp.vecFault os with
    | none => exact .inr (.inr ⟨hm, rfl, by simp only [hm, if_false]; rfl⟩)
    | some c => exact .inr (.inl ⟨hm, c, rfl, by simp only [hm, if_false]⟩)

/-- What a uniform instruction can do. -/
theorem State.uniOp_cases (s : State) (guard : Nat) (os : List Opnd) (fin : State → State) (f : Group → Group) :
    (s.grp.uniGuard guard = none ∧ s.uniOp guard os fin f = .next (s.trap causeOperand 0 s.grp.exec 0)) ∨
    (s.grp.uniGuard guard = some false ∧ s.uniOp guard os fin f = .next (fin s)) ∨
    (s.grp.uniGuard guard = some true ∧ os.any Opnd.uniIllegal = true ∧
      s.uniOp guard os fin f = .next (s.trap causeOperand 0 s.grp.exec 0)) ∨
    (s.grp.uniGuard guard = some true ∧ os.any Opnd.uniIllegal = false ∧
      s.uniOp guard os fin f = .next (fin { s with grp := f s.grp })) := by
  unfold State.uniOp
  match h : s.grp.uniGuard guard with
  | none => exact .inl ⟨rfl, rfl⟩
  | some false => exact .inr (.inl ⟨rfl, rfl⟩)
  | some true =>
    cases ho : os.any Opnd.uniIllegal with
    | true => exact .inr (.inr (.inl ⟨rfl, rfl, by simp only [if_true]; rfl⟩))
    | false => exact .inr (.inr (.inr ⟨rfl, rfl, by simp only [Bool.false_eq_true, if_false]; rfl⟩))

/-- R46, R47: single operands that lie within the allocation, the destination not one of 112-126, raise nothing. -/
theorem Group.vecFault_none (g : Group) (d : Nat) (srcs : List Nat) (hd : goodDest d) (ha : g.allocated (d :: srcs)) :
    g.vecFault (wr d :: srcs.map rd) = none := by
  have hin : ∀ f ∈ d :: srcs, ¬ (f ≤ 111 ∧ g.alloc < g.phys f + 1) := by
    intro f hf h
    have := ha f hf h.1
    simp only [Group.phys] at h
    omega
  have h1 : (wr d :: srcs.map rd).any Opnd.vecIllegal = false := by
    simp only [List.any_cons, List.any_map, Bool.or_eq_false_iff]
    constructor
    · unfold goodDest at hd
      simp [Opnd.vecIllegal, wr]
      intro h
      have := of_decide_eq_true h
      exact decide_eq_false (by omega)
    · rw [List.any_eq_false]
      intro f _
      simp [Opnd.vecIllegal, rd]
  have h2 : (wr d :: srcs.map rd).any g.outOfRange = false := by
    simp only [List.any_cons, List.any_map, Bool.or_eq_false_iff]
    constructor
    · have := hin d (by simp)
      simp [Group.outOfRange, wr]
      intro h
      have := of_decide_eq_true h
      omega
    · rw [List.any_eq_false]
      intro f hf
      have := hin f (by simp [hf])
      simp [Group.outOfRange, rd]
      intro h
      have := of_decide_eq_true h
      omega
  simp only [Group.vecFault, h1, h2, Bool.false_eq_true, if_false]

/-- R125: a compute word in its vector form, with operands it may name, that completes by moving the PC to `next`: the
destination's lanes in act take the result, and nothing else changes. -/
theorem regOp_vector (guard d : Nat) (srcs : List Nat) (fin : State → State) (f : (Nat → Word) → Word) (s : State) (next : DWord)
    (hfin : ∀ v : NMap LaneVec, fin { s with grp := { s.grp with v := v } } = { s with grp := { s.grp with v := v, pc := next } })
    (hd : goodDest d) (ha : s.grp.allocated (d :: srcs)) :
    ∃ v, State.regOp false guard d srcs fin f s = .next { s with grp := { s.grp with v := v, pc := next } } ∧
      ∀ n k, k < 32 → (nget zeroVec v n).lane k =
        if d ≤ 111 ∧ n = 16 * s.grp.winbase.toNat + d ∧ hasLane (s.grp.act guard) k then f fun j => s.grp.lane (srcs.getD j 127) k
        else (s.grp.vreg n).lane k := by
  have hv := s.grp.vecFault_none d srcs hd ha
  unfold State.regOp
  simp only [Bool.false_eq_true, if_false]
  rcases s.vecOp_cases guard (wr d :: srcs.map rd) fin
      (fun m g => g.putLanes d m fun i => f fun k => g.lane (srcs.getD k 127) i) with ⟨hm, h⟩ | ⟨_, c, hc, _⟩ | ⟨hm, _, h⟩
  · refine ⟨s.grp.v, ?_, ?_⟩
    · rw [h]; exact congrArg _ (hfin s.grp.v)
    · intro n k _
      simp [hm, hasLane, Group.vreg]
  · rw [hv] at hc; cases hc
  · refine ⟨(s.grp.putLanes d (s.grp.act guard) fun i => f fun k => s.grp.lane (srcs.getD k 127) i).v, ?_, ?_⟩
    · rw [h, Group.putLanes_only]; exact congrArg _ (hfin _)
    · intro n k hk
      exact Group.putLanes_vreg s.grp d n k _ _ hk

/-- R126: a compute word in its uniform form whose guard holds: the uniform register takes the result. -/
theorem regOp_uniform (guard d : Nat) (srcs : List Nat) (fin : State → State) (f : (Nat → Word) → Word) (s : State) (next : DWord)
    (hfin : ∀ r : NMap Word, fin { s with grp := { s.grp with s := r } } = { s with grp := { s.grp with s := r, pc := next } })
    (hg : s.grp.uniGuard guard = some true) :
    ∃ r, State.regOp true guard d srcs fin f s = .next { s with grp := { s.grp with s := r, pc := next } } ∧
      ∀ n, nget 0 r n = if n = d ∧ n ≠ 127 then f fun j => s.grp.uni (srcs.getD j 127) else nget 0 s.grp.s n := by
  unfold State.regOp
  simp only [if_true]
  rcases s.uniOp_cases guard [] fin (fun g => g.setS d (f fun k => g.uni (srcs.getD k 127))) with
    ⟨h, _⟩ | ⟨h, _⟩ | ⟨_, h, _⟩ | ⟨_, _, h⟩
  · rw [hg] at h; cases h
  · rw [hg] at h; cases h
  · simp at h
  · refine ⟨(s.grp.setS d (f fun k => s.grp.uni (srcs.getD k 127))).s, ?_, ?_⟩
    · rw [h, Group.setS_only]; exact congrArg _ (hfin _)
    · intro n
      exact Group.setS_sreg s.grp d n _

/-! Stores (R185). -/

/-- R346: a request that leaves for a peer is told, and nothing else changes. -/
theorem State.sendPeer_only (s : State) (vd pa : Nat) (k : PeerKind) :
    s.sendPeer vd pa k = { s with hostOut := (s.sendPeer vd pa k).hostOut } := by
  unfold State.sendPeer
  split <;> rfl

/-- R346: a request about a place is told, and nothing else changes. -/
theorem State.sendLoc_only (s : State) (vd : Nat) (l : MemLoc) (k : PeerKind) :
    s.sendLoc vd l k = { s with hostOut := (s.sendLoc vd l k).hostOut } := by
  cases l with
  | phys a => exact s.sendPeer_only vd a k
  | scratch t o => rfl

/-- R346: the requests of stores at peers are told, and nothing else changes. -/
theorem State.sendStores_only (vd : Nat) : ∀ (ps : List LaneStore) (s : State),
    s.sendStores vd ps = { s with hostOut := (s.sendStores vd ps).hostOut }
  | [], _ => rfl
  | p :: ps, s => by
    have ih := State.sendStores_only vd ps
    have h : s.sendStores vd (p :: ps) = (s.sendLoc vd p.loc (.store p.bytes)).sendStores vd ps := rfl
    rw [h, ih, s.sendLoc_only vd p.loc (.store p.bytes)]

/-- A store that is performed keeps memory's canonical form. -/
theorem State.performStore_keeps_wf (s : State) (e : StoreEntry) (h : Memory.wf s.mem = true) :
    Memory.wf (s.performStore e).mem = true := by
  unfold State.performStore
  rw [State.sendStores_only]
  generalize (s.sendStores e.vd e.parts).hostOut = out
  replace h : Memory.wf ({ s with hostOut := out } : State).mem = true := h
  generalize ({ s with hostOut := out } : State) = s at h
  generalize e.parts = ps
  induction ps generalizing s with
  | nil => exact h
  | cons p ps ih => exact ih _ (s.putLoc_keeps_wf p.loc p.bytes h)

/-- Contents that are lost keep memory's canonical form. -/
theorem State.loseMem_keeps_wf (s : State) (a n : Nat) (h : Memory.wf s.mem = true) :
    Memory.wf (s.loseMem a n).mem = true := by
  unfold State.loseMem
  show nwf unlistedByte _ = true
  generalize s.mem.filter _ = cs
  have h : nwf unlistedByte s.mem = true := h
  generalize s.mem = m at h
  induction cs generalizing m with
  | nil => exact h
  | cons c cs ih => exact ih _ (nset_keeps_wf unlistedByte _ (Nat.zero_le _) h)

end Sys2Proof.Machine
end

