-- ==== Sys2Proof/Laws/PerInstr.lean ====
section
/-! SUPPORT. Statements made for every instruction: Words says how many words each one has (07 R80-R88): the events none, an
L-form two, every other instruction one. -/

/-- 07 R80, R88: the words of an instruction. -/
def Sys2Proof.Laws.Words.Statement (i : Sys2Proof.Instr) : Prop :=
  (Sys2Proof.encode i).map (fun p => p.2.length) =
    if (Sys2Proof.Machine.shapeOf i).isNone then none else some (if Sys2Proof.Machine.isLong i then 2 else 1)

namespace Sys2Proof
open Sys2Proof.Machine

theorem Laws.Words.nop (u : Bool) :
    Laws.Words.Statement (.nop u) := rfl
theorem Laws.Words.mov (u : Bool) (g : BitVec 3) (d : BitVec 7) (a : BitVec 7) :
    Laws.Words.Statement (.mov u g d a) := rfl
theorem Laws.Words.iadd (u : Bool) (g : BitVec 3) (d : BitVec 7) (a : BitVec 7) (b : BitVec 7) :
    Laws.Words.Statement (.iadd u g d a b) := rfl
theorem Laws.Words.isub (u : Bool) (g : BitVec 3) (d : BitVec 7) (a : BitVec 7) (b : BitVec 7) :
    Laws.Words.Statement (.isub u g d a b) := rfl
theorem Laws.Words.imullo (u : Bool) (g : BitVec 3) (d : BitVec 7) (a : BitVec 7) (b : BitVec 7) :
    Laws.Words.Statement (.imullo u g d a b) := rfl
theorem Laws.Words.imulhi (u : Bool) (g : BitVec 3) (d : BitVec 7) (a : BitVec 7) (b : BitVec 7) :
    Laws.Words.Statement (.imulhi u g d a b) := rfl
theorem Laws.Words.imulhiu (u : Bool) (g : BitVec 3) (d : BitVec 7) (a : BitVec 7) (b : BitVec 7) :
    Laws.Words.Statement (.imulhiu u g d a b) := rfl
theorem Laws.Words.imin (u : Bool) (g : BitVec 3) (d : BitVec 7) (a : BitVec 7) (b : BitVec 7) :
    Laws.Words.Statement (.imin u g d a b) := rfl
theorem Laws.Words.imax (u : Bool) (g : BitVec 3) (d : BitVec 7) (a : BitVec 7) (b : BitVec 7) :
    Laws.Words.Statement (.imax u g d a b) := rfl
theorem Laws.Words.umin (u : Bool) (g : BitVec 3) (d : BitVec 7) (a : BitVec 7) (b : BitVec 7) :
    Laws.Words.Statement (.umin u g d a b) := rfl
theorem Laws.Words.umax (u : Bool) (g : BitVec 3) (d : BitVec 7) (a : BitVec 7) (b : BitVec 7) :
    Laws.Words.Statement (.umax u g d a b) := rfl
theorem Laws.Words.and (u : Bool) (g : BitVec 3) (d : BitVec 7) (a : BitVec 7) (b : BitVec 7) :
    Laws.Words.Statement (.and u g d a b) := rfl
theorem Laws.Words.or (u : Bool) (g : BitVec 3) (d : BitVec 7) (a : BitVec 7) (b : BitVec 7) :
    Laws.Words.Statement (.or u g d a b) := rfl
theorem Laws.Words.xor (u : Bool) (g : BitVec 3) (d : BitVec 7) (a : BitVec 7) (b : BitVec 7) :
    Laws.Words.Statement (.xor u g d a b) := rfl
theorem Laws.Words.andn (u : Bool) (g : BitVec 3) (d : BitVec 7) (a : BitVec 7) (b : BitVec 7) :
    Laws.Words.Statement (.andn u g d a b) := rfl
theorem Laws.Words.shl (u : Bool) (g : BitVec 3) (d : BitVec 7) (a : BitVec 7) (b : BitVec 7) :
    Laws.Words.Statement (.shl u g d a b) := rfl
theorem Laws.Words.shr (u : Bool) (g : BitVec 3) (d : BitVec 7) (a : BitVec 7) (b : BitVec 7) :
    Laws.Words.Statement (.shr u g d a b) := rfl
theorem Laws.Words.sar (u : Bool) (g : BitVec 3) (d : BitVec 7) (a : BitVec 7) (b : BitVec 7) :
    Laws.Words.Statement (.sar u g d a b) := rfl
theorem Laws.Words.bfeu (u : Bool) (g : BitVec 3) (d : BitVec 7) (a : BitVec 7) (b : BitVec 7) :
    Laws.Words.Statement (.bfeu u g d a b) := rfl
theorem Laws.Words.bfes (u : Bool) (g : BitVec 3) (d : BitVec 7) (a : BitVec 7) (b : BitVec 7) :
    Laws.Words.Statement (.bfes u g d a b) := rfl
theorem Laws.Words.popc (u : Bool) (g : BitVec 3) (d : BitVec 7) (a : BitVec 7) :
    Laws.Words.Statement (.popc u g d a) := rfl
theorem Laws.Words.clz (u : Bool) (g : BitVec 3) (d : BitVec 7) (a : BitVec 7) :
    Laws.Words.Statement (.clz u g d a) := rfl
theorem Laws.Words.brev (u : Bool) (g : BitVec 3) (d : BitVec 7) (a : BitVec 7) :
    Laws.Words.Statement (.brev u g d a) := rfl
theorem Laws.Words.sel (u : Bool) (g : BitVec 3) (d : BitVec 7) (a : BitVec 7) (b : BitVec 7) :
    Laws.Words.Statement (.sel u g d a b) := rfl
theorem Laws.Words.fadd (u : Bool) (g : BitVec 3) (d : BitVec 7) (a : BitVec 7) (b : BitVec 7) :
    Laws.Words.Statement (.fadd u g d a b) := rfl
theorem Laws.Words.fsub (u : Bool) (g : BitVec 3) (d : BitVec 7) (a : BitVec 7) (b : BitVec 7) :
    Laws.Words.Statement (.fsub u g d a b) := rfl
theorem Laws.Words.fmul (u : Bool) (g : BitVec 3) (d : BitVec 7) (a : BitVec 7) (b : BitVec 7) :
    Laws.Words.Statement (.fmul u g d a b) := rfl
theorem Laws.Words.fmin (u : Bool) (g : BitVec 3) (d : BitVec 7) (a : BitVec 7) (b : BitVec 7) :
    Laws.Words.Statement (.fmin u g d a b) := rfl
theorem Laws.Words.fmax (u : Bool) (g : BitVec 3) (d : BitVec 7) (a : BitVec 7) (b : BitVec 7) :
    Laws.Words.Statement (.fmax u g d a b) := rfl
theorem Laws.Words.hadd2 (u : Bool) (g : BitVec 3) (d : BitVec 7) (a : BitVec 7) (b : BitVec 7) :
    Laws.Words.Statement (.hadd2 u g d a b) := rfl
theorem Laws.Words.hmul2 (u : Bool) (g : BitVec 3) (d : BitVec 7) (a : BitVec 7) (b : BitVec 7) :
    Laws.Words.Statement (.hmul2 u g d a b) := rfl
theorem Laws.Words.badd2 (u : Bool) (g : BitVec 3) (d : BitVec 7) (a : BitVec 7) (b : BitVec 7) :
    Laws.Words.Statement (.badd2 u g d a b) := rfl
theorem Laws.Words.bmul2 (u : Bool) (g : BitVec 3) (d : BitVec 7) (a : BitVec 7) (b : BitVec 7) :
    Laws.Words.Statement (.bmul2 u g d a b) := rfl
theorem Laws.Words.icmpeq (u : Bool) (g : BitVec 3) (d : BitVec 7) (a : BitVec 7) (b : BitVec 7) :
    Laws.Words.Statement (.icmpeq u g d a b) := rfl
theorem Laws.Words.icmpne (u : Bool) (g : BitVec 3) (d : BitVec 7) (a : BitVec 7) (b : BitVec 7) :
    Laws.Words.Statement (.icmpne u g d a b) := rfl
theorem Laws.Words.icmplt (u : Bool) (g : BitVec 3) (d : BitVec 7) (a : BitVec 7) (b : BitVec 7) :
    Laws.Words.Statement (.icmplt u g d a b) := rfl
theorem Laws.Words.icmple (u : Bool) (g : BitVec 3) (d : BitVec 7) (a : BitVec 7) (b : BitVec 7) :
    Laws.Words.Statement (.icmple u g d a b) := rfl
theorem Laws.Words.ucmplt (u : Bool) (g : BitVec 3) (d : BitVec 7) (a : BitVec 7) (b : BitVec 7) :
    Laws.Words.Statement (.ucmplt u g d a b) := rfl
theorem Laws.Words.ucmple (u : Bool) (g : BitVec 3) (d : BitVec 7) (a : BitVec 7) (b : BitVec 7) :
    Laws.Words.Statement (.ucmple u g d a b) := rfl
theorem Laws.Words.fcmpeq (u : Bool) (g : BitVec 3) (d : BitVec 7) (a : BitVec 7) (b : BitVec 7) :
    Laws.Words.Statement (.fcmpeq u g d a b) := rfl
theorem Laws.Words.fcmpne (u : Bool) (g : BitVec 3) (d : BitVec 7) (a : BitVec 7) (b : BitVec 7) :
    Laws.Words.Statement (.fcmpne u g d a b) := rfl
theorem Laws.Words.fcmplt (u : Bool) (g : BitVec 3) (d : BitVec 7) (a : BitVec 7) (b : BitVec 7) :
    Laws.Words.Statement (.fcmplt u g d a b) := rfl
theorem Laws.Words.fcmple (u : Bool) (g : BitVec 3) (d : BitVec 7) (a : BitVec 7) (b : BitVec 7) :
    Laws.Words.Statement (.fcmple u g d a b) := rfl
theorem Laws.Words.fcmpun (u : Bool) (g : BitVec 3) (d : BitVec 7) (a : BitVec 7) (b : BitVec 7) :
    Laws.Words.Statement (.fcmpun u g d a b) := rfl
theorem Laws.Words.pand (u : Bool) (g : BitVec 3) (d : BitVec 7) (a : BitVec 7) (b : BitVec 7) :
    Laws.Words.Statement (.pand u g d a b) := rfl
theorem Laws.Words.por (u : Bool) (g : BitVec 3) (d : BitVec 7) (a : BitVec 7) (b : BitVec 7) :
    Laws.Words.Statement (.por u g d a b) := rfl
theorem Laws.Words.pxor (u : Bool) (g : BitVec 3) (d : BitVec 7) (a : BitVec 7) (b : BitVec 7) :
    Laws.Words.Statement (.pxor u g d a b) := rfl
theorem Laws.Words.pandn (u : Bool) (g : BitVec 3) (d : BitVec 7) (a : BitVec 7) (b : BitVec 7) :
    Laws.Words.Statement (.pandn u g d a b) := rfl
theorem Laws.Words.shflidx (g : BitVec 3) (d : BitVec 7) (a : BitVec 7) (b : BitVec 7) :
    Laws.Words.Statement (.shflidx g d a b) := rfl
theorem Laws.Words.shflxor (g : BitVec 3) (d : BitVec 7) (a : BitVec 7) (b : BitVec 7) :
    Laws.Words.Statement (.shflxor g d a b) := rfl
theorem Laws.Words.lshup (g : BitVec 3) (d : BitVec 7) (a : BitVec 7) (b : BitVec 7) :
    Laws.Words.Statement (.lshup g d a b) := rfl
theorem Laws.Words.lshdn (g : BitVec 3) (d : BitVec 7) (a : BitVec 7) (b : BitVec 7) :
    Laws.Words.Statement (.lshdn g d a b) := rfl
theorem Laws.Words.votebal (g : BitVec 3) (d : BitVec 7) (a : BitVec 7) :
    Laws.Words.Statement (.votebal g d a) := rfl
theorem Laws.Words.voteany (g : BitVec 3) (d : BitVec 7) (a : BitVec 7) :
    Laws.Words.Statement (.voteany g d a) := rfl
theorem Laws.Words.voteall (g : BitVec 3) (d : BitVec 7) (a : BitVec 7) :
    Laws.Words.Statement (.voteall g d a) := rfl
theorem Laws.Words.rdfirst (g : BitVec 3) (d : BitVec 7) (a : BitVec 7) :
    Laws.Words.Statement (.rdfirst g d a) := rfl
theorem Laws.Words.frcp (u : Bool) (g : BitVec 3) (d : BitVec 7) (a : BitVec 7) :
    Laws.Words.Statement (.frcp u g d a) := rfl
theorem Laws.Words.frsq (u : Bool) (g : BitVec 3) (d : BitVec 7) (a : BitVec 7) :
    Laws.Words.Statement (.frsq u g d a) := rfl
theorem Laws.Words.fex2 (u : Bool) (g : BitVec 3) (d : BitVec 7) (a : BitVec 7) :
    Laws.Words.Statement (.fex2 u g d a) := rfl
theorem Laws.Words.flg2 (u : Bool) (g : BitVec 3) (d : BitVec 7) (a : BitVec 7) :
    Laws.Words.Statement (.flg2 u g d a) := rfl
theorem Laws.Words.fsin (u : Bool) (g : BitVec 3) (d : BitVec 7) (a : BitVec 7) :
    Laws.Words.Statement (.fsin u g d a) := rfl
theorem Laws.Words.fcos (u : Bool) (g : BitVec 3) (d : BitVec 7) (a : BitVec 7) :
    Laws.Words.Statement (.fcos u g d a) := rfl
theorem Laws.Words.psave (u : Bool) (g : BitVec 3) (d : BitVec 7) (a : BitVec 7) :
    Laws.Words.Statement (.psave u g d a) := rfl
theorem Laws.Words.pload (u : Bool) (g : BitVec 3) (d : BitVec 7) (a : BitVec 7) :
    Laws.Words.Statement (.pload u g d a) := rfl
theorem Laws.Words.iaddi (u : Bool) (g : BitVec 3) (d : BitVec 7) (a : BitVec 7) (i : BitVec 8) :
    Laws.Words.Statement (.iaddi u g d a i) := rfl
theorem Laws.Words.andi (u : Bool) (g : BitVec 3) (d : BitVec 7) (a : BitVec 7) (i : BitVec 8) :
    Laws.Words.Statement (.andi u g d a i) := rfl
theorem Laws.Words.ori (u : Bool) (g : BitVec 3) (d : BitVec 7) (a : BitVec 7) (i : BitVec 8) :
    Laws.Words.Statement (.ori u g d a i) := rfl
theorem Laws.Words.xori (u : Bool) (g : BitVec 3) (d : BitVec 7) (a : BitVec 7) (i : BitVec 8) :
    Laws.Words.Statement (.xori u g d a i) := rfl
theorem Laws.Words.shli (u : Bool) (g : BitVec 3) (d : BitVec 7) (a : BitVec 7) (i : BitVec 8) :
    Laws.Words.Statement (.shli u g d a i) := rfl
theorem Laws.Words.shri (u : Bool) (g : BitVec 3) (d : BitVec 7) (a : BitVec 7) (i : BitVec 8) :
    Laws.Words.Statement (.shri u g d a i) := rfl
theorem Laws.Words.sari (u : Bool) (g : BitVec 3) (d : BitVec 7) (a : BitVec 7) (i : BitVec 8) :
    Laws.Words.Statement (.sari u g d a i) := rfl
theorem Laws.Words.icmpeqi (u : Bool) (g : BitVec 3) (d : BitVec 7) (a : BitVec 7) (i : BitVec 8) :
    Laws.Words.Statement (.icmpeqi u g d a i) := rfl
theorem Laws.Words.icmplti (u : Bool) (g : BitVec 3) (d : BitVec 7) (a : BitVec 7) (i : BitVec 8) :
    Laws.Words.Statement (.icmplti u g d a i) := rfl
theorem Laws.Words.icmpgti (u : Bool) (g : BitVec 3) (d : BitVec 7) (a : BitVec 7) (i : BitVec 8) :
    Laws.Words.Statement (.icmpgti u g d a i) := rfl
theorem Laws.Words.movi (u : Bool) (g : BitVec 3) (d : BitVec 7) (i : BitVec 8) :
    Laws.Words.Statement (.movi u g d i) := rfl
theorem Laws.Words.srd (u : Bool) (g : BitVec 3) (d : BitVec 7) (i : BitVec 8) :
    Laws.Words.Statement (.srd u g d i) := rfl
theorem Laws.Words.swr (u : Bool) (g : BitVec 3) (a : BitVec 7) (i : BitVec 8) :
    Laws.Words.Statement (.swr u g a i) := rfl
theorem Laws.Words.gset (d : BitVec 7) (a : BitVec 7) (i : BitVec 2) :
    Laws.Words.Statement (.gset d a i) := rfl
theorem Laws.Words.win (i : BitVec 4) :
    Laws.Words.Statement (.win i) := rfl
theorem Laws.Words.ldspill (g : BitVec 3) (d : BitVec 7) (i : BitVec 8) :
    Laws.Words.Statement (.ldspill g d i) := rfl
theorem Laws.Words.stspill (g : BitVec 3) (d : BitVec 7) (i : BitVec 8) :
    Laws.Words.Statement (.stspill g d i) := rfl
theorem Laws.Words.cvt (u : Bool) (g : BitVec 3) (d : BitVec 7) (a : BitVec 7) (i : BitVec 8) :
    Laws.Words.Statement (.cvt u g d a i) := rfl
theorem Laws.Words.lshupi (g : BitVec 3) (d : BitVec 7) (a : BitVec 7) (i : BitVec 8) :
    Laws.Words.Statement (.lshupi g d a i) := rfl
theorem Laws.Words.lshdni (g : BitVec 3) (d : BitVec 7) (a : BitVec 7) (i : BitVec 8) :
    Laws.Words.Statement (.lshdni g d a i) := rfl
theorem Laws.Words.shflxori (g : BitVec 3) (d : BitVec 7) (a : BitVec 7) (i : BitVec 5) :
    Laws.Words.Statement (.shflxori g d a i) := rfl
theorem Laws.Words.imuli (u : Bool) (g : BitVec 3) (d : BitVec 7) (a : BitVec 7) (i : BitVec 8) :
    Laws.Words.Statement (.imuli u g d a i) := rfl
theorem Laws.Words.ffma (u : Bool) (m : BitVec 2) (g : BitVec 2) (d : BitVec 7) (a : BitVec 7) (b : BitVec 7) :
    Laws.Words.Statement (.ffma u m g d a b) := rfl
theorem Laws.Words.ffmn (u : Bool) (m : BitVec 2) (g : BitVec 2) (d : BitVec 7) (a : BitVec 7) (b : BitVec 7) :
    Laws.Words.Statement (.ffmn u m g d a b) := rfl
theorem Laws.Words.imad (u : Bool) (g : BitVec 2) (d : BitVec 7) (a : BitVec 7) (b : BitVec 7) :
    Laws.Words.Statement (.imad u g d a b) := rfl
theorem Laws.Words.iaddminSs (u : Bool) (g : BitVec 2) (d : BitVec 7) (a : BitVec 7) (b : BitVec 7) :
    Laws.Words.Statement (.iaddminSs u g d a b) := rfl
theorem Laws.Words.iaddminNn (u : Bool) (g : BitVec 2) (d : BitVec 7) (a : BitVec 7) (b : BitVec 7) :
    Laws.Words.Statement (.iaddminNn u g d a b) := rfl
theorem Laws.Words.hfma2 (u : Bool) (m : BitVec 2) (g : BitVec 2) (d : BitVec 7) (a : BitVec 7) (b : BitVec 7) :
    Laws.Words.Statement (.hfma2 u m g d a b) := rfl
theorem Laws.Words.bfma2 (u : Bool) (m : BitVec 2) (g : BitVec 2) (d : BitVec 7) (a : BitVec 7) (b : BitVec 7) :
    Laws.Words.Statement (.bfma2 u m g d a b) := rfl
theorem Laws.Words.dp4 (u : Bool) (m : BitVec 2) (g : BitVec 2) (d : BitVec 7) (a : BitVec 7) (b : BitVec 7) :
    Laws.Words.Statement (.dp4 u m g d a b) := rfl
theorem Laws.Words.dp8 (u : Bool) (m : BitVec 2) (g : BitVec 2) (d : BitVec 7) (a : BitVec 7) (b : BitVec 7) :
    Laws.Words.Statement (.dp8 u m g d a b) := rfl
theorem Laws.Words.bfi (u : Bool) (g : BitVec 2) (d : BitVec 7) (a : BitVec 7) (b : BitVec 7) :
    Laws.Words.Statement (.bfi u g d a b) := rfl
theorem Laws.Words.iadd3 (u : Bool) (g : BitVec 2) (d : BitVec 7) (a : BitVec 7) (b : BitVec 7) :
    Laws.Words.Statement (.iadd3 u g d a b) := rfl
theorem Laws.Words.isad (u : Bool) (g : BitVec 2) (d : BitVec 7) (a : BitVec 7) (b : BitVec 7) :
    Laws.Words.Statement (.isad u g d a b) := rfl
theorem Laws.Words.iadd64 (u : Bool) (g : BitVec 2) (d : BitVec 7) (a : BitVec 7) (b : BitVec 7) :
    Laws.Words.Statement (.iadd64 u g d a b) := rfl
theorem Laws.Words.ld (u : Bool) (x : BitVec 3) (d : BitVec 7) (a : BitVec 7) (s : BitVec 3) (c : BitVec 5) :
    Laws.Words.Statement (.ld u x d a s c) := rfl
theorem Laws.Words.lds (u : Bool) (x : BitVec 3) (d : BitVec 7) (a : BitVec 7) (s : BitVec 1) (c : BitVec 5) :
    Laws.Words.Statement (.lds u x d a s c) := rfl
theorem Laws.Words.st (u : Bool) (x : BitVec 3) (d : BitVec 7) (a : BitVec 7) (s : BitVec 3) (c : BitVec 5) :
    Laws.Words.Statement (.st u x d a s c) := rfl
theorem Laws.Words.sld (u : Bool) (d : BitVec 7) (a : BitVec 7) (s : BitVec 3) (c : BitVec 5) :
    Laws.Words.Statement (.sld u d a s c) := rfl
theorem Laws.Words.slds (u : Bool) (d : BitVec 7) (a : BitVec 7) (s : BitVec 1) (c : BitVec 5) :
    Laws.Words.Statement (.slds u d a s c) := rfl
theorem Laws.Words.sst (u : Bool) (d : BitVec 7) (a : BitVec 7) (s : BitVec 3) (c : BitVec 5) :
    Laws.Words.Statement (.sst u d a s c) := rfl
theorem Laws.Words.ldts (x : BitVec 3) (d : BitVec 7) (a : BitVec 7) (s : BitVec 3) (q : BitVec 2) :
    Laws.Words.Statement (.ldts x d a s q) := rfl
theorem Laws.Words.cpy (x : BitVec 3) (d : BitVec 7) (a : BitVec 7) (s : BitVec 3) (r : BitVec 2) (q : BitVec 2) :
    Laws.Words.Statement (.cpy x d a s r q) := rfl
theorem Laws.Words.atom (x : BitVec 3) (d : BitVec 7) (a : BitVec 7) (s : BitVec 1) (o : BitVec 4) (e : BitVec 1) :
    Laws.Words.Statement (.atom x d a s o e) := rfl
theorem Laws.Words.red (x : BitVec 3) (d : BitVec 7) (a : BitVec 7) (s : BitVec 1) (o : BitVec 4) (e : BitVec 1) :
    Laws.Words.Statement (.red x d a s o e) := rfl
theorem Laws.Words.satom (d : BitVec 7) (a : BitVec 7) (s : BitVec 1) (o : BitVec 4) :
    Laws.Words.Statement (.satom d a s o) := rfl
theorem Laws.Words.pref (x : BitVec 3) (a : BitVec 7) (s : BitVec 3) (c : BitVec 5) :
    Laws.Words.Statement (.pref x a s c) := rfl
theorem Laws.Words.lda (u : Bool) (x : BitVec 3) (d : BitVec 7) (a : BitVec 7) (s : BitVec 3) (e : BitVec 2) :
    Laws.Words.Statement (.lda u x d a s e) := rfl
theorem Laws.Words.strel (u : Bool) (x : BitVec 3) (d : BitVec 7) (a : BitVec 7) (s : BitVec 3) (e : BitVec 2) :
    Laws.Words.Statement (.strel u x d a s e) := rfl
theorem Laws.Words.bar (d : BitVec 7) (a : BitVec 7) (o : BitVec 2) (n : BitVec 6) :
    Laws.Words.Statement (.bar d a o n) := rfl
theorem Laws.Words.bararr (d : BitVec 7) (a : BitVec 7) (o : BitVec 2) (n : BitVec 6) :
    Laws.Words.Statement (.bararr d a o n) := rfl
theorem Laws.Words.barwait (a : BitVec 7) (n : BitVec 6) :
    Laws.Words.Statement (.barwait a n) := rfl
theorem Laws.Words.fence (s : BitVec 2) :
    Laws.Words.Statement (.fence s) := rfl
theorem Laws.Words.qfence (s : BitVec 2) (m : BitVec 8) :
    Laws.Words.Statement (.qfence s m) := rfl
theorem Laws.Words.pause (n : BitVec 16) :
    Laws.Words.Statement (.pause n) := rfl
theorem Laws.Words.yield (o : BitVec 11) (k : BitVec 2) (r : BitVec 10) :
    Laws.Words.Statement (.yield o k r) := rfl
theorem Laws.Words.xlat (d : BitVec 7) (a : BitVec 7) (w : BitVec 1) :
    Laws.Words.Statement (.xlat d a w) := rfl
theorem Laws.Words.gath (d : BitVec 7) (a : BitVec 7) (w : BitVec 1) :
    Laws.Words.Statement (.gath d a w) := rfl
theorem Laws.Words.scat (d : BitVec 7) (a : BitVec 7) (k : BitVec 2) (m : BitVec 1) (w : BitVec 1) :
    Laws.Words.Statement (.scat d a k m w) := rfl
theorem Laws.Words.mcast (d : BitVec 7) (a : BitVec 7) :
    Laws.Words.Statement (.mcast d a) := rfl
theorem Laws.Words.mgang (a : BitVec 7) :
    Laws.Words.Statement (.mgang a) := rfl
theorem Laws.Words.mma (d : BitVec 7) (a : BitVec 7) (c : BitVec 1) (t : BitVec 3) :
    Laws.Words.Statement (.mma d a c t) := rfl
theorem Laws.Words.mdrain (d : BitVec 7) (s : BitVec 3) (t : BitVec 3) :
    Laws.Words.Statement (.mdrain d s t) := rfl
theorem Laws.Words.mstore (a : BitVec 7) (k : BitVec 1) (s : BitVec 1) (c : BitVec 2) (n : BitVec 1) (t : BitVec 3) :
    Laws.Words.Statement (.mstore a k s c n t) := rfl
theorem Laws.Words.mzero (l : BitVec 1) (t : BitVec 3) :
    Laws.Words.Statement (.mzero l t) := rfl
theorem Laws.Words.mfence (d : BitVec 7) :
    Laws.Words.Statement (.mfence d) := rfl
theorem Laws.Words.mwait (n : BitVec 4) :
    Laws.Words.Statement (.mwait n) := rfl
theorem Laws.Words.ntake :
    Laws.Words.Statement (.ntake) := rfl
theorem Laws.Words.npass :
    Laws.Words.Statement (.npass) := rfl
theorem Laws.Words.pass (a : BitVec 7) (j : BitVec 7) :
    Laws.Words.Statement (.pass a j) := rfl
theorem Laws.Words.seal (a : BitVec 7) :
    Laws.Words.Statement (.seal a) := rfl
theorem Laws.Words.vread (a : BitVec 7) (p : BitVec 1) (j : BitVec 7) :
    Laws.Words.Statement (.vread a p j) := rfl
theorem Laws.Words.vwait (a : BitVec 7) (p : BitVec 1) (j : BitVec 7) :
    Laws.Words.Statement (.vwait a p j) := rfl
theorem Laws.Words.vdone (a : BitVec 7) (m : BitVec 7) :
    Laws.Words.Statement (.vdone a m) := rfl
theorem Laws.Words.post (d : BitVec 7) (a : BitVec 7) (r : BitVec 1) (j : BitVec 7) :
    Laws.Words.Statement (.post d a r j) := rfl
theorem Laws.Words.reply (d : BitVec 7) (a : BitVec 7) :
    Laws.Words.Statement (.reply d a) := rfl
theorem Laws.Words.cdone :
    Laws.Words.Statement (.cdone) := rfl
theorem Laws.Words.enq (d : BitVec 7) (a : BitVec 7) (e : BitVec 1) (j : BitVec 7) :
    Laws.Words.Statement (.enq d a e j) := rfl
theorem Laws.Words.signal (a : BitVec 7) (s : BitVec 1) :
    Laws.Words.Statement (.signal a s) := rfl
theorem Laws.Words.launch (d : BitVec 7) (j : BitVec 7) :
    Laws.Words.Statement (.launch d j) := rfl
theorem Laws.Words.lwait (a : BitVec 7) (j : BitVec 7) :
    Laws.Words.Statement (.lwait a j) := rfl
theorem Laws.Words.ldone (a : BitVec 7) :
    Laws.Words.Statement (.ldone a) := rfl
theorem Laws.Words.lhint (a : BitVec 7) :
    Laws.Words.Statement (.lhint a) := rfl
theorem Laws.Words.enrd (k : BitVec 7) (j : BitVec 7) :
    Laws.Words.Statement (.enrd k j) := rfl
theorem Laws.Words.commit :
    Laws.Words.Statement (.commit) := rfl
theorem Laws.Words.tokpass :
    Laws.Words.Statement (.tokpass) := rfl
theorem Laws.Words.join :
    Laws.Words.Statement (.join) := rfl
theorem Laws.Words.ret (l : BitVec 1) :
    Laws.Words.Statement (.ret l) := rfl
theorem Laws.Words.jmpi (a : BitVec 7) :
    Laws.Words.Statement (.jmpi a) := rfl
theorem Laws.Words.exit :
    Laws.Words.Statement (.exit) := rfl
theorem Laws.Words.trap (n : BitVec 23) :
    Laws.Words.Statement (.trap n) := rfl
theorem Laws.Words.sys (n : BitVec 23) :
    Laws.Words.Statement (.sys n) := rfl
theorem Laws.Words.tret (m : BitVec 2) :
    Laws.Words.Statement (.tret m) := rfl
theorem Laws.Words.bkpt (n : BitVec 23) :
    Laws.Words.Statement (.bkpt n) := rfl
theorem Laws.Words.pmap (d : BitVec 7) (a : BitVec 7) (e : BitVec 1) (w : BitVec 1) :
    Laws.Words.Statement (.pmap d a e w) := rfl
theorem Laws.Words.tlbiDrain (j : BitVec 7) :
    Laws.Words.Statement (.tlbiDrain j) := rfl
theorem Laws.Words.tlbiConfirm :
    Laws.Words.Statement (.tlbiConfirm) := rfl
theorem Laws.Words.bra (u : Bool) (g : BitVec 3) (o : BitVec 23) :
    Laws.Words.Statement (.bra u g o) := rfl
theorem Laws.Words.call (u : Bool) (g : BitVec 3) (o : BitVec 23) :
    Laws.Words.Statement (.call u g o) := rfl
theorem Laws.Words.mark (o : BitVec 23) :
    Laws.Words.Statement (.mark o) := rfl
theorem Laws.Words.brk (g : BitVec 3) :
    Laws.Words.Statement (.brk g) := rfl
theorem Laws.Words.tramp (g : BitVec 3) (k : BitVec 16) :
    Laws.Words.Statement (.tramp g k) := rfl
theorem Laws.Words.probe (n : BitVec 26) :
    Laws.Words.Statement (.probe n) := rfl
theorem Laws.Words.movl (u : Bool) (d : BitVec 7) (lit : BitVec 32) :
    Laws.Words.Statement (.movl u d lit) := rfl
theorem Laws.Words.iaddl (u : Bool) (d : BitVec 7) (a : BitVec 7) (lit : BitVec 32) :
    Laws.Words.Statement (.iaddl u d a lit) := rfl
theorem Laws.Words.andl (u : Bool) (d : BitVec 7) (a : BitVec 7) (lit : BitVec 32) :
    Laws.Words.Statement (.andl u d a lit) := rfl
theorem Laws.Words.orl (u : Bool) (d : BitVec 7) (a : BitVec 7) (lit : BitVec 32) :
    Laws.Words.Statement (.orl u d a lit) := rfl
theorem Laws.Words.xorl (u : Bool) (d : BitVec 7) (a : BitVec 7) (lit : BitVec 32) :
    Laws.Words.Statement (.xorl u d a lit) := rfl
theorem Laws.Words.imull (u : Bool) (d : BitVec 7) (a : BitVec 7) (lit : BitVec 32) :
    Laws.Words.Statement (.imull u d a lit) := rfl
theorem Laws.Words.icmpeql (u : Bool) (d : BitVec 7) (a : BitVec 7) (lit : BitVec 32) :
    Laws.Words.Statement (.icmpeql u d a lit) := rfl
theorem Laws.Words.icmpltl (u : Bool) (d : BitVec 7) (a : BitVec 7) (lit : BitVec 32) :
    Laws.Words.Statement (.icmpltl u d a lit) := rfl
theorem Laws.Words.faddl (u : Bool) (d : BitVec 7) (a : BitVec 7) (lit : BitVec 32) :
    Laws.Words.Statement (.faddl u d a lit) := rfl
theorem Laws.Words.fmull (u : Bool) (d : BitVec 7) (a : BitVec 7) (lit : BitVec 32) :
    Laws.Words.Statement (.fmull u d a lit) := rfl
theorem Laws.Words.ffmal (u : Bool) (d : BitVec 7) (a : BitVec 7) (lit : BitVec 32) :
    Laws.Words.Statement (.ffmal u d a lit) := rfl
theorem Laws.Words.fcmpltl (u : Bool) (d : BitVec 7) (a : BitVec 7) (lit : BitVec 32) :
    Laws.Words.Statement (.fcmpltl u d a lit) := rfl
theorem Laws.Words.frameFetch (gid : Nat) :
    Laws.Words.Statement (.frameFetch gid) := rfl
theorem Laws.Words.stallCountElapse (gid : Nat) :
    Laws.Words.Statement (.stallCountElapse gid) := rfl
theorem Laws.Words.activeSetFill (core part : Nat) :
    Laws.Words.Statement (.activeSetFill core part) := rfl
theorem Laws.Words.forcedRotation (core part : Nat) :
    Laws.Words.Statement (.forcedRotation core part) := rfl
theorem Laws.Words.pauseExpiry (gid : Nat) :
    Laws.Words.Statement (.pauseExpiry gid) := rfl
theorem Laws.Words.loadReturn (gid tag : Nat) :
    Laws.Words.Statement (.loadReturn gid tag) := rfl
theorem Laws.Words.storePerformed (gid : Nat) :
    Laws.Words.Statement (.storePerformed gid) := rfl
theorem Laws.Words.remoteErrorReply (access : RemoteLanes) :
    Laws.Words.Statement (.remoteErrorReply access) := rfl
theorem Laws.Words.remoteTimeout (access : RemoteLanes) :
    Laws.Words.Statement (.remoteTimeout access) := rfl
theorem Laws.Words.copyPartArrival (gid queue part : Nat) :
    Laws.Words.Statement (.copyPartArrival gid queue part) := rfl
theorem Laws.Words.copyPartFault (gid queue part : Nat) :
    Laws.Words.Statement (.copyPartFault gid queue part) := rfl
theorem Laws.Words.mcastPartArrival (gid part : Nat) :
    Laws.Words.Statement (.mcastPartArrival gid part) := rfl
theorem Laws.Words.gangOperationEntry (op : Nat) :
    Laws.Words.Statement (.gangOperationEntry op) := rfl
theorem Laws.Words.mdrainEntry (gid : Nat) :
    Laws.Words.Statement (.mdrainEntry gid) := rfl
theorem Laws.Words.mstoreEntry (gid : Nat) :
    Laws.Words.Statement (.mstoreEntry gid) := rfl
theorem Laws.Words.mzeroEntry (gid : Nat) :
    Laws.Words.Statement (.mzeroEntry gid) := rfl
theorem Laws.Words.needlePass (gid : Nat) :
    Laws.Words.Statement (.needlePass gid) := rfl
theorem Laws.Words.queueEntryTake (src : TakeSource) :
    Laws.Words.Statement (.queueEntryTake src) := rfl
theorem Laws.Words.teamPlace (launch team core : Nat) (places : TeamPlaces) :
    Laws.Words.Statement (.teamPlace launch team core places) := rfl
theorem Laws.Words.teamEnd (team : Nat) :
    Laws.Words.Statement (.teamEnd team) := rfl
theorem Laws.Words.launchComplete (launch : Nat) :
    Laws.Words.Statement (.launchComplete launch) := rfl
theorem Laws.Words.timeLimitExpiry (launch : Nat) :
    Laws.Words.Statement (.timeLimitExpiry launch) := rfl
theorem Laws.Words.energyLimitReached (launch : Nat) :
    Laws.Words.Statement (.energyLimitReached launch) := rfl
theorem Laws.Words.passOpen (launch : Nat) :
    Laws.Words.Statement (.passOpen launch) := rfl
theorem Laws.Words.skeinRecordArrival (src : RecordSource) :
    Laws.Words.Statement (.skeinRecordArrival src) := rfl
theorem Laws.Words.skeinTimerExpiry (skein : Nat) :
    Laws.Words.Statement (.skeinTimerExpiry skein) := rfl
theorem Laws.Words.skeinFire (skein part slot : Nat) :
    Laws.Words.Statement (.skeinFire skein part slot) := rfl
theorem Laws.Words.watchdogExpiry (skein : Nat) :
    Laws.Words.Statement (.watchdogExpiry skein) := rfl
theorem Laws.Words.postReplyArrival (src : ReplySource) :
    Laws.Words.Statement (.postReplyArrival src) := rfl
theorem Laws.Words.layerFetchStart (ctx : Nat) :
    Laws.Words.Statement (.layerFetchStart ctx) := rfl
theorem Laws.Words.layerArrival (ctx : Nat) :
    Laws.Words.Statement (.layerArrival ctx) := rfl
theorem Laws.Words.layerFetchFault (ctx cause : Nat) :
    Laws.Words.Statement (.layerFetchFault ctx cause) := rfl
theorem Laws.Words.evictionComplete (ctx layer : Nat) :
    Laws.Words.Statement (.evictionComplete ctx layer) := rfl
theorem Laws.Words.reservoirRefill :
    Laws.Words.Statement (.reservoirRefill) := rfl
theorem Laws.Words.thermalLimitStep (die : Nat) (reading : SensorReading) :
    Laws.Words.Statement (.thermalLimitStep die reading) := rfl
theorem Laws.Words.idleThresholdExpiry (vd : Nat) :
    Laws.Words.Statement (.idleThresholdExpiry vd) := rfl
theorem Laws.Words.collapseComplete (vd : Nat) :
    Laws.Words.Statement (.collapseComplete vd) := rfl
theorem Laws.Words.wakeComplete (vd : Nat) :
    Laws.Words.Statement (.wakeComplete vd) := rfl
theorem Laws.Words.vaultPageRestore (vd page : Nat) :
    Laws.Words.Statement (.vaultPageRestore vd page) := rfl
theorem Laws.Words.scrubComplete (vd va : Nat) :
    Laws.Words.Statement (.scrubComplete vd va) := rfl
theorem Laws.Words.haltComplete (vd : Nat) :
    Laws.Words.Statement (.haltComplete vd) := rfl
theorem Laws.Words.saveComplete (vd : Nat) :
    Laws.Words.Statement (.saveComplete vd) := rfl
theorem Laws.Words.restoreComplete (vd : Nat) (teams : List TeamSpot) :
    Laws.Words.Statement (.restoreComplete vd teams) := rfl
theorem Laws.Words.timeSliceExpiry (launch lcore next : Nat) :
    Laws.Words.Statement (.timeSliceExpiry launch lcore next) := rfl
theorem Laws.Words.debuggerStop (gid : Nat) :
    Laws.Words.Statement (.debuggerStop gid) := rfl
theorem Laws.Words.debuggerStep (gid : Nat) :
    Laws.Words.Statement (.debuggerStep gid) := rfl
theorem Laws.Words.debuggerStepAll (gid : Nat) :
    Laws.Words.Statement (.debuggerStepAll gid) := rfl
theorem Laws.Words.pwrlimWrite (func : Nat) (value : Word) :
    Laws.Words.Statement (.pwrlimWrite func value) := rfl
theorem Laws.Words.heatlimWrite (func die : Nat) (value : Word) :
    Laws.Words.Statement (.heatlimWrite func die value) := rfl
theorem Laws.Words.healthWrite (func : Nat) (value : DWord) :
    Laws.Words.Statement (.healthWrite func value) := rfl
theorem Laws.Words.attestation (func : Nat) (nonce : List Byte) :
    Laws.Words.Statement (.attestation func nonce) := rfl
theorem Laws.Words.firmwareUpdate (func image : Nat) (signatures : FirmwareSigs) :
    Laws.Words.Statement (.firmwareUpdate func image signatures) := rfl
theorem Laws.Words.wake (func vd : Nat) (value : Word) :
    Laws.Words.Statement (.wake func vd value) := rfl
theorem Laws.Words.create (func vd : Nat) (arg : Word) :
    Laws.Words.Statement (.create func vd arg) := rfl
theorem Laws.Words.destroy (func vd : Nat) (arg : Word) :
    Laws.Words.Statement (.destroy func vd arg) := rfl
theorem Laws.Words.grantq (func vd : Nat) (arg : Word) :
    Laws.Words.Statement (.grantq func vd arg) := rfl
theorem Laws.Words.revokeq (func vd : Nat) (arg : Word) :
    Laws.Words.Statement (.revokeq func vd arg) := rfl
theorem Laws.Words.grantcg (func vd : Nat) (arg : Word) :
    Laws.Words.Statement (.grantcg func vd arg) := rfl
theorem Laws.Words.revokecg (func vd : Nat) (arg : Word) :
    Laws.Words.Statement (.revokecg func vd arg) := rfl
theorem Laws.Words.preempt (func vd : Nat) (arg : Word) :
    Laws.Words.Statement (.preempt func vd arg) := rfl
theorem Laws.Words.resume (func vd : Nat) (arg : Word) :
    Laws.Words.Statement (.resume func vd arg) := rfl
theorem Laws.Words.replay (func vd : Nat) (arg : Word) :
    Laws.Words.Statement (.replay func vd arg) := rfl
theorem Laws.Words.drain (func vd : Nat) (arg : Word) :
    Laws.Words.Statement (.drain func vd arg) := rfl
theorem Laws.Words.confirm (func vd : Nat) (arg : Word) :
    Laws.Words.Statement (.confirm func vd arg) := rfl
theorem Laws.Words.grantv (func vd : Nat) (arg : Word) :
    Laws.Words.Statement (.grantv func vd arg) := rfl
theorem Laws.Words.revokev (func vd : Nat) (arg : Word) :
    Laws.Words.Statement (.revokev func vd arg) := rfl
theorem Laws.Words.mapreply (func vd : Nat) (value : DWord) :
    Laws.Words.Statement (.mapreply func vd value) := rfl
theorem Laws.Words.ringIndexWrite (func vd ring word : Nat) (value : Word) :
    Laws.Words.Statement (.ringIndexWrite func vd ring word value) := rfl
theorem Laws.Words.queueConfigWrite (func queue word : Nat) (value : Word) :
    Laws.Words.Statement (.queueConfigWrite func queue word value) := rfl
theorem Laws.Words.doorbell (func queue offset size : Nat) (value : Word) :
    Laws.Words.Statement (.doorbell func queue offset size value) := rfl
theorem Laws.Words.memoryWindowRead (func offset size : Nat) :
    Laws.Words.Statement (.memoryWindowRead func offset size) := rfl
theorem Laws.Words.memoryWindowWrite (func offset : Nat) (bytes : List Byte) :
    Laws.Words.Statement (.memoryWindowWrite func offset bytes) := rfl
theorem Laws.Words.memoryWindowAtomic (func offset size : Nat) (op : WindowAtomic) (operand swap : DWord) :
    Laws.Words.Statement (.memoryWindowAtomic func offset size op operand swap) := rfl
theorem Laws.Words.registerWrite (func offset : Nat) (value : Word) :
    Laws.Words.Statement (.registerWrite func offset value) := rfl
theorem Laws.Words.functionLevelReset (func : Nat) :
    Laws.Words.Statement (.functionLevelReset func) := rfl
theorem Laws.Words.packageReset (failedCores : List Nat) (memoryKept : Bool) :
    Laws.Words.Statement (.packageReset failedCores memoryKept) := rfl
theorem Laws.Words.linkTraining (ports domid devices : Nat) :
    Laws.Words.Statement (.linkTraining ports domid devices) := rfl
theorem Laws.Words.peerRequest (req : PeerReq) :
    Laws.Words.Statement (.peerRequest req) := rfl
theorem Laws.Words.correctedError (error : CorrectedError) :
    Laws.Words.Statement (.correctedError error) := rfl
theorem Laws.Words.uncorrectableError (site : ErrorSite) :
    Laws.Words.Statement (.uncorrectableError site) := rfl
theorem Laws.Words.coreRetirement (core : Nat) :
    Laws.Words.Statement (.coreRetirement core) := rfl
theorem Laws.Words.channelGroupWithdrawal (group : Nat) :
    Laws.Words.Statement (.channelGroupWithdrawal group) := rfl
theorem Laws.Words.debuggerContinue (gid : Nat) :
    Laws.Words.Statement (.debuggerContinue gid) := rfl
theorem Laws.Words.debuggerAttach (attached : Bool) :
    Laws.Words.Statement (.debuggerAttach attached) := rfl
theorem Laws.Words.memoryWindowServiceTimeout (index : Nat) :
    Laws.Words.Statement (.memoryWindowServiceTimeout index) := rfl
theorem Laws.Words.postQueuePartPerformed (gid : Nat) :
    Laws.Words.Statement (.postQueuePartPerformed gid) := rfl
theorem Laws.Words.scatterRowWrite (gid part : Nat) :
    Laws.Words.Statement (.scatterRowWrite gid part) := rfl
theorem Laws.Words.unloggedMarkNotice (notice : MarkNotice) :
    Laws.Words.Statement (.unloggedMarkNotice notice) := rfl

end Sys2Proof
end

