-- ==== Sys2Proof/Machine/Objects.lean ====
section
/-! DEFINITION. The Gyuth object format (09 R113-R116, R118-R121, 27 R348): what the bytes of a GOF file hold, and whether the
loader accepts it. The loader runs on the host; what it does to the device are host steps (Linking.lean). -/

namespace Sys2Proof.Machine

/-! Tables of a file. -/

/-- `n` bytes of a file from an offset on, as a number. -/
def fileNum (f : List Byte) (off n : Nat) : Nat := ofBytes ((f.drop off).take n)

/-- R113: the `n` entries of `size` bytes of a table. -/
def fileTable (f : List Byte) (off size n : Nat) : List Nat := (List.range n).map fun i => fileNum f (off + size * i) size

/-- R113: a name: a zero-terminated string of the string table. -/
def fileName (strings : List Byte) (off : Nat) : List Byte := (strings.drop off).takeWhile (· ≠ 0)

/-- R114: KIND of a section. -/
inductive SectionKind where
  | text
  | data
  | rodata
  | scratch
  | note
  deriving DecidableEq, Repr

/-- A section: its table entry, and its contents. A SCRATCH section has a size and no contents. -/
structure GofSection where
  name : List Byte := []
  kind : SectionKind := .note
  align : Nat := 0
  addr : Nat := 0
  fileOff : Nat := 0
  size : Nat := 0
  bytes : List Byte := []
  deriving DecidableEq, Repr

/-- R115: where a symbol stands. -/
inductive SymbolPlace where
  | undefined
  | absolute
  | within (section_ : Nat)
  deriving DecidableEq, Repr

/-- R115: KIND of a symbol. -/
inductive SymbolKind where
  | label
  | data
  | kernel
  | descriptor
  | absolute
  | trampoline
  deriving DecidableEq, Repr

/-- A symbol. -/
structure GofSymbol where
  name : List Byte := []
  place : SymbolPlace := .undefined
  kind : SymbolKind := .label
  isGlobal : Bool := false
  value : Nat := 0
  size : Nat := 0
  deriving DecidableEq, Repr

/-- R117: KIND of a relocation; LIT32 with its HALF. -/
inductive RelocKind where
  | woff23
  | lit32 (high : Bool)
  | abs64
  | tridx16
  | desc64
  | spillslot
  deriving DecidableEq, Repr

/-- R116: a relocation. -/
structure GofReloc where
  section_ : Nat
  kind : RelocKind
  symbol : Nat
  offset : Nat
  addend : Int
  deriving DecidableEq, Repr

/-- R118: a kernel entry; `roles` are its four role words, and an absent symbol is none. -/
structure GofKernel where
  name : List Byte := []
  entry : Nat := 0
  nroles : Nat := 1
  flags : Nat := 0
  barriers : Nat := 0
  scratch : Nat := 0
  roles : List Nat := []
  vobj : Option Nat := none
  ranges : Option Nat := none
  lcores : Nat := 0
  deriving DecidableEq, Repr

/-- R119: a trampoline entry. -/
structure GofTramp where
  index : Nat := 0
  fixed : Bool := false
  symbol : Nat := 0
  addend : Int := 0
  deriving DecidableEq, Repr

/-- R119: KIND of a descriptor entry. -/
inductive DescKind where
  | versionObject
  | combinable
  | node
  | layerTable
  | writeRanges
  deriving DecidableEq, Repr

/-- R119: a descriptor entry. -/
structure GofDesc where
  kind : DescKind
  name : List Byte := []
  section_ : Nat := 0
  size : Nat := 0
  offset : Nat := 0
  deriving DecidableEq, Repr

/-- A GOF file (R113). Sections and symbols stand under their indexes: entry 0 of each list is the table's entry 0, the unused
section and the section symbol (log 44). -/
structure Gof where
  linked : Bool := false
  tool : Bool := false
  signed : Bool := false
  sections : List GofSection := []
  symbols : List GofSymbol := []
  relocs : List GofReloc := []
  kernels : List GofKernel := []
  tramps : List GofTramp := []
  descs : List GofDesc := []
  deriving DecidableEq, Repr

/-! Entries (R114-R116, R118, R119): none for a reserved code or a reserved bit that is not zero. -/

/-- R114. Contents that run past the end of the file are the bytes there are, SIZE stays (DESIGN CHOICE, log 46). -/
def sectionOf (f strings : List Byte) (e : Nat) : Option GofSection :=
  let kind := match field e 32 8 with
    | 0 => some SectionKind.text | 1 => some .data | 2 => some .rodata | 3 => some .scratch | 4 => some .note | _ => none
  let off := field e 128 32
  let size := field e 160 32
  if field e 48 16 ≠ 0 || field e 192 64 ≠ 0 then none
  else kind.bind fun k =>
    let align := field e 40 8
    if k = .text && align < 5 then none
    else some
      { name := fileName strings (field e 0 32), kind := k, align := align, addr := field e 64 64, fileOff := off, size := size
        bytes := if k = .scratch then [] else (f.drop off).take size }

/-- R115. -/
def symbolOf (strings : List Byte) (e : Nat) : Option GofSymbol :=
  let place := match field e 32 16 with | 0xFFFF => SymbolPlace.undefined | 0xFFFE => .absolute | n => .within n
  let kind := match field e 48 4 with
    | 0 => some SymbolKind.label | 1 => some .data | 2 => some .kernel | 3 => some .descriptor | 4 => some .absolute
    | 5 => some .trampoline | _ => none
  if field e 54 10 ≠ 0 || 1 < field e 52 2 then none
  else kind.map fun k =>
    { name := fileName strings (field e 0 32), place := place, kind := k, isGlobal := field e 52 2 = 1, value := field e 64 64
      size := field e 128 64 }

/-- R116, R117. -/
def relocOf (e : Nat) : Option GofReloc :=
  let high := field e 20 1 = 1
  let kind := match field e 16 4 with
    | 0 => some RelocKind.woff23 | 1 => some (.lit32 high) | 2 => some .abs64 | 3 => some .tridx16 | 4 => some .desc64
    | 5 => some .spillslot | _ => none
  if field e 21 11 ≠ 0 then none
  else kind.map fun k =>
    { section_ := field e 0 16, kind := k, symbol := field e 32 32, offset := field e 64 64, addend := signed 64 (field e 128 64) }

/-- R118. -/
def kernelOf (strings : List Byte) (e : Nat) : Option GofKernel :=
  let sym := fun (n : Nat) => if n = 0xFFFFFFFF then none else some n
  if field e 77 3 ≠ 0 || field e 88 8 ≠ 0 || field e 352 160 ≠ 0 then none
  else some
    { name := fileName strings (field e 0 32), entry := field e 32 32, nroles := field e 64 8, flags := field e 72 5
      barriers := field e 80 8, scratch := field e 96 32, roles := (List.range 4).map fun r => field e (128 + 32 * r) 32
      vobj := sym (field e 256 32), ranges := sym (field e 288 32), lcores := field e 320 32 }

/-- R119. -/
def trampOf (e : Nat) : Option GofTramp :=
  if field e 17 15 ≠ 0 then none
  else some { index := field e 0 16, fixed := field e 16 1 = 1, symbol := field e 32 32, addend := signed 64 (field e 64 64) }

/-- R119. -/
def descOf (strings : List Byte) (e : Nat) : Option GofDesc :=
  let kind := match field e 0 8 with
    | 0 => some DescKind.versionObject | 1 => some .combinable | 2 => some .node | 3 => some .layerTable | 4 => some .writeRanges
    | _ => none
  if field e 8 24 ≠ 0 || field e 80 16 ≠ 0 then none
  else kind.map fun k =>
    { kind := k, name := fileName strings (field e 32 32), section_ := field e 64 16, size := field e 96 32, offset := field e 128 64 }

/-- R113: the file header. -/
def gofHeader (f : List Byte) : Nat := fileNum f 0 64

/-- R113: the magic bytes G, Y, U, H, version 1, no reserved bit set, and every table 8-byte aligned and within the file. -/
def headerLegal (f : List Byte) : Bool :=
  let h := gofHeader f
  let at_ := fun (off size n : Nat) => off % 8 = 0 && off + size * n ≤ f.length
  64 ≤ f.length && field h 0 32 = 0x48555947 && field h 32 16 = 1 && field h 51 13 = 0 && field h 112 16 = 0 && field h 304 16 = 0 &&
    at_ (field h 64 32) 32 (field h 96 16) && at_ (field h 128 32) 24 (field h 160 32) && at_ (field h 192 32) 24 (field h 224 32) &&
    at_ (field h 256 32) 64 (field h 288 16) && at_ (field h 320 32) 16 (field h 352 32) && field h 352 32 ≤ 65536 &&
    at_ (field h 384 32) 24 (field h 416 32) && at_ (field h 448 32) 1 (field h 480 32)

/-- R113-R119: what a file holds; none where it is no GOF file. Sections that hold descriptors are aligned to 64 (R114). -/
def parseGof (f : List Byte) : Option Gof :=
  let h := gofHeader f
  if !headerLegal f then none
  else do
    let strings := (f.drop (field h 448 32)).take (field h 480 32)
    let sections ← ((fileTable f (field h 64 32) 32 (field h 96 16)).drop 1).mapM (sectionOf f strings)
    let symbols ← ((fileTable f (field h 128 32) 24 (field h 160 32)).drop 1).mapM (symbolOf strings)
    let relocs ← (fileTable f (field h 192 32) 24 (field h 224 32)).mapM relocOf
    let kernels ← (fileTable f (field h 256 32) 64 (field h 288 16)).mapM (kernelOf strings)
    let tramps ← (fileTable f (field h 320 32) 16 (field h 352 32)).mapM trampOf
    let descs ← (fileTable f (field h 384 32) 24 (field h 416 32)).mapM (descOf strings)
    if !(descs.all fun d => match ((({} : GofSection) :: sections)[d.section_]?) with | some s => 6 ≤ s.align | none => false) then none
    return {
      linked := field h 48 1 = 1, tool := field h 49 1 = 1, signed := field h 50 1 = 1
      sections := {} :: sections, symbols := {} :: symbols, relocs := relocs, kernels := kernels, tramps := tramps, descs := descs }

/-! Notes and signatures (R120, R121, R348). -/

/-- R120: the records of a NOTE section: TYPE and payload. -/
def noteRecords : Nat → List Byte → List (Nat × List Byte)
  | 0, _ => []
  | n + 1, bs =>
    if bs.length < 8 then []
    else
      let len := fileNum bs 4 4
      (fileNum bs 0 4, (bs.drop 8).take len) :: noteRecords n (bs.drop (8 + (len + 7) / 8 * 8))

/-- The note records of a file. -/
def Gof.notes (o : Gof) : List (Nat × List Byte) :=
  (o.sections.filter fun s => s.kind = .note).flatMap fun s => noteRecords s.bytes.length s.bytes

/-- R121: the bytes the digest covers: the file in order, the contents of the NOTE sections left out, SIGNED taken as 1. -/
def Gof.digestBytes (o : Gof) (f : List Byte) : List Byte :=
  let noted := fun (i : Nat) => o.sections.any fun s => s.kind = .note && s.fileOff ≤ i && i < s.fileOff + s.size
  (f.zipIdx.filter fun p => !noted p.2).map fun p => if p.2 = 6 then p.1 ||| 4 else p.1

/-- R121, R348: does the loader accept a file for a device that trusts these signers? A signed file holds one record of each of
the types 1 to 4, its digest matches, its signatures verify over it, and its signer is listed; TRUSTCTL[0] admits an unsigned
file, and a signer whose identifier is zero (log 45). -/
def gofAccepted (f : List Byte) (signers : Nat) (trustctl : Word) : Bool :=
  match parseGof f with
  | none => false
  | some o =>
    if !o.signed then trustctl.getLsbD 0
    else
      let one := fun (t n : Nat) => match o.notes.filter fun r => r.1 = t with
        | [r] => if r.2.length = n then some r.2 else none
        | _ => none
      match one 1 48, one 2 64, one 3 3309, one 4 48 with
      | some digest, some ed, some ml, some signer =>
        let ident := ofBytes signer
        let listed := ident ≠ 0 && (List.range 4).any fun i => field signers (384 * i) 384 = ident
        digest = sha384 (o.digestBytes f) && (listed || (ident = 0 && trustctl.getLsbD 0)) &&
          Config.signatureVerifies (BitVec.ofNat 384 ident) (BitVec.ofNat 384 (ofBytes digest)) ed ml
      | _, _, _, _ => false

end Sys2Proof.Machine
end

