-- ==== Sys2Proof/Machine/Linking.lean ====
section
/-! DEFINITION. gylink and the host driver's loader (09 R90, R117, R122, R123): relocations, the linked image, and the host steps
that place it in a device's memory. -/

namespace Sys2Proof.Machine

/-- What linking or loading fails on. -/
inductive LinkError where
  /-- Two definitions of a global symbol (R122). -/
  | duplicate (name : List Byte)
  /-- A symbol still undefined, or an entry that names a section or symbol the file has not (R122). -/
  | undefined (name : List Byte)
  /-- Two fixed trampoline entries with one index, or no index left (R122). -/
  | trampolines
  /-- A kernel whose shape breaks R26 or R108. -/
  | kernel (name : List Byte)
  /-- More than 2 MiB of scratchpad (R122). -/
  | scratch
  /-- A relocation's check fails (R117). -/
  | relocation (r : GofReloc)
  /-- A displacement R123 does not allow. -/
  | displacement
  deriving DecidableEq, Repr

/-! Literal slots (R88). -/

/-- R88: is the word an L-form: class 111, sub-opcode 4? -/
def longForm (w : Word) : Bool := w.extractLsb' 26 6 == 0x3C

/-- The literal slots among the slots of a code frame, from slot `n` on. -/
def literalSlots : Nat → List Word → List Nat
  | n, w :: x :: rest => if longForm w then (n + 1) :: literalSlots (n + 2) rest else literalSlots (n + 1) (x :: rest)
  | _, _ => []

/-- R117: does a link address lie on a literal slot, or in a literal frame (R100)? -/
def Gof.literalAt (o : Gof) (a : Int) : Bool :=
  o.sections.any fun s =>
    let off := (a - s.addr).toNat
    let ws := toWords 8 (fileNum s.bytes (off / 32 * 32) 32)
    s.kind = .text && decide ((s.addr : Int) ≤ a) && off < s.bytes.length &&
      (field (ws.headD 0).toNat 29 3 = 1 || (literalSlots 1 (ws.drop 1)).contains (off % 32 / 4))

/-! Relocations (R117). -/

/-- The start of a section, displaced by `delta` unless it is SCRATCH (R123). -/
def Gof.sectionAt (o : Gof) (delta : Int) (n : Nat) : Option Int :=
  o.sections[n]?.map fun s => (s.addr : Int) + (if s.kind = .scratch then 0 else delta)

/-- R117, R123: S of a symbol: its address, displaced, or the value of an absolute or trampoline symbol. -/
def Gof.symbolAt (o : Gof) (delta : Int) (y : GofSymbol) : Option Int :=
  match y.place with
  | .undefined => none
  | .absolute => some y.value
  | .within n => (o.sectionAt delta n).map fun a => a + y.value

/-- R115, R117: S of a relocation. Symbol 0 is the start of the section that holds the patched word, and 0 for a SPILLSLOT. -/
def Gof.relocSymbol (o : Gof) (delta : Int) (r : GofReloc) : Option Int :=
  if r.symbol = 0 then (if r.kind = .spillslot then some 0 else o.sectionAt delta r.section_)
  else o.symbols[r.symbol]?.bind (o.symbolAt delta)

/-- Has the relocation's symbol this kind? -/
def Gof.symbolIs (o : Gof) (r : GofReloc) (k : SymbolKind) : Bool :=
  r.symbol ≠ 0 && match o.symbols[r.symbol]? with | some y => y.kind = k | none => false

/-- R117: what a relocation writes over the word `old` at P: how many bytes, and their value; none where its check fails. `v` is
S + A in 64 bits, `tool` the TOOL bit that governs a SPILLSLOT. -/
def Gof.patch (o : Gof) (delta : Int) (tool : Bool) (r : GofReloc) (v p old : Nat) : Option (Nat × Nat) :=
  let d := (v : Int) - p
  match r.kind with
  | .woff23 =>
    if d % 4 = 0 && decide (-(2 ^ 22) ≤ d / 4) && decide (d / 4 < 2 ^ 22) && v % 32 ≠ 0 && !o.literalAt (v - delta) &&
        v / 2 ^ 32 = p / 2 ^ 32 then some (4, setField old 0 23 (wrap 23 (d / 4))) else none
  | .lit32 high => some (4, field v (if high then 32 else 0) 32)
  | .abs64 => if p % 4 = 0 then some (8, v) else none
  | .tridx16 => if v < 65536 && o.symbolIs r .trampoline then some (4, setField old 0 16 v) else none
  | .desc64 => if v % 64 = 0 && o.symbolIs r .descriptor then some (8, v) else none
  | .spillslot => if v < (if tool then 256 else 240) then some (4, setField old 0 8 v) else none

/-- R117: a relocation is applied, the image displaced by `delta`. -/
def Gof.applyReloc (delta : Int) (o : Gof) (r : GofReloc) (tool : Bool) : Except LinkError Gof :=
  match o.sections[r.section_]?, o.relocSymbol delta r, o.sectionAt delta r.section_ with
  | some s, some sym, some start =>
    let p := (start + r.offset).toNat
    match o.patch delta tool r (wrap 64 (sym + r.addend)) p (fileNum s.bytes r.offset 4) with
    | some (n, w) =>
      if s.bytes.length < r.offset + n then .error (.relocation r)
      else
        let bs := s.bytes.take r.offset ++ toBytes n w ++ s.bytes.drop (r.offset + n)
        .ok { o with sections := o.sections.set r.section_ { s with bytes := bs } }
    | none => .error (.relocation r)
  | _, _, _ => .error (.relocation r)

/-! Sections (R122 step 1). -/

/-- `a` rounded up to a multiple of `n`. -/
def alignUp (a n : Nat) : Nat := (a + n - 1) / n * n

/-- A section of an object: the object's number, the section's index, and the section. -/
abbrev Piece := Nat × Nat × GofSection

/-- The sections of the objects in command order. -/
def pieces (objs : List Gof) : List Piece :=
  objs.zipIdx.flatMap fun (o, k) => (o.sections.zipIdx.drop 1).map fun (s, i) => (k, i, s)

/-- Pieces put one after the other, each at its alignment: the offset of each, and the section they make. -/
def joinPieces : List Piece → GofSection → List ((Nat × Nat) × Nat) → GofSection × List ((Nat × Nat) × Nat)
  | [], s, offs => (s, offs)
  | (k, i, p) :: ps, s, offs =>
    let off := alignUp s.size (2 ^ p.align)
    joinPieces ps
      { s with
        align := max s.align p.align, size := off + p.size
        bytes := if s.kind = .scratch then [] else s.bytes ++ List.replicate (off - s.size) 0 ++ p.bytes }
      (offs ++ [((k, i), off)])

/-- The sections of an image in their order: TEXT, RODATA, DATA, SCRATCH, NOTE, each kind's names in command order. -/
def sectionKeys (ps : List Piece) : List (SectionKind × List Byte) :=
  let keys := (ps.map fun p => (p.2.2.kind, p.2.2.name)).eraseDups
  [SectionKind.text, .rodata, .data, .scratch, .note].flatMap fun k => keys.filter fun e => e.1 = k

/-- What a linked section and its pieces are: the section, and for each piece its new section and offset. -/
structure Layout where
  sections : List GofSection := [{}]
  moved : List ((Nat × Nat) × (Nat × Nat)) := []
  next : Nat
  scratch : Nat := 0
  deriving DecidableEq, Repr

/-- R122: the sections are laid out: TEXT, RODATA and DATA from the base on, SCRATCH from offset 0. A NOTE section has no address. -/
def layOut (ps : List Piece) : List (SectionKind × List Byte) → Layout → Layout
  | [], l => l
  | key :: keys, l =>
    let (s, offs) := joinPieces (ps.filter fun p => p.2.2.kind = key.1 ∧ p.2.2.name = key.2) { name := key.2, kind := key.1 } []
    let sc := key.1 = SectionKind.scratch
    let note := key.1 = SectionKind.note
    let a := if note then 0 else alignUp (if sc then l.scratch else l.next) (2 ^ s.align)
    layOut ps keys
      { sections := l.sections ++ [{ s with addr := a }]
        moved := l.moved ++ offs.map fun e => (e.1, (l.sections.length, e.2))
        next := if sc || note then l.next else a + s.size, scratch := if sc then a + s.size else l.scratch }

/-- Where a section of an object has gone. -/
def Layout.find (l : Layout) (k i : Nat) : Option (Nat × Nat) := (l.moved.find? fun e => e.1 = (k, i)).map fun e => e.2

/-! Trampolines (R122 step 3). -/

/-- The lowest index not yet in use. -/
def freeIndex (used : List Nat) : Nat := ((List.range (used.length + 1)).find? fun k => !used.contains k).getD used.length

/-- The indexes of the entries in command order, the free ones given in turn. -/
def assignTramps : List GofTramp → List Nat → List GofTramp
  | [], _ => []
  | t :: ts, used =>
    if t.fixed then t :: assignTramps ts used
    else
      let k := freeIndex used
      { t with index := k } :: assignTramps ts (k :: used)

/-! Kernels (R26, R108). -/

/-- R26, R108: does the kernel's shape keep the limits? -/
def GofKernel.legal (k : GofKernel) : Bool :=
  let flag := fun (n : Nat) => k.flags.testBit n
  let used := k.roles.take k.nroles
  1 ≤ k.nroles && k.nroles ≤ 4 && (used.all fun w => 1 ≤ field w 0 8 && 1 ≤ field w 8 8 && field w 8 8 ≤ 16 && field w 16 16 = 0) &&
    ((k.roles.drop k.nroles).all fun w => w = 0) && used.foldl (fun n w => n + field w 0 8) 0 ≤ 32 && k.barriers ≤ 64 &&
    (!flag 1 || flag 0) && (if flag 2 then 1 ≤ k.lcores && k.lcores ≤ 256 else k.lcores = 0)

/-! The image (R122). -/

/-- The first number of each object's symbols, and of its trampoline entries, in the image's tables. -/
def startOf (sizes : List Nat) (first k : Nat) : Nat := (sizes.take k).foldl (· + ·) first

/-- A symbol of an object in the image: its section and offset as laid out; a trampoline symbol, whose VALUE is its entry's number
in the object, has its entry's index (log 46). -/
def imageSymbol (l : Layout) (index : Nat → Option Nat) (k : Nat) (y : GofSymbol) : Except LinkError GofSymbol :=
  match y.place with
  | .within n => match l.find k n with
    | some (m, off) => .ok { y with place := .within m, value := y.value + off }
    | none => .error (.undefined y.name)
  | .absolute =>
    if y.kind = .trampoline then match index y.value with
      | some v => .ok { y with value := v }
      | none => .error (.undefined y.name)
    else .ok y
  | .undefined => .ok y

/-- R122 step 2: the definition of a global name. -/
def definitionOf (table : List GofSymbol) (name : List Byte) : Option Nat :=
  table.findIdx? fun y => y.isGlobal && y.place ≠ .undefined && y.name = name

/-- R122: gylink: objects in command order and the base of TEXT give an image, or an error. -/
def link (objs : List Gof) (base : Nat) : Except LinkError Gof := do
  let ps := pieces objs
  let l := layOut ps (sectionKeys ps) { next := base }
  let trampStart := startOf (objs.map fun o => o.tramps.length) 0
  let symStart := startOf (objs.map fun o => o.symbols.length - 1) 1
  let entries := objs.flatMap fun o => o.tramps
  let fixed := (entries.filter fun t => t.fixed).map fun t => t.index
  if !decide fixed.Nodup || 65536 < entries.length then throw .trampolines
  let tramps := assignTramps entries fixed
  let lists ← objs.zipIdx.mapM fun (o, k) =>
    (o.symbols.drop 1).mapM (imageSymbol l (fun n =>
      if n < o.tramps.length then (tramps[trampStart k + n]?).map fun t => t.index else none) k)
  let table := ({} : GofSymbol) :: lists.flatten
  let defined := (table.filter fun y => y.isGlobal && y.place ≠ .undefined).map fun y => y.name
  if !decide defined.Nodup then throw (.duplicate ((defined.find? fun n => 1 < defined.count n).getD []))
  let resolve := fun (k n : Nat) =>
    if n = 0 then Except.ok 0
    else match table[symStart k + (n - 1)]? with
      | none => .error (LinkError.undefined [])
      | some y =>
        if y.place ≠ .undefined then .ok (symStart k + (n - 1))
        else match definitionOf table y.name with | some i => .ok i | none => .error (.undefined y.name)
  let _ ← objs.zipIdx.mapM fun (o, k) => ((List.range o.symbols.length).drop 1).mapM (resolve k)
  let relocs ← objs.zipIdx.mapM fun (o, k) => o.relocs.mapM fun r => match l.find k r.section_ with
    | none => Except.error (LinkError.relocation r)
    | some (m, off) => do
      let y ← resolve k r.symbol
      let a := if r.symbol = 0 && r.kind ≠ .spillslot then r.addend + off else r.addend
      return (({ r with section_ := m, offset := r.offset + off, symbol := y, addend := a } : GofReloc), o.tool)
  let owned ← objs.zipIdx.mapM fun (o, k) => o.tramps.mapM fun t => resolve k t.symbol
  let kernels ← objs.zipIdx.mapM fun (o, k) => o.kernels.mapM fun x => do
    if !x.legal then throw (.kernel x.name)
    let sym := fun (n : Option Nat) => match n with | none => Except.ok none | some n => (resolve k n).map some
    return ({ x with entry := ← resolve k x.entry, vobj := ← sym x.vobj, ranges := ← sym x.ranges, scratch := l.scratch } : GofKernel)
  let descs ← objs.zipIdx.mapM fun (o, k) => o.descs.mapM fun d => match l.find k d.section_ with
    | none => Except.error (LinkError.undefined d.name)
    | some (m, off) => Except.ok { d with section_ := m, offset := d.offset + off }
  if 2 ^ 21 < l.scratch then throw .scratch
  let image : Gof :=
    { linked := true, tool := objs.any fun o => o.tool, sections := l.sections, symbols := table
      relocs := (relocs.flatten.map fun r => r.1), kernels := kernels.flatten, descs := descs.flatten
      tramps := (tramps.zip owned.flatten).map fun p => { p.1 with symbol := p.2 } }
  relocs.flatten.foldlM (fun o r => o.applyReloc 0 r.1 r.2) image

/-! Loading (R123). -/

/-- R91, R123 step 2: the trampoline table: TARGET and VALID of each assigned index, zero for the others up to the highest. -/
def Gof.trampTable (o : Gof) (delta : Int) : List Byte :=
  let top := o.tramps.foldl (fun n t => max n (t.index + 1)) 0
  (List.range top).flatMap fun k => match o.tramps.find? fun t => t.index = k with
    | some t => match o.symbols[t.symbol]?.bind (o.symbolAt 0) with
      | some a => toBytes 16 (2 ^ 64 + wrap 64 (a + t.addend + delta))
      | none => toBytes 16 0
    | none => toBytes 16 0

/-- R123: what the loader writes: virtual addresses and bytes, the image displaced by `delta`, with a trampoline table for TRB. -/
def Gof.load (o : Gof) (delta : Int) (trb : Word) : Except LinkError (List (Nat × List Byte)) := do
  let placed := o.sections.filter fun s => s.kind = .text || s.kind = .rodata || s.kind = .data
  let region := fun (a : Int) => a / 2 ^ 32
  if !(placed.all fun s => delta % (2 ^ s.align : Nat) = 0) then throw .displacement
  if !(placed.all fun s => s.kind ≠ .text || s.size = 0 || region (s.addr + delta) = region (s.addr + s.size - 1 + delta)) then
    throw .displacement
  let moved ← o.relocs.foldlM (fun o r => o.applyReloc delta r o.tool) o
  let parts := (moved.sections.filter fun s => s.kind = .text || s.kind = .rodata || s.kind = .data).map fun s =>
    (((s.addr : Int) + delta).toNat, s.bytes)
  return parts ++ [(0x10000 * trb.toNat, o.trampTable delta)]

/-- The pieces of at most 16 aligned bytes in which the host writes these bytes through a function's memory window (27 R345):
each one's offset in the window and its bytes, a MEMORY_WINDOW_WRITE each. -/
def loadPieces (mwbase : DWord) (parts : List (Nat × List Byte)) : List (Nat × List Byte) :=
  parts.flatMap fun (va, bs) => (windowParts va bs.length).filterMap fun (a, n) =>
    if n = 0 || bs.isEmpty then none else some ((BitVec.ofNat 64 a - mwbase).toNat, (bs.drop (a - va)).take n)

end Sys2Proof.Machine
end

