-- ==== Sys2Proof/Machine/Assembly.lean ====
section
/-! DEFINITION. What gyas computes from a source's statements (09 R98-R101, R103-R108, R110): expressions, operands, the U bit,
ranges, stall counts, frames, data directives, the shape of a kernel, and macros. Source.lean makes an object of a whole source. It
runs on the host; reading the source's text into statements is left out (NOTES.md, Scope). -/

namespace Sys2Proof.Machine

/-! Expressions (R98). -/

/-- R98: the operators of two operands. -/
inductive BinOp where
  | mul
  | div
  | mod
  | add
  | sub
  | shl
  | shr
  | and
  | xor
  | or
  deriving DecidableEq, Repr

/-- R98: precedence, the tightest highest; the unary operators bind tighter than any of these. -/
def BinOp.level : BinOp → Nat
  | .mul | .div | .mod => 6
  | .add | .sub => 5
  | .shl | .shr => 4
  | .and => 3
  | .xor => 2
  | .or => 1

/-- R98: an expression; `here` is the current address. -/
inductive AsmExpr where
  | int (n : DWord)
  | symbol (name : List Byte)
  | here
  | neg (e : AsmExpr)
  | not (e : AsmExpr)
  | op (o : BinOp) (a b : AsmExpr)
  | lo32 (e : AsmExpr)
  | hi32 (e : AsmExpr)
  deriving DecidableEq, Repr

/-- R98: an operator in 64-bit two's complement; division by zero is an error. A shift of 64 or more leaves no bit of the operand
but its sign (log 47). -/
def BinOp.apply (o : BinOp) (a b : DWord) : Option DWord :=
  match o with
  | .mul => some (a * b)
  | .div => if b = 0 then none else some (a.sdiv b)
  | .mod => if b = 0 then none else some (a.srem b)
  | .add => some (a + b)
  | .sub => some (a - b)
  | .shl => some (a <<< min 64 b.toNat)
  | .shr => some (a.sshiftRight (min 64 b.toNat))
  | .and => some (a &&& b)
  | .xor => some (a ^^^ b)
  | .or => some (a ||| b)

/-- R98: the value of an expression; none where a symbol has no value, or a divisor is zero. -/
def AsmExpr.eval (value : List Byte → Option DWord) (here : DWord) : AsmExpr → Option DWord
  | .int n => some n
  | .symbol x => value x
  | .here => some here
  | .neg e => (e.eval value here).map fun v => -v
  | .not e => (e.eval value here).map fun v => ~~~v
  | .op o a b => (a.eval value here).bind fun x => (b.eval value here).bind fun y => o.apply x y
  | .lo32 e => (e.eval value here).map fun v => v &&& 0xFFFFFFFF
  | .hi32 e => (e.eval value here).map fun v => v.ushiftRight 32

/-- R98: a float of the source, m · 10^e, in a format, rounded to nearest-even. -/
def decimalBits (f : Fmt) (neg : Bool) (m : Nat) (e : Int) : Nat :=
  if m = 0 then f.signed neg 0
  else if 0 ≤ e then f.roundSticky .rn neg (m * 10 ^ e.toNat) 0 false
  else
    let d := 10 ^ (-e).toNat
    let s := bitLength d + f.fbits + 3
    f.roundSticky .rn neg (m * 2 ^ s / d) (-(s : Int)) (m * 2 ^ s % d ≠ 0)

/-! Ranges (R103, R107). -/

/-- R103: does a value fit a signed field of `w` bits? -/
def fitsSigned (w : Nat) (v : Int) : Bool := decide (-(2 ^ (w - 1)) ≤ v) && decide (v ≤ 2 ^ (w - 1) - 1)

/-- R103: does it fit an unsigned one? -/
def fitsUnsigned (w : Nat) (v : Int) : Bool := decide (0 ≤ v) && decide (v ≤ 2 ^ w - 1)

/-- R103, R107: does it fit a literal, or data of `w` bits, read either way? -/
def fitsEither (w : Nat) (v : Int) : Bool := decide (-(2 ^ (w - 1)) ≤ v) && decide (v ≤ 2 ^ w - 1)

/-! Registers and the U bit (R99, R101). -/

/-- R99: a register name. -/
inductive AsmReg where
  | v (n : Nat)
  | s (n : Nat)
  | z
  | p (n : Nat)
  | q (n : Nat)
  | g (n : Nat)
  | x (n : Nat)
  | acc (n : Nat)
  deriving DecidableEq, Repr

/-- R99: the value of a register field that the table governs; none where gyas rejects the name there. -/
def AsmReg.regField (u dest : Bool) : AsmReg → Option Nat
  | .v n => if !u && n ≤ 111 then some n else none
  | .s n => if u then (if n ≤ 126 then some n else none) else if !dest && n ≤ 14 then some (112 + n) else none
  | .z => some 127
  | _ => none

/-- R99: the value of a predicate field. -/
def AsmReg.predField (u : Bool) : AsmReg → Option Nat
  | .p n => if !u && n ≤ 127 then some n else none
  | .q n => if u && n ≤ 15 then some n else none
  | _ => none

/-- R99: a guard prefix, or the slot of GSET. -/
def AsmReg.slotField : AsmReg → Option Nat
  | .g n => if 1 ≤ n && n ≤ 7 then some n else none
  | _ => none

/-- R99: the translation register of a memory operand. -/
def AsmReg.xField : AsmReg → Option Nat
  | .x n => if n ≤ 7 then some n else none
  | _ => none

/-- R99: a tile operand. -/
def AsmReg.tileField : AsmReg → Option Nat
  | .acc n => if n ≤ 7 then some n else none
  | _ => none

/-- The kind of register that an instruction's entry names for an operand. -/
inductive AsmRegKind where
  | s
  | q
  | p
  | acc
  | x
  | g
  deriving DecidableEq, Repr

/-- The number of a register of a kind; none where the register is of another. -/
def AsmReg.ofKind : AsmRegKind → AsmReg → Option Nat
  | .s, .s n | .q, .q n | .p, .p n | .acc, .acc n | .x, .x n | .g, .g n => some n
  | _, _ => none

/-- R99: an operand that its instruction's entry encodes as `base` + j (112 + j, or j itself), with j at most `limit` and the register of
the entry's kind: every operand of an S word that names no vector register, and GSET's. `zero` says that the entry takes z too. -/
def AsmReg.entryField (kind : AsmRegKind) (base limit : Nat) (zero : Bool) (r : AsmReg) : Option Nat :=
  if r = .z then (if zero then some 127 else none)
  else (r.ofKind kind).bind fun n => if n ≤ limit then some (base + n) else none

/-- R101: the U bit of a word that 07 R79 allows with either value. -/
def asmUniform (suffix : Bool) (operands : List AsmReg) : Bool :=
  suffix || ((operands.all fun r => match r with | .s _ | .q _ | .z => true | _ => false) &&
    operands.any fun r => match r with | .s _ | .q _ => true | _ => false)

/-! Operands (R99, R100, R103). -/

/-- An operand as it is written: how its field gets its value. -/
inductive AsmOperand where
  /-- a register field or predicate field that R99's table governs -/
  | reg (r : AsmReg) (dest : Bool)
  | pred (r : AsmReg)
  | tile (r : AsmReg)
  | slot (r : AsmReg)
  | xreg (r : AsmReg)
  /-- a register whose entry gives its kind and its encoding -/
  | entry (r : AsmReg) (kind : AsmRegKind) (base limit : Nat) (zero : Bool := false)
  /-- a number in a signed or unsigned field -/
  | number (isSigned : Bool) (e : AsmExpr)
  /-- R100: the byte offset of a memory operand, and its access size -/
  | offset (bytes : AsmExpr) (size : Nat)
  /-- the continuation of a YIELD (15 R223): a signed count of words from the instruction -/
  | ahead (target : AsmExpr)
  deriving DecidableEq, Repr

/-- R98: what is known of expressions where an instruction stands: the number that one comes to, and the bytes from the instruction
to the address that one names. Outside a source no symbol is known. -/
structure AsmScope where
  number : AsmExpr → Option Int := fun e => (e.eval (fun _ => none) 0).map fun v => v.toInt
  ahead : AsmExpr → Option Int := fun _ => none

/-- R101: the register that a register operand names. The translation register of a memory operand is part of that operand, no
register operand (log 47). -/
def AsmOperand.register : AsmOperand → Option AsmReg
  | .reg r _ | .pred r | .tile r | .slot r | .entry r _ _ _ _ => some r
  | _ => none

/-- R103: a number in a field of `w` bits; none where it does not fit. -/
def numberField (isSigned : Bool) (w : Nat) (v : Int) : Option Nat :=
  if if isSigned then fitsSigned w v else fitsUnsigned w v then some (wrap w v) else none

/-- R99, R100, R103: the value of an operand's field of `w` bits; none where gyas rejects the operand. -/
def AsmOperand.field (c : AsmScope) (u : Bool) (w : Nat) : AsmOperand → Option Nat
  | .reg r dest => r.regField u dest
  | .pred r => r.predField u
  | .tile r => r.tileField
  | .slot r => r.slotField
  | .xreg r => r.xField
  | .entry r kind base limit zero => r.entryField kind base limit zero
  | .number isSigned e => (c.number e).bind (numberField isSigned w)
  | .offset e size => (c.number e).bind fun bytes =>
    if 0 < size && bytes % size = 0 && decide (0 ≤ bytes) && decide (bytes ≤ 31 * size) then some (bytes / size).toNat else none
  | .ahead e => (c.ahead e).bind fun n => if n % 4 = 0 then numberField true w (n / 4) else none

/-- An instruction as it is written: what its mnemonic and suffixes give of the word, its guard prefix, its operands with the places
and widths of their fields, the literal of an L-form, and whether it carries .U. -/
structure AsmWord where
  base : Word
  guard : Option AsmReg := none
  operands : List (Nat × Nat × AsmOperand) := []
  lit : Word := 0
  suffixU : Bool := false
  /-- the U bit of the only form with these operands -/
  onlyU : Option Bool := none
  deriving DecidableEq, Repr

/-- R80, R81: the place and width of the guard field of a word; none where it has none: an M or S word, MARK, PROBE and the
L-forms. -/
def guardPlace (w : Word) : Option (Nat × Nat) :=
  match (w.extractLsb' 29 3).toNat, (w.extractLsb' 26 3).toNat with
  | 0, _ | 1, _ => some (21, 3)
  | 2, _ | 3, _ => some (22, 3)
  | 4, _ => some (21, 2)
  | 7, 0 | 7, 1 | 7, 3 | 7, 5 => some (23, 3)
  | _, _ => none

/-- A value put into a field of a word; none where it does not fit. -/
def putField (lo w v : Nat) (x : Word) : Option Word := if v < 2 ^ w then some (x ||| BitVec.ofNat 32 (v * 2 ^ lo)) else none

/-- R100: the word with its guard: 0 without a prefix; none where gyas rejects the prefix. -/
def AsmWord.guarded (a : AsmWord) : Option Word :=
  match a.guard with
  | none => some a.base
  | some r => (guardPlace a.base).bind fun p => r.slotField.bind fun v => putField p.1 p.2 v a.base

/-- The word under a value of the U bit. -/
def AsmWord.word (a : AsmWord) (c : AsmScope) (u : Bool) : Option Word :=
  a.guarded.bind (a.operands.foldlM fun (w : Word) o => (o.2.2.field c u o.2.1).bind fun v => putField o.1 o.2.1 v w)

/-- R47, R48: may a run of `n` registers stand in a field? A run of two or more lies below v112, or below field 127 in a uniform word. -/
def runFits (u : Bool) (f n : Nat) : Bool := n ≤ 1 || f + n ≤ if u then 127 else 112

/-- R198: may a run of the registers that `size` code fills stand in a d field: below v112, or one register that is only read? -/
def runRange (u source : Bool) (d size : Nat) : Bool :=
  let n := if size ≤ 2 then 1 else 2 ^ (size - 2)
  if u then runFits u d n else d + n ≤ 112 || (source && n = 1)

/-- R47, R175: under x0 the address register is the low one of a flat pointer. -/
def pairRange (u : Bool) (x : BitVec 3) (a : BitVec 7) : Bool := x ≠ 0 || runFits u a.toNat 2

/-- R103: does the instruction keep the ranges that its entry states for its operands? -/
def asmRange : Instr → Bool
  | .ld u x d a s _ | .lda u x d a s _ => runRange u false d.toNat s.toNat && pairRange u x a
  | .sld u d _ s _ => runRange u false d.toNat s.toNat
  | .lds u x d a s _ => runRange u false d.toNat s.toNat && pairRange u x a
  | .slds u d _ s _ => runRange u false d.toNat s.toNat
  | .st u x d a s _ | .strel u x d a s _ => runRange u true d.toNat s.toNat && pairRange u x a
  | .sst u d _ s _ => runRange u true d.toNat s.toNat
  | .atom x d a s o _ => runRange false false d.toNat (s.toNat + (if o = 7 then 3 else 2)) && pairRange false x a
  | .satom d _ s o => runRange false false d.toNat (s.toNat + (if o = 7 then 3 else 2))
  | .red x d a s o _ => runRange false true d.toNat (s.toNat + (if o = 7 then 3 else 2)) && pairRange false x a
  | .ldts x _ a _ _ | .pref x a _ _ => pairRange false x a
  | .cpy x d a _ r _ => if r = 2 then x = 0 else (r = 1 || pairRange false x a) && (r = 0 || pairRange false x d)
  | .iadd64 u _ d a _ => runFits u d.toNat 2 && runFits u a.toNat 2
  | .mdrain d _ _ => runFits false d.toNat 16
  | .shflxor _ _ _ b | .lshup _ _ _ b | .lshdn _ _ _ b => 112 ≤ b.toNat
  | .mma _ a _ _ => runFits false a.toNat 32
  | .mstore a _ _ _ _ _ => 112 ≤ a.toNat && a.toNat ≤ 124
  | .seal a => 112 ≤ a.toNat
  | .yield _ k r => k ≠ 2 || r.toNat ≤ 126
  | .psave u _ _ a => u || a.toNat ≤ 3
  | .pload u _ d _ => u || d.toNat ≤ 3
  | .srd _ _ _ i | .swr _ _ _ i => i.toNat < 0x20
  | .gset d a n => d ≠ 0 && d.toNat ≤ 7 && (!n.getLsbD 1 || a.toNat ≤ 15)
  | .xlat d a _ => d ≠ 0 && d.toNat ≤ 7 && 112 ≤ a.toNat && a.toNat ≤ 125
  | .gath d a _ | .scat d a _ _ _ => 112 ≤ a.toNat && a.toNat ≤ 120 && 112 ≤ d.toNat && d.toNat ≤ 126
  | .mcast _ a => 112 ≤ a.toNat && a.toNat ≤ 122
  | .mgang a => 112 ≤ a.toNat && a.toNat ≤ 125
  | .mfence d => 112 ≤ d.toNat && d.toNat ≤ 126
  | .pass a j => a.toNat ≤ 15 && j.toNat ≤ 123
  | .vread a _ j => 112 ≤ a.toNat && a.toNat ≤ 125 && j.toNat ≤ 123
  | .vwait a _ j => 112 ≤ a.toNat && a.toNat ≤ 124 && j.toNat ≤ 123
  | .vdone a m => 112 ≤ a.toNat && a.toNat ≤ 125 && m.toNat ≤ 126
  | .post _ _ _ j | .launch _ j => j.toNat ≤ 125
  | .enq d _ e j => if e = 1 then j.toNat ≤ 124 && runFits false d.toNat 2 else j.toNat ≤ 125
  | .signal a _ => runFits false a.toNat 2
  | .lwait a j => 112 ≤ a.toNat && a.toNat ≤ 124 && j.toNat ≤ 125
  | .ldone a | .lhint a => 112 ≤ a.toNat && a.toNat ≤ 124
  | .enrd k j => k.toNat ≤ 5 && j.toNat ≤ 125
  | .jmpi a => a.toNat ≤ 125
  | .tret m => m ≠ 3
  | .pmap _ a _ _ => 112 ≤ a.toNat && a.toNat ≤ 125
  | .tlbiDrain j => j.toNat ≤ 124
  | _ => true

/-- The instruction under a value of the U bit: none where an operand is rejected or out of range, or the word is no instruction
with that bit (07 R79, R94). -/
def AsmWord.instrAs (a : AsmWord) (c : AsmScope) (u : Bool) : Option Instr :=
  (a.word c u).bind fun w => match decodeWord u false w a.lit with
    | .ok i => if asmRange i then some i else none
    | .error _ => none

/-- 07 R79: does the word allow U = 1? -/
def AsmWord.allowsU (a : AsmWord) : Bool := match decodeWord true false a.base a.lit with | .ok _ => true | .error _ => false

/-- R101: the instruction that gyas writes, with the U bit it chooses. A word that allows U = 0 alone takes that. -/
def AsmWord.instr (a : AsmWord) (c : AsmScope := {}) : Option Instr :=
  let u := a.suffixU || (a.allowsU && asmUniform false (a.operands.filterMap fun o => o.2.2.register))
  if a.onlyU.all (· = u) then a.instrAs c u else none

/-- An instruction of as many words, which holds the place of one whose operands are not known yet. -/
def AsmWord.stand (a : AsmWord) : Instr := if longWord false a.base then .movl false 0 0 else .nop false

/-! Stall counts (R104, R105). -/

/-- An instruction of a .text section: whether it carries a label, a count that its suffix gives, and the number of its statement in
the source; `fill` marks a NOP that completes a frame. -/
structure AsmInstr where
  i : Instr
  labelled : Bool := false
  given : Option Nat := none
  tag : Nat := 0
  fill : Bool := false
  deriving DecidableEq, Repr

/-- R104: can the instruction change the path? -/
def endsRun : Instr → Bool
  | .bra _ _ _ | .call _ _ _ | .brk _ | .tramp _ _ | .join | .ret _ | .jmpi _ | .exit | .trap _ | .sys _ | .tret _ | .bkpt _
  | .yield _ _ _ | .cdone => true
  | _ => false

/-- What gyas knows of a register: its name, and for a vector register the window base, if a WIN of the run has set it. -/
structure AsmRes where
  res : Res
  win : Option Nat := none
  deriving DecidableEq, Repr

/-- 05 R46: may the two name one register? A vector register under an unknown window base may be any that lies a multiple of 16
away. -/
def AsmRes.mayMeet (a b : AsmRes) : Bool :=
  match a.res, b.res with
  | .v m, .v n => match a.win, b.win with
    | some x, some y => 16 * x + m = 16 * y + n
    | none, none => m = n
    | _, _ => m % 16 = n % 16
  | x, y => x = y

/-- A producer of the run that is not yet readable. -/
structure AsmProducer where
  res : AsmRes
  dist : Nat := 0
  lat : Nat
  deriving DecidableEq, Repr

/-- What gyas knows on its walk: the producers and the window base of the run, and the guard slots that the section has set so far, in
source order (DEDUCED, log 47). -/
structure AsmWalk where
  prods : List AsmProducer := []
  win : Option Nat := none
  slots : List (Nat × BitVec 9) := []
  deriving DecidableEq, Repr

/-- R104: the roles of a word as gyas counts them: a run that a descriptor sizes is taken at its longest, 16 bytes. -/
def asmShape (i : Instr) : Shape :=
  match i with
  | .post d a r j =>
    { src := [(a.toNat, 4)], ssrc := [(j.toNat, 2)], dst := if r = 1 then [(d.toNat, 1)] else [] }
  | .reply d a => { src := [(d.toNat, 1), (a.toNat, 4)] }
  | .enq d a e j =>
    { src := (a.toNat, 4) :: (if e = 1 then [(d.toNat, 2)] else []), ssrc := [(j.toNat, if e = 1 then 3 else 2)] }
  | i => (shapeOf i).getD {}

/-- The registers of a run of a field, windows apart. -/
def asmField (w : AsmWalk) (u : Bool) (f n : Nat) : List AsmRes :=
  if !u && f ≤ 111 then (List.range n).map fun k => { res := .v (f + k), win := w.win }
  else if u then (uniRes f n).map fun r => { res := r }
  else if f ≤ 126 then (List.range n).map fun k => { res := .s (f - 112 + k) } else []

/-- 07 R77: what a guard reads: its slot and the predicate that it names. A slot that nothing before it has
set may name any. -/
def AsmWalk.guardReads (w : AsmWalk) (u : Bool) (k : Nat) : List AsmRes :=
  if k = 0 then []
  else { res := .g k } :: match w.slots.find? fun e => e.1 = k with
    | some e => (slotRes e.2).map fun r => { res := r }
    | none => w.prods.filterMap fun p => match p.res.res with
      | .q _ => some p.res
      | .p _ => if u then none else some p.res
      | _ => none

/-- 07 R77: what an instruction reads. -/
def AsmWalk.reads (w : AsmWalk) (i : Instr) : List AsmRes :=
  let sh := asmShape i
  w.guardReads sh.u sh.guard ++ (sh.src.flatMap fun r => asmField w sh.u r.1 r.2) ++
    ((sh.ssrc.flatMap fun r => uniRes r.1 r.2) ++ sh.psrc.flatMap (predRes sh.u) ++
      sh.qsrc.flatMap (predRes true) ++ sh.xsrc.map Res.x).map fun r => { res := r }

/-- What it writes. -/
def AsmWalk.writes (w : AsmWalk) (i : Instr) : List AsmRes :=
  let sh := asmShape i
  (sh.dst.flatMap fun r => asmField w sh.u r.1 r.2) ++
    ((sh.sdst.flatMap fun r => uniRes r.1 r.2) ++ sh.pdst.flatMap (predRes sh.u) ++ sh.qdst.flatMap (predRes true) ++
      sh.gdst.map Res.g ++ sh.xdst.map Res.x).map fun r => { res := r }

/-- R104 step 1: the largest shortfall of a reader. -/
def AsmWalk.shortfall (w : AsmWalk) (i : Instr) : Nat :=
  let rs := w.reads i
  w.prods.foldl (fun n p => if rs.any p.res.mayMeet then max n (p.lat - p.dist) else n) 0

/-- R104 step 3: the shortfall of a reader of everything. -/
def AsmWalk.settle (w : AsmWalk) : Nat := w.prods.foldl (fun n p => max n (p.lat - p.dist)) 0

/-- An instruction issues with count `c`: an unguarded one, or a SEL, whose guard is a selector (R140), replaces what the run wrote
there; its own result is in flight; the distances grow (07 R77). -/
def AsmWalk.issue (w : AsmWalk) (i : Instr) (c : Nat) : AsmWalk :=
  let sh := asmShape i
  let ws := w.writes i
  let kept := if sh.guard = 0 || sh.selects then w.prods.filter fun p => !ws.contains p.res else w.prods
  let all := if sh.latency = 0 then kept else kept ++ ws.map fun r => { res := r, lat := sh.latency }
  let seven := c = 7 || actsAsSeven i
  { prods := if seven then [] else (all.map fun p => { p with dist := p.dist + 1 + c }).filter fun p => p.dist < p.lat
    win := match i with | .win b => some b.toNat | _ => w.win
    slots := match i with
      | .gset d a n => (d.toNat, n.extractLsb' 0 1 ++ n.extractLsb' 1 1 ++ a) :: w.slots.filter fun e => e.1 ≠ d.toNat
      | _ => w.slots }

/-- R104 steps 2 and 3: the count that an instruction needs, of which `now` is the walk just after it: the shortfall of the next
instruction of the run, or that of whatever issues next where it is the last. The NOPs between that complete a frame issue too, with
count 0 (R106, log 47). -/
def AsmWalk.needed (now : AsmWalk) : List AsmInstr → AsmWalk → Nat
  | [], _ => now.settle
  | b :: rest, w => if b.fill then now.needed rest (w.issue b.i 0) else w.shortfall b.i

/-- R104-R106: the counts of a run, each with the count gyas would have chosen, and the walk after it. -/
def runCounts : List AsmInstr → AsmWalk → List (Nat × Nat) × AsmWalk
  | [], w => ([], w)
  | a :: rest, w =>
    if a.fill then
      let r := runCounts rest (w.issue a.i 0)
      ((0, 0) :: r.1, r.2)
    else
      let now := w.issue a.i 0
      let c := now.needed rest now
      let r := runCounts rest (w.issue a.i (a.given.getD c))
      ((a.given.getD c, c) :: r.1, r.2)

/-- The counts of a section's runs: of the walk of a run, the next one keeps the guard slots alone. -/
def sectionCounts : List (List AsmInstr) → AsmWalk → List (Nat × Nat)
  | [], _ => []
  | run :: rest, w =>
    let r := runCounts run w
    r.1 ++ sectionCounts rest { slots := r.2.slots }

/-- R105: does gyas warn of a given count? -/
def warns (counts : List (Nat × Nat)) : Bool := counts.any fun e => e.1 < e.2

/-! Frames (R106). -/

/-- R106: what a .text section holds in source order. A literal frame holds up to seven words. -/
inductive TextItem where
  | instr (a : AsmInstr)
  | literal (ws : List Word) (tag : Nat := 0)
  | align (n : Nat)
  deriving DecidableEq, Repr

/-- What stands in a slot: an instruction that issues, a literal, a NOP that fills a frame, or a word of a literal frame. -/
inductive PackedSlot where
  | issues (a : AsmInstr)
  | lit (w : Word)
  | fill
  | word (w : Word) (tag : Nat)
  deriving DecidableEq, Repr

/-- The statement of a slot; 0 for what gyas puts in itself. -/
def PackedSlot.tag : PackedSlot → Nat
  | .issues a => a.tag
  | .word _ t => t
  | _ => 0

/-- R106: the offset in its section of slot number i, counted over the frames. -/
def slotOffset (i : Nat) : Nat := 32 * (i / 7) + 4 * (i % 7 + 1)

/-- R98, R106: the offset of the slot of a statement: a label on an L-form that moves goes with it, and one on .literal takes
slot 1. -/
def labelOffset (ps : List PackedSlot) (tag : Nat) : Option Nat := (ps.findIdx? fun p => p.tag = tag).map slotOffset

/-- The NOPs that complete a frame whose next slot is `n`. -/
def fillSlots (n : Nat) : List PackedSlot := if n = 1 then [] else List.replicate (8 - n) .fill

/-- The second word of an L-form. -/
def literalOf (i : Instr) : Option Word := match encode i with | some (_, [_, l]) => some l | _ => none

/-- R106, R107: the slots of a section, the next of them slot `n` of frame `k`. The NOP that slot 7 receives before an L-form is an
instruction of its run and takes a count (log 47). -/
def packText : List TextItem → Nat → Nat → List PackedSlot
  | [], _, n => fillSlots n
  | .instr a :: rest, k, n => match literalOf a.i with
    | some l =>
      if n = 7 then .issues { i := .nop false } :: .issues a :: .lit l :: packText rest (k + 1) 3
      else .issues a :: .lit l :: (if n = 6 then packText rest (k + 1) 1 else packText rest k (n + 2))
    | none => .issues a :: (if n = 7 then packText rest (k + 1) 1 else packText rest k (n + 1))
  | .literal ws tag :: rest, k, n =>
    let full := if n = 1 then k else k + 1
    fillSlots n ++ ((ws ++ List.replicate 7 0).take 7).map (.word · tag) ++ packText rest (full + 1) 1
  | .align m :: rest, k, n =>
    let full := if n = 1 then k else k + 1
    let whole := alignUp (32 * full) m / 32
    fillSlots n ++ List.replicate (7 * (whole - full)) .fill ++ packText rest whole 1

/-- R104: the straight runs of a section's slots. -/
def splitRuns : List PackedSlot → List AsmInstr → List (List AsmInstr)
  | [], run => [run.reverse]
  | .issues a :: rest, run =>
    let before := if a.labelled then [run.reverse] else []
    let now := if a.labelled then [a] else a :: run
    if endsRun a.i then before ++ now.reverse :: splitRuns rest [] else before ++ splitRuns rest now
  | .fill :: rest, run => splitRuns rest ({ i := .nop false, fill := true } :: run)
  | _ :: rest, run => splitRuns rest run

/-- Word, count and U bit of each slot. -/
def slotWords : List PackedSlot → List Nat → List (Word × Nat × Bool)
  | .issues a :: rest, c :: cs => match encode a.i with
    | some (u, w :: _) => (w, c, u) :: slotWords rest cs
    | _ => (0, c, false) :: slotWords rest cs
  | .issues _ :: _, [] | .fill :: _, [] | [], _ => []
  | .lit w :: rest, cs | .word w _ :: rest, cs => (w, 0, false) :: slotWords rest cs
  | .fill :: rest, _ :: cs => (0, 0, false) :: slotWords rest cs

/-- 07 R70: the header of a code frame from its slots' counts and U bits. -/
def frameHeader (slots : List (Word × Nat × Bool)) : Nat :=
  slots.zipIdx.foldl (fun h e => h + e.1.2.1 * 2 ^ (8 + 3 * e.2) + (if e.1.2.2 then 2 ^ (e.2 + 1) else 0)) 0

/-- R106: `n` frames of seven slots each: header and words. -/
def frames : Nat → List PackedSlot → List (Word × Nat × Bool) → List Word
  | 0, _, _ => []
  | n + 1, ps, ws =>
    let h := match ps with | .word _ _ :: _ => 0x20000000 | _ => BitVec.ofNat 32 (frameHeader (ws.take 7))
    h :: (ws.take 7).map (·.1) ++ frames n (ps.drop 7) (ws.drop 7)

/-- R103, R105, R107, R112: is an item no error: an instruction with a word that keeps its entry's ranges, a count of 0 to 7, one to
seven words of a literal frame, an alignment that is a power of two from 32 to 2^30? -/
def TextItem.legal : TextItem → Bool
  | .instr a => (encode a.i).isSome && asmRange a.i && a.given.all (· ≤ 7)
  | .literal ws _ => 1 ≤ ws.length && ws.length ≤ 7
  | .align n => 32 ≤ n && n ≤ 2 ^ 30 && 2 ^ n.log2 = n

/-- R104-R106: the words of a .text section, and whether gyas warns; none where it holds an error (R112). -/
def assemble (items : List TextItem) : Option (List Word × Bool) :=
  if !items.all TextItem.legal then none
  else
    let ps := packText items 0 1
    let counts := sectionCounts (splitRuns ps []) {}
    some (frames (ps.length / 7) ps (slotWords ps (counts.map (·.1))), warns counts)

/-! Kernels (R108). -/

/-- R108: the directives that shape a kernel. -/
inductive KernelLine where
  | role (k groups : Nat)
  | regs (n : Nat)
  | barriers (n : Nat)
  | flags (bits : Nat)
  | lcores (n : Nat)
  | anytime (vobj : Nat)
  | ranges (symbol : Nat)
  deriving DecidableEq, Repr

/-- R108: a kernel as its directives shape it: the roles (groups, budget) in order, whether the one role is the default, and its entry.
.flags takes the five flags, and .lcores 1 to 256. -/
structure KernelShape where
  roles : List (Nat × Option Nat) := []
  defaulted : Bool := false
  entry : GofKernel := {}
  deriving DecidableEq, Repr

/-- R108: a directive. A .regs before any .role is of the one default role, which no .role may then follow. -/
def KernelShape.line (k : KernelShape) : KernelLine → Option KernelShape
  | .role n groups =>
    if n = k.roles.length && n < 4 && groups ≤ 32 && !k.defaulted then some { k with roles := k.roles ++ [(groups, none)] } else none
  | .regs n =>
    if n % 16 ≠ 0 || n < 16 || 256 < n then none
    else if k.roles.isEmpty then some { k with roles := [(1, some n)], defaulted := true }
    else match k.roles.reverse with
      | (g, _) :: rest => some { k with roles := rest.reverse ++ [(g, some n)] }
      | [] => none
  | .barriers n => if n ≤ 64 then some { k with entry := { k.entry with barriers := n } } else none
  | .flags bits => if bits < 32 then some { k with entry := { k.entry with flags := k.entry.flags ||| bits } } else none
  | .lcores n => if 1 ≤ n && n ≤ 256 then some { k with entry := { k.entry with lcores := n } } else none
  | .anytime v =>
    if k.entry.vobj.isSome then none else some { k with entry := { k.entry with vobj := some v, flags := k.entry.flags ||| 1 } }
  | .ranges r => if k.entry.ranges.isSome then none else some { k with entry := { k.entry with ranges := some r } }

/-- R108: the kernel entry of a .kernel: none where gyas rejects its shape. -/
def kernelEntry (name : List Byte) (symbol : Nat) (lines : List KernelLine) : Option GofKernel :=
  (lines.foldlM KernelShape.line {}).bind fun k =>
    let words := k.roles.filterMap fun r => r.2.map fun n => r.1 + n / 16 * 256
    let e := { k.entry with
      name := name, entry := symbol, nroles := k.roles.length, roles := words ++ List.replicate (4 - words.length) 0 }
    if words.length = k.roles.length && e.legal then some e else none

/-! Macros (R110). -/

/-- R110: a macro: its name, its parameters and its body, a list of characters as bytes. -/
structure Macro where
  name : List Byte
  params : List (List Byte)
  body : List Byte
  deriving DecidableEq, Repr

/-- The byte of a character of the source. -/
def asciiByte (c : Char) : Byte := BitVec.ofNat 8 c.toNat

/-- R98: may the byte stand within a symbol? -/
def symbolByte (b : Byte) : Bool :=
  let n := b.toNat
  (48 ≤ n && n ≤ 57) || (65 ≤ n && n ≤ 90) || (97 ≤ n && n ≤ 122) || n = 95 || n = 46

/-- The digits of a number. -/
def decimalDigits : Nat → Nat → List Byte
  | 0, _ => []
  | fuel + 1, n => (if n < 10 then [] else decimalDigits fuel (n / 10)) ++ [BitVec.ofNat 8 (48 + n % 10)]

/-- R110: the body with each argument in place of its parameter and `seq` in place of %seq; `n` bounds the length. A name that is
no parameter stays as it stands (log 47). -/
def substitute (args : List (List Byte × List Byte)) (seq : Nat) : Nat → List Byte → List Byte
  | 0, _ => []
  | _, [] => []
  | n + 1, b :: rest =>
    if b = asciiByte '%' then
      let name := rest.takeWhile symbolByte
      let after := rest.drop name.length
      if name = [asciiByte 's', asciiByte 'e', asciiByte 'q'] then decimalDigits 20 seq ++ substitute args seq n after
      else match args.find? fun e => e.1 = name with
        | some e => e.2 ++ substitute args seq n after
        | none => b :: substitute args seq n rest
    else b :: substitute args seq n rest

/-- R110: the text of an invocation: none where the number of arguments is not the macro's. -/
def Macro.expand (m : Macro) (args : List (List Byte)) (seq : Nat) : Option (List Byte) :=
  if args.length = m.params.length then some (substitute (m.params.zip args) seq m.body.length m.body) else none

/-- A letter in lower case (R98: mnemonics and directives are case-insensitive). -/
def lowerByte (b : Byte) : Byte := if 65 ≤ b.toNat && b.toNat ≤ 90 then b + 32 else b

/-- R110: may a macro have this name: no mnemonic and no directive? A directive's name begins with a full stop, which no symbol does
(R98). `mnemonics` are those of the instruction set, in lower case. -/
def Macro.legal (m : Macro) (mnemonics : List (List Byte)) : Bool :=
  !mnemonics.contains (m.name.map lowerByte) && m.name.head? ≠ some (asciiByte '.')

end Sys2Proof.Machine
end

