-- ==== Sys2Proof/Machine/Source.lean ====
section
/-! DEFINITION. gyas over a whole source (09 R98, R106-R109, R111, R112, R117): its statements, already read from the text, make
one relocatable object, or none where the source holds an error. -/

namespace Sys2Proof.Machine

/-- A name as bytes. -/
def nameBytes (s : String) : List Byte := s.toList.map asciiByte

/-! Descriptors (R109). -/

/-- A field of a descriptor: its name in the map, its place and width, whether the map marks it RO, the alignment of the address it
holds, and the values its map allows beside that. -/
structure DescField where
  name : String
  lo : Nat
  width : Nat
  ro : Bool := false
  align : Nat := 1
  ok : Nat → Bool := fun _ => true

/-- Is the value a multiple of n, and not 0? -/
def sizeOf (n v : Nat) : Bool := v % n = 0 && v ≠ 0

/-- Is the value one of a lane's byte counts (21 R263, R264)? -/
def laneBytes (v : Nat) : Bool := v % 4 = 0 && v ≤ 16

/-- 19 R244. -/
def versionFields : List DescField :=
  [{ name := "SLOTBASE", lo := 0, width := 64, align := 128 },
   { name := "HDRADDR", lo := 64, width := 64, align := 64 },
   { name := "SLOTSIZE", lo := 128, width := 32, ok := sizeOf 128 },
   { name := "EXPECT", lo := 160, width := 32 },
   { name := "FLOOR", lo := 192, width := 16 },
   { name := "NSLOTS", lo := 208, width := 2, ok := fun v => 2 ≤ v },
   { name := "POLICY", lo := 210, width := 1 },
   { name := "SCOPE", lo := 211, width := 1 },
   { name := "COMBINE", lo := 212, width := 2, ok := fun v => v ≤ 2 }]

/-- 21 R263. -/
def objectFields : List DescField :=
  [{ name := "DATA", lo := 0, width := 64 },
   { name := "ENTRY", lo := 64, width := 64 },
   { name := "VAULT", lo := 128, width := 8 },
   { name := "DEV", lo := 136, width := 10 },
   { name := "REMOTE", lo := 146, width := 1 },
   { name := "REQSIZE", lo := 160, width := 5, ok := laneBytes },
   { name := "RPLSIZE", lo := 165, width := 5, ok := laneBytes },
   { name := "COUNT", lo := 170, width := 6, ok := fun v => 1 ≤ v && v ≤ 32 },
   { name := "TIMER", lo := 176, width := 16, ok := fun v => 1 ≤ v },
   { name := "SCOPE", lo := 192, width := 1 },
   { name := "STATE", lo := 193, width := 1 },
   { name := "REGS", lo := 196, width := 5, ok := fun v => 1 ≤ v && v ≤ 16 },
   { name := "BATCHES", lo := 224, width := 32, ro := true },
   { name := "DROPPED", lo := 256, width := 32, ro := true },
   { name := "SELF", lo := 288, width := 64, align := 64, ok := fun v => v ≠ 0 }]

/-- 21 R264. -/
def nodeFields : List DescField :=
  [{ name := "ENTRY", lo := 0, width := 64 },
   { name := "HOME", lo := 64, width := 8 },
   { name := "RECSIZE", lo := 72, width := 5, ok := laneBytes },
   { name := "COUNT", lo := 77, width := 6, ok := fun v => 1 ≤ v && v ≤ 32 },
   { name := "REGS", lo := 83, width := 5, ok := fun v => 1 ≤ v && v ≤ 16 },
   { name := "TIMER", lo := 96, width := 16, ok := fun v => 1 ≤ v },
   { name := "DROPPED", lo := 128, width := 32, ro := true },
   { name := "FIRED", lo := 160, width := 32, ro := true }]

/-- 23 R282. -/
def layerFields : List DescField :=
  [{ name := "SEQ", lo := 0, width := 32, ro := true },
   { name := "SIGCHK", lo := 32, width := 1 },
   { name := "STATE", lo := 33, width := 3, ro := true },
   { name := "FCAUSE", lo := 36, width := 4, ro := true },
   { name := "PIN", lo := 48, width := 16, ro := true },
   { name := "SIZE", lo := 96, width := 32, ok := sizeOf 128 },
   { name := "WIN", lo := 128, width := 64, ro := true },
   { name := "SRC", lo := 192, width := 64, align := 128 }]

/-- The fields that a descriptor's directive names. -/
def descFields : DescKind → List DescField
  | .versionObject => versionFields
  | .combinable => objectFields
  | .node => nodeFields
  | .layerTable => layerFields
  | .writeRanges => []

/-! Statements. -/

/-- R98: what a word of .word or .literal is written as. -/
inductive WordItem where
  | value (e : AsmExpr)
  /-- addr64(e): two words -/
  | addr64 (e : AsmExpr)
  /-- a float, m · 10^e, of .literal -/
  | float (neg : Bool) (m : Nat) (e : Int)
  deriving DecidableEq, Repr

/-- The expression that an instruction leaves to be filled in. -/
inductive AsmFix where
  /-- the target of a BRA, CALL or MARK -/
  | target (e : AsmExpr)
  /-- the literal of an L-form -/
  | literal (e : AsmExpr)
  /-- the entry of a TRAMP -/
  | tramp (name : List Byte)
  /-- the slot of an LDSPILL or STSPILL -/
  | spill (e : AsmExpr)
  deriving DecidableEq, Repr

/-- R100, R109, R117: may the instruction leave this expression to be filled in? A BRA, CALL or MARK always has a target and an LDSPILL
or STSPILL always a slot, each of which gets its relocation. -/
def fixFits : Option AsmFix → Instr → Bool
  | some (.target _), .bra _ _ _ | some (.target _), .call _ _ _ | some (.target _), .mark _ => true
  | _, .bra _ _ _ | _, .call _ _ _ | _, .mark _ => false
  | some (.spill _), .ldspill _ _ _ | some (.spill _), .stspill _ _ _ => true
  | _, .ldspill _ _ _ | _, .stspill _ _ _ => false
  | some (.tramp _), .tramp _ _ => true
  | some (.literal _), i => (literalOf i).isSome
  | none, _ => true
  | some _, _ => false

/-- A statement of a source (R97). -/
inductive AsmStmt where
  | label (name : List Byte)
  | instr (w : AsmWord) (fix : Option AsmFix) (given : Option Nat)
  | section_ (kind : SectionKind) (name : List Byte)
  | align (n : AsmExpr)
  /-- .word, .half and .byte: bytes of each value -/
  | data (size : Nat) (es : List WordItem)
  /-- .float, and .f16 where `half` -/
  | floats (half : Bool) (vs : List (Bool × Nat × Int))
  | space (n fill : AsmExpr)
  | binding (isGlobal : Bool) (names : List (List Byte))
  | set (name : List Byte) (e : AsmExpr)
  | kernel (name : List Byte)
  | endKernel
  /-- .role, .regs, .barriers, .lcores and .flags -/
  | role (k groups : AsmExpr)
  | regs (n : AsmExpr)
  | barriers (n : AsmExpr)
  | lcores (n : AsmExpr)
  | flags (bits : Nat)
  /-- .anytime and .ranges within a kernel, by name -/
  | anytime (vobj : List Byte)
  | rangesOf (table : List Byte)
  /-- .vobject, .cobject, .node and .layer -/
  | desc (kind : DescKind) (name : List Byte) (fields : List (List Byte × AsmExpr))
  /-- .ranges outside a kernel -/
  | ranges (name : List Byte) (pairs : List (AsmExpr × AsmExpr))
  | tramp (name : List Byte) (target : AsmExpr) (index : Option AsmExpr)
  | tool
  | literal (ws : List WordItem)
  deriving DecidableEq, Repr

/-! Values (R98, R117). -/

/-- What an expression comes to in a relocatable object: a number, added to a symbol's address (the empty name is the start of the
section) where there is one, and which half of the sum is meant. -/
structure AsmValue where
  base : Option (List Byte) := none
  n : DWord := 0
  half : Option Bool := none
  deriving DecidableEq, Repr

/-- Where a label stands: its section and offset. -/
abbrev LabelMap := List (List Byte × Nat × Nat)

/-- The place of a label. -/
def LabelMap.find (m : LabelMap) (x : List Byte) : Option (Nat × Nat) := (List.find? (fun e => e.1 = x) m).map fun e => e.2

/-- R98: an operator on values: a number may be added to an address or taken from it, and the difference of two addresses of one
section is a number. Every other operator on an address is an error: R98 does not state what it would mean (DEDUCED, log 47). -/
def AsmValue.apply (m : LabelMap) (o : BinOp) (a b : AsmValue) : Option AsmValue :=
  match a.half, b.half with
  | none, none => match a.base, b.base, o with
    | none, none, _ => (o.apply a.n b.n).map fun v => { n := v }
    | some x, none, .add => some { base := some x, n := a.n + b.n }
    | none, some x, .add => some { base := some x, n := a.n + b.n }
    | some x, none, .sub => some { base := some x, n := a.n - b.n }
    | some x, some y, .sub => match m.find x, m.find y with
      | some (k, p), some (l, q) => if k = l then some { n := BitVec.ofNat 64 p + a.n - (BitVec.ofNat 64 q + b.n) } else none
      | _, _ => none
    | _, _, _ => none
  | _, _ => none

/-- R98: the value of an expression of the source; none where it is an error. `here` is the current address. -/
def AsmExpr.value (m : LabelMap) (sets : List Byte → Option AsmValue) (here : AsmValue) : AsmExpr → Option AsmValue
  | .int n => some { n := n }
  | .symbol x => some ((sets x).getD { base := some x })
  | .here => some here
  | .neg e => (e.value m sets here).bind fun v => AsmValue.apply m .sub {} v
  | .not e => (e.value m sets here).bind fun v => if v.base.isNone then some { n := ~~~v.n } else none
  | .op o a b => (a.value m sets here).bind fun x => (b.value m sets here).bind fun y => AsmValue.apply m o x y
  | .lo32 e => (e.value m sets here).bind fun v =>
    if v.half.isSome then none else if v.base.isNone then some { n := v.n &&& 0xFFFFFFFF } else some { v with half := some false }
  | .hi32 e => (e.value m sets here).bind fun v =>
    if v.half.isSome then none else if v.base.isNone then some { n := v.n.ushiftRight 32 } else some { v with half := some true }

/-! Reading the statements in order. -/

/-- Data of a section that is no .text. -/
inductive DataItem where
  | label (name : List Byte)
  | words (size : Nat) (es : List WordItem)
  | bytes (bs : List Byte)
  /-- `n` bytes of a value -/
  | space (n : Nat) (fill : AsmExpr)
  | align (n : Nat)
  /-- a descriptor: `parts` are its named fields with their places, widths and allowed values -/
  | desc (kind : DescKind) (name : List Byte) (size : Nat) (parts : List (Nat × Nat × AsmExpr))

/-- A section as it is gathered. -/
structure AsmSection where
  name : List Byte
  kind : SectionKind
  text : List TextItem := []
  data : List DataItem := []

/-- An open or closed kernel: its name, the statement and section of its entry, and its shape. -/
structure AsmKernel where
  name : List Byte
  sect : Nat
  tag : Nat := 0
  lines : List KernelLine := []
  vobj : Option (List Byte) := none
  table : Option (List Byte) := none
  deriving DecidableEq, Repr

/-- A .set: its name and expression, and where it stands: the section, and how many of its statements come before. -/
structure AsmSet where
  name : List Byte
  value : AsmExpr
  sect : Nat
  before : Nat
  deriving DecidableEq, Repr

/-- What gyas has read of a source. -/
structure AsmSource where
  sections : List AsmSection := []
  cur : Nat := 0
  /-- labels of .text that wait for their instruction, and those that have one: name, section, statement -/
  pending : List (List Byte) := []
  labels : List (List Byte × Nat × Nat) := []
  /-- the instructions as they are written, by statement, with what each leaves to be filled in -/
  words : List (Nat × AsmWord × Option AsmFix) := []
  fixes : List (Nat × Nat × AsmFix) := []
  literals : List (Nat × Nat × List WordItem) := []
  globals : List (List Byte) := []
  sets : List AsmSet := []
  kernels : List AsmKernel := []
  inside : Bool := false
  tramps : List (List Byte × AsmExpr × Option Nat) := []
  tool : Bool := false
  /-- the table of the .layer line just before -/
  layer : Option (List Byte) := none
  tag : Nat := 1

/-- The current section. -/
def AsmSource.sect (a : AsmSource) : Option AsmSection := a.sections[a.cur]?

/-- Change the current section. -/
def AsmSource.modSect (a : AsmSource) (f : AsmSection → AsmSection) : AsmSource :=
  match a.sections[a.cur]? with
  | some s => { a with sections := a.sections.set a.cur (f s) }
  | none => a

/-- R107: switch to the section of a kind and name, which begins with its first mention. -/
def AsmSource.switch (a : AsmSource) (kind : SectionKind) (name : List Byte) : AsmSource :=
  match a.sections.findIdx? fun s => decide (s.kind = kind ∧ s.name = name) with
  | some i => { a with cur := i }
  | none => { a with cur := a.sections.length, sections := a.sections ++ [{ name := name, kind := kind }] }

/-- The kind of the current section. -/
def AsmSource.kind (a : AsmSource) : Option SectionKind := a.sect.map fun s => s.kind

/-- R107: a data directive: not in .text, and in SCRATCH only labels, .space and .align. -/
def AsmSource.addData (a : AsmSource) (scratchOk : Bool) (x : DataItem) : Option AsmSource :=
  match a.kind with
  | some .text | some .note | none => none
  | some .scratch => if scratchOk then some (a.modSect fun s => { s with data := s.data ++ [x] }) else none
  | _ => some (a.modSect fun s => { s with data := s.data ++ [x] })

/-- Change the kernel that is open. -/
def AsmSource.inKernel (a : AsmSource) (f : AsmKernel → Option AsmKernel) : Option AsmSource :=
  match a.inside, a.kernels.reverse with
  | true, k :: ks => (f k).map fun k => { a with kernels := ks.reverse ++ [k] }
  | _, _ => none

/-- R108: one more line of the shape of the kernel that is open. -/
def AsmSource.shape (a : AsmSource) (l : KernelLine) : Option AsmSource := a.inKernel fun k => some { k with lines := k.lines ++ [l] }

/-- A power of two of at least `low` and at most 2^30 (R107). -/
def alignOk (low n : Nat) : Bool := low ≤ n && n ≤ 2 ^ 30 && 2 ^ n.log2 = n

/-- The item of a statement of .text, with the labels that wait for it; a kernel just opened has its entry at its first instruction
(R108). A label on a line of its own is the place of the next item of the section: before a .literal that is slot 1, where the literal
stands (DEDUCED, log 47). -/
def AsmSource.addText (a : AsmSource) (x : Bool → TextItem) (isInstr : Bool) : Option AsmSource :=
  if a.kind ≠ some .text then none
  else
    let entry := a.inside && isInstr && a.kernels.any fun k => k.tag = 0
    let names := a.pending.map fun n => (n, a.cur, a.tag)
    let b := a.modSect fun s => { s with text := s.text ++ [x (entry || !a.pending.isEmpty)] }
    some { b with
      pending := [], labels := a.labels ++ names, tag := a.tag + 1
      kernels := if entry then a.kernels.map fun k => if k.tag = 0 then { k with tag := a.tag } else k else a.kernels }

/-- The words that an item fills. -/
def WordItem.words : WordItem → Nat
  | .addr64 _ => 2
  | _ => 1

/-- R109: the named fields of a descriptor with their places; none where a name is no field of the map, or is RO, or comes twice. -/
def fieldParts (kind : DescKind) (fields : List (List Byte × AsmExpr)) : Option (List (Nat × Nat × AsmExpr)) :=
  if !decide (fields.map fun e => e.1).Nodup then none
  else fields.mapM fun e => ((descFields kind).find? fun f => nameBytes f.name = e.1 && !f.ro).map fun f => (f.lo, f.width, e.2)

/-- R109: one more entry of the layer table that the last .layer line began. -/
def AsmSource.addLayer (a : AsmSource) (parts : List (Nat × Nat × AsmExpr)) : Option AsmSource :=
  match a.sect.bind fun s => s.data.reverse.head? with
  | some (.desc .layerTable name size old) =>
    if 4096 * 32 ≤ size then none
    else some (a.modSect fun s => { s with
      data := s.data.dropLast ++ [.desc .layerTable name (size + 32) (old ++ parts.map fun p => (8 * size + p.1, p.2))] })
  | _ => none

/-! Laying out sections. -/

/-- R109: bytes to which a descriptor is aligned: 64, and 128 for a write-range table (25 R330). -/
def descAlign (kind : DescKind) : Nat := if kind = .writeRanges then 128 else 64

/-- The offset of each item of a data section, from `off` on, and the section's size. -/
def dataOffsets : List DataItem → Nat → List (Nat × DataItem) × Nat
  | [], off => ([], off)
  | x :: rest, off =>
    let start := match x with | .align n => alignUp off n | .desc k _ _ _ => alignUp off (descAlign k) | _ => off
    let size := match x with
      | .words n es => n * es.foldl (fun k e => k + e.words) 0
      | .bytes bs => bs.length
      | .space n _ => n
      | .desc _ _ n _ => n
      | _ => 0
    let r := dataOffsets rest (start + size)
    ((start, x) :: r.1, r.2)

/-- log2 of a section's alignment (R114). -/
def AsmSection.align (s : AsmSection) : Nat :=
  let low := if s.kind = .text then 5 else 0
  let t := s.text.foldl (fun n x => match x with | .align k => max n k.log2 | _ => n) low
  s.data.foldl (fun n x => match x with | .align k => max n k.log2 | .desc k _ _ _ => max n (descAlign k).log2 | _ => n) t

/-- The order of an object's sections: by KIND (R114), those of a kind as they come. -/
def AsmSource.ordered (a : AsmSource) : List (Nat × AsmSection) :=
  let all := a.sections.zipIdx.map fun p => (p.2, p.1)
  [SectionKind.text, .data, .rodata, .scratch].flatMap fun k => all.filter fun p => decide (p.2.kind = k)

/-- The section number in the object of a section of the source. -/
def AsmSource.number (a : AsmSource) (i : Nat) : Nat := match a.ordered.findIdx? fun p => p.1 = i with | some k => k + 1 | none => 0

/-- The slots of a .text section. -/
def AsmSection.slots (s : AsmSection) : List PackedSlot := packText s.text 0 1

/-- The labels that a source has placed so far, with their sections in the object and offsets. -/
def AsmSource.labelsSoFar (a : AsmSource) : LabelMap :=
  let text := (a.labels ++ (a.kernels.filter fun k => k.tag ≠ 0).map fun k => (k.name, k.sect, k.tag)).filterMap fun e =>
    ((a.sections[e.2.1]?).bind fun s => labelOffset s.slots e.2.2).map fun off => (e.1, a.number e.2.1, off)
  text ++ a.ordered.zipIdx.flatMap fun p => (dataOffsets p.1.2.data 0).1.filterMap fun d => match d.2 with
    | .label n => some (n, p.2 + 1, d.1)
    | .desc _ n _ _ => some (n, p.2 + 1, d.1)
    | _ => none

/-- The labels of a source; none where one has no instruction. -/
def AsmSource.labelMap (a : AsmSource) : Option LabelMap := if a.pending.isEmpty then some a.labelsSoFar else none

/-- R98: the offset of the current slot or byte after the first `n` statements of a section; `tag` is no statement's. -/
def AsmSection.current (s : AsmSection) (n tag : Nat) : Nat :=
  if s.kind = .text then (labelOffset (packText (s.text.take n ++ [.instr { i := .nop false, tag := tag }]) 0 1) tag).getD 0
  else (dataOffsets (s.data.take n) 0).2

/-- The places of labels, and the start of the section, which has the empty name. -/
def LabelMap.within (m : LabelMap) (sect : Nat) : LabelMap := ([], sect, 0) :: m

/-- An address so far, every section starting at 0 and what is defined elsewhere counting 0, and the half of it that is meant. -/
def AsmValue.soFar (m : LabelMap) (x : AsmValue) : Nat :=
  let s := match x.base with | some b => wrap 64 ((match m.find b with | some (_, off) => off | none => 0) + x.n.toInt) | none => x.n.toNat
  match x.half with | some high => field s (if high then 32 else 0) 32 | none => s

/-- R98, R107: the value of a .set, given those before it: a number. An address in one is the address so far, of which an absolute symbol
keeps no relocation (log 47). A name that the source does not define has no address, and one that a later .set defines has no value yet
(DEDUCED, log 47). -/
def AsmSource.setValue (a : AsmSource) (m : LabelMap) (l : List (List Byte × AsmValue)) (s : AsmSet) : Option (List Byte × AsmValue) :=
  let off := ((a.sections[s.sect]?).map fun t => t.current s.before a.tag).getD 0
  let m := m.within (a.number s.sect)
  (s.value.value m (fun x => (l.find? fun e => e.1 = x).map fun e => e.2) { base := some [], n := BitVec.ofNat 64 off }).bind fun v =>
    if v.base.all fun b => (m.find b).isSome then some (s.name, { n := BitVec.ofNat 64 (v.soFar m) }) else none

/-- The values of .set, in order. -/
def AsmSource.setValues (a : AsmSource) (m : LabelMap) : Option (List (List Byte × AsmValue)) :=
  a.sets.foldlM (fun l s => (a.setValue m l s).map fun v => l ++ [v]) []

/-- R98: the number that the operand of a directive comes to where it stands, by the labels and values that the source has given so far:
the layout of what follows depends on it (DEDUCED, log 47). -/
def AsmSource.known (a : AsmSource) (e : AsmExpr) : Option Nat :=
  let m := a.labelsSoFar
  let sets := a.sets.foldl (fun l s => l ++ (a.setValue m l s).toList) []
  let off := (a.sect.map fun s => s.current (if s.kind = .text then s.text.length else s.data.length) a.tag).getD 0
  (e.value (m.within (a.number a.cur)) (fun x => (sets.find? fun s => s.1 = x).map fun s => s.2)
    { base := some [], n := BitVec.ofNat 64 off }).bind fun v => if v.base.isNone && decide (0 ≤ v.n.toInt) then some v.n.toNat else none

/-! A statement. -/

/-- One statement; none where it is an error. -/
def AsmSource.stmt (a : AsmSource) (x : AsmStmt) : Option AsmSource :=
  let b : AsmSource := { a with layer := none }
  match x with
  | .label n =>
    if b.kind = some .text then some { b with pending := b.pending ++ [n] } else b.addData true (.label n)
  | .instr w fix given =>
    let t : AsmSource := match fix with | some f => { b with fixes := b.fixes ++ [(b.cur, b.tag, f)] } | none => b
    { t with words := t.words ++ [(b.tag, w, fix)] }.addText (fun l => .instr { i := w.stand, labelled := l, given := given, tag := b.tag }) true
  | .section_ k n => if k = .note then none else some (b.switch k n)
  | .align e => (b.known e).bind fun n =>
    if b.kind = some .text then (if alignOk 32 n then some (b.modSect fun s => { s with text := s.text ++ [.align n] }) else none)
    else if alignOk 1 n then b.addData true (.align n) else none
  | .data size es =>
    if es.all fun e => match e with | .value _ => true | .addr64 _ => size = 4 | .float _ _ _ => false then
      b.addData false (.words size es) else none
  | .floats half vs =>
    b.addData false (.bytes (vs.flatMap fun v =>
      if half then toBytes 2 (decimalBits fp16 v.1 v.2.1 v.2.2) else toBytes 4 (decimalBits fp32 v.1 v.2.1 v.2.2)))
  | .space e fill => (b.known e).bind fun n => b.addData true (.space n fill)
  | .binding isGlobal names =>
    some { b with globals := if isGlobal then b.globals ++ names else b.globals.filter fun n => !names.contains n }
  | .set n e =>
    if b.sets.any fun s => s.name = n then none
    else
      let before := match b.sect with | some s => if s.kind = .text then s.text.length else s.data.length | none => 0
      some { b with sets := b.sets ++ [{ name := n, value := e, sect := b.cur, before := before }] }
  | .kernel n =>
    if b.inside || b.kind ≠ some .text then none
    else some { b with inside := true, kernels := b.kernels ++ [{ name := n, sect := b.cur }] }
  | .endKernel => if b.inside && b.kernels.all fun k => k.tag ≠ 0 then some { b with inside := false } else none
  | .role e groups => (b.known e).bind fun k => (b.known groups).bind fun n => b.shape (.role k n)
  | .regs e => (b.known e).bind fun n => b.shape (.regs n)
  | .barriers e => (b.known e).bind fun n => b.shape (.barriers n)
  | .lcores e => (b.known e).bind fun n => b.shape (.lcores n)
  | .flags bits => b.shape (.flags bits)
  | .anytime v => b.inKernel fun k => if k.vobj.isSome then none else some { k with vobj := some v }
  | .rangesOf t => b.inKernel fun k => if k.table.isSome then none else some { k with table := some t }
  | .desc kind n fields => (fieldParts kind fields).bind fun parts =>
    if kind = .layerTable && a.layer = some n then (b.addLayer parts).map fun c => { c with layer := some n }
    else (b.addData false (.desc kind n (if kind = .layerTable then 32 else 64) parts)).map fun c =>
      { c with layer := if kind = .layerTable then some n else none }
  | .ranges n pairs =>
    if pairs.isEmpty || 8 < pairs.length then none
    else b.addData false (.desc .writeRanges n 128
      (pairs.zipIdx.flatMap fun p => [(128 * p.2, 64, p.1.1), (128 * p.2 + 64, 64, p.1.2)]))
  | .tramp n e k => (k.mapM b.known).bind fun k =>
    if k.all (· < 65536) then some { b with tramps := b.tramps ++ [(n, e, k)] } else none
  | .tool => if b.tool then none else some { b with tool := true }
  | .literal ws =>
    let n := ws.foldl (fun n w => n + w.words) 0
    if n = 0 || 7 < n then none
    else
      let t : AsmSource := { b with literals := b.literals ++ [(b.cur, b.tag, ws)] }
      t.addText (fun _ => .literal (List.replicate n 0) b.tag) false

/-! The object. -/

/-- What emission knows: labels, values of .set, the symbol table, and the sections in the order of the object, the first number 1. -/
structure AsmEnv where
  labels : LabelMap
  sets : List (List Byte × AsmValue)
  symbols : List GofSymbol
  sects : List AsmSection

/-- The value of an expression at an offset of a section. -/
def AsmEnv.value (v : AsmEnv) (sect off : Nat) (e : AsmExpr) : Option AsmValue :=
  e.value (v.labels.within sect) (fun x => (v.sets.find? fun s => s.1 = x).map fun s => s.2) { base := some [], n := BitVec.ofNat 64 off }

/-- The symbol index of a base: 0 for the start of the section. -/
def AsmEnv.index (v : AsmEnv) (x : List Byte) : Option Nat := if x = [] then some 0 else v.symbols.findIdx? fun y => y.name = x

/-- R109, R117: an expression as a symbol and what is added to it, where it names one; where the values of .set make a number of it, a
symbol of .set is the one it names. -/
def AsmEnv.named (v : AsmEnv) (sect off : Nat) (e : AsmExpr) : Option (List Byte × AsmValue) :=
  let symbol := fun (x : AsmValue) => if x.half.isSome then none else x.base.bind fun b => if b = [] then none else some (b, x)
  ((v.value sect off e).bind symbol).or
    ((e.value (v.labels.within sect) (fun _ => none) { base := some [], n := BitVec.ofNat 64 off }).bind symbol)

/-- The place of a base that this object defines: its section and offset. -/
def AsmEnv.place (v : AsmEnv) (sect : Nat) (b : List Byte) : Option (Nat × Nat) := (v.labels.within sect).find b

/-- R98, R107: what an instruction at an offset of a section knows of its operands. The label of a SCRATCH section is a byte offset, and so
a number, as far as it is known (09 R107); the address of any other section is none, since no relocation could carry it (R117; DEDUCED,
log 47). A continuation lies in the same section. -/
def AsmEnv.scope (v : AsmEnv) (sect off : Nat) : AsmScope :=
  { number := fun e => (v.value sect off e).bind fun x => match x.base with
      | none => some x.n.toInt
      | some b => (v.place sect b).bind fun p => (v.sects[p.1 - 1]?).bind fun s =>
        if s.kind = .scratch then some (x.soFar v.labels : Int) else none
    ahead := fun e => (v.value sect off e).bind fun x => (x.base.bind (v.place sect)).bind fun p =>
      if p.1 = sect && x.half.isNone then some ((x.soFar (v.labels.within sect) : Int) - off) else none }

/-- A patch of a section's bytes, and its relocation. -/
structure AsmPatch where
  off : Nat
  bytes : List Byte
  reloc : Option GofReloc := none
  deriving DecidableEq, Repr

/-- S + A so far, in 64 bits. -/
def AsmEnv.sum (v : AsmEnv) (x : AsmValue) : Nat := ({ x with half := none } : AsmValue).soFar v.labels

/-- A relocation of a value. -/
def AsmEnv.reloc (v : AsmEnv) (sect off : Nat) (kind : RelocKind) (x : AsmValue) (b : List Byte) : Option GofReloc :=
  (v.index b).map fun y => { section_ := sect, kind := kind, symbol := y, offset := off, addend := x.n.toInt }

/-- R117: two words that hold an address: DESC64 for a descriptor symbol, else ABS64. -/
def AsmEnv.quad (v : AsmEnv) (sect off : Nat) (x : AsmValue) : Option AsmPatch :=
  if x.half.isSome then none
  else match x.base with
  | none => some { off := off, bytes := toBytes 8 x.n.toNat }
  | some b =>
    let desc := v.symbols.any fun y => y.name = b && y.kind = .descriptor
    (v.reloc sect off (if desc then .desc64 else .abs64) x b).map fun r =>
      { off := off, bytes := toBytes 8 (v.sum x), reloc := some r }

/-- R103, R107, R117: `n` bytes of data: an address, or a half of it, needs the four of a LIT32. -/
def AsmEnv.datum (v : AsmEnv) (sect off n : Nat) (x : AsmValue) : Option AsmPatch :=
  match x.base with
  | none => if fitsEither (8 * n) x.n.toInt then some { off := off, bytes := toBytes n (wrap (8 * n) x.n.toInt) } else none
  | some b =>
    if n ≠ 4 then none
    else
      let high := x.half = some true
      (v.reloc sect off (.lit32 high) x b).map fun r =>
        { off := off, bytes := toBytes 4 (field (v.sum x) (if high then 32 else 0) 32), reloc := some r }

/-- The patches of a list of words or data, from an offset on. -/
def AsmEnv.items (v : AsmEnv) (sect n : Nat) : List WordItem → Nat → Option (List AsmPatch)
  | [], _ => some []
  | .value e :: rest, off =>
    ((v.value sect off e).bind (v.datum sect off n)).bind fun p => (AsmEnv.items v sect n rest (off + n)).map (p :: ·)
  | .addr64 e :: rest, off =>
    ((v.value sect off e).bind (v.quad sect off)).bind fun p => (AsmEnv.items v sect n rest (off + 8)).map (p :: ·)
  | .float s m e :: rest, off =>
    (AsmEnv.items v sect n rest (off + n)).map ({ off := off, bytes := toBytes 4 (decimalBits fp32 s m e) } :: ·)

/-- A field of the word at an offset of the section. -/
def patchField (bs : List Byte) (off w x : Nat) : List Byte := toBytes 4 (setField (fileNum bs off 4) 0 w x)

/-- R100: is an offset of a section no slot that a branch may reach: a section other than .text, no slot, a literal slot, or a slot of a
literal frame? -/
def AsmEnv.badTarget (v : AsmEnv) (sect off : Nat) : Bool :=
  match v.sects[sect - 1]? with
  | some s => s.kind ≠ .text || match s.slots.zipIdx.find? fun p => slotOffset p.2 = off with
    | some (.lit _, _) | some (.word _ _, _) | none => true
    | _ => false
  | none => true

/-- R100, R103, R117: the patch of an instruction at `off` of a section: WOFF23 for every target, with the field as resolved so far,
which must fit where the target lies in this section; LIT32 for a literal of an address; TRIDX16; SPILLSLOT for every spill word. -/
def AsmEnv.fixPatch (v : AsmEnv) (sect : Nat) (bs : List Byte) (off : Nat) (f : AsmFix) : Option AsmPatch :=
  match f with
  | .target e => (v.value sect off e).bind fun x => x.base.bind fun b =>
    let s := v.sum x
    let o : Int := ((s : Int) - off) / 4
    let bad := match v.place sect b with | some (k, _) => v.badTarget k s || (k = sect && !fitsSigned 23 o) | none => false
    if bad || x.half.isSome then none
    else (v.reloc sect off .woff23 x b).map fun r => { off := off, bytes := patchField bs off 23 (wrap 23 o), reloc := some r }
  | .literal e => (v.value sect off e).bind (v.datum sect (off + 4) 4)
  | .tramp n => (v.reloc sect off .tridx16 {} n).map fun r => { off := off, bytes := patchField bs off 16 0, reloc := some r }
  | .spill e => (v.value sect off e).bind fun x =>
    let (b, y) := (v.named sect off e).getD ([], x)
    if x.half.isSome || (x.base = none && !fitsUnsigned 8 x.n.toInt) || x.base = some [] then none
    else (v.reloc sect off .spillslot y b).map fun r =>
      { off := off, bytes := patchField bs off 8 (v.sum x % 256), reloc := some r }

/-- R109: the field of a descriptor that begins at a bit, or the base or length of a write range (25 R330). -/
def fieldAt (kind : DescKind) (lo : Nat) : DescField :=
  ((descFields kind).find? fun f => f.lo = lo % (if kind = .layerTable then 256 else 512)).getD { name := "", lo := lo, width := 64, align := 16 }

/-- R109: the range of a field, the unsigned width where the map states none. -/
def DescField.takes (f : DescField) (n : Nat) : Bool := n < 2 ^ f.width && n % f.align = 0 && f.ok n

/-- R109: may an address stand in a field? Its section can be placed so that it is aligned; of an address that another object defines
nothing is known. -/
def AsmEnv.mayAlign (v : AsmEnv) (sect align : Nat) (x : AsmValue) : Bool :=
  match (x.base.bind (v.place sect)).bind fun p => v.sects[p.1 - 1]? with
  | some s => v.sum x % min align (2 ^ s.align) = 0
  | none => true

/-- R109: what a descriptor's map asks of two fields together: DEV is 0 when REMOTE is 0 (21 R263). -/
def fieldsAgree (kind : DescKind) (whole : Nat) : Bool :=
  kind ≠ .combinable || field whole 146 1 = 1 || field whole 136 10 = 0

/-- R109: the patches of a descriptor at an offset: the number of its fields, and the addresses that it holds. -/
def AsmEnv.descPatches (v : AsmEnv) (sect off : Nat) (kind : DescKind) (size : Nat) (parts : List (Nat × Nat × AsmExpr)) :
    Option (List AsmPatch) := do
  let vals ← parts.mapM fun p => (v.value sect off p.2.2).map fun x => (p.1, p.2.1, x)
  let numbers := vals.filter fun p => p.2.2.base.isNone
  let addrs := vals.filter fun p => p.2.2.base.isSome
  if !numbers.all fun p => (fieldAt kind p.1).takes p.2.2.n.toNat then none
  if !addrs.all fun p => p.2.1 = 64 && p.1 % 32 = 0 && v.mayAlign sect (fieldAt kind p.1).align p.2.2 then none
  let whole := numbers.foldl (fun n p => setField n p.1 p.2.1 p.2.2.n.toNat) 0
  if !fieldsAgree kind whole then none
  let refs ← addrs.mapM fun p => v.quad sect (off + p.1 / 8) p.2.2
  return { off := off, bytes := toBytes size whole } :: refs

/-- Patches laid over a section's bytes. -/
def applyPatches (bs : List Byte) (ps : List AsmPatch) : List Byte :=
  ps.foldl (fun bs p => bs.take p.off ++ p.bytes ++ bs.drop (p.off + p.bytes.length)) bs

/-- R98: an item of .text with its instruction, whose operands are known now that every statement has its place; none where gyas rejects
it. -/
def AsmSource.resolve (a : AsmSource) (v : AsmEnv) (k : Nat) (at_ : Nat → Option Nat) : TextItem → Option TextItem
  | .instr x => (a.words.find? fun w => w.1 = x.tag).bind fun w => (at_ x.tag).bind fun off => (w.2.1.instr (v.scope k off)).bind fun i =>
    if fixFits w.2.2 i then some (.instr { x with i := i }) else none
  | x => some x

/-- The contents of a .text section, with its relocations and whether gyas warns. -/
def AsmSource.textSection (a : AsmSource) (v : AsmEnv) (i k : Nat) (s : AsmSection) : Option (List Byte × List GofReloc × Bool) := do
  let at_ := labelOffset s.slots
  let text ← s.text.mapM (a.resolve v k at_)
  let (ws, warn) ← assemble text
  let bs := ws.flatMap fun w => toBytes 4 w.toNat
  let fixes ← (a.fixes.filter fun f => f.1 = i).mapM fun f => (at_ f.2.1).bind fun off => v.fixPatch k bs off f.2.2
  let lits ← (a.literals.filter fun f => f.1 = i).mapM fun f => (at_ f.2.1).bind fun off => v.items k 4 f.2.2 off
  let ps := fixes ++ lits.flatten
  return (applyPatches bs ps, ps.filterMap fun p => p.reloc, warn)

/-- The contents of another section, with its relocations. -/
def AsmSection.dataSection (s : AsmSection) (v : AsmEnv) (k : Nat) : Option (List Byte × List GofReloc) := do
  let (items, size) := dataOffsets s.data 0
  let ps ← items.mapM fun (off, x) => match x with
    | .words n es => v.items k n es off
    | .bytes bs => some [{ off := off, bytes := bs }]
    | .space n e => ((v.value k off e).bind (v.datum k off 1)).map fun p => [{ p with bytes := (List.replicate n p.bytes).flatten }]
    | .desc kind _ n parts => v.descPatches k off kind n parts
    | _ => some []
  return (if s.kind = .scratch then [] else applyPatches (List.replicate size 0) ps.flatten, ps.flatten.filterMap fun p => p.reloc)

/-- The names that an expression uses. -/
def AsmExpr.names : AsmExpr → List (List Byte)
  | .symbol x => [x]
  | .neg e | .not e | .lo32 e | .hi32 e => e.names
  | .op _ a b => a.names ++ b.names
  | _ => []

/-- The names that a source uses. -/
def AsmSource.uses (a : AsmSource) : List (List Byte) :=
  let item := fun (w : WordItem) => match w with | .value e | .addr64 e => e.names | .float _ _ _ => []
  let fix := fun (f : AsmFix) => match f with | .target e | .literal e | .spill e => e.names | .tramp n => [n]
  (a.fixes.flatMap fun f => fix f.2.2) ++ (a.literals.flatMap fun l => l.2.2.flatMap item) ++ (a.tramps.flatMap fun t => t.2.1.names) ++
    (a.kernels.flatMap fun k => k.vobj.toList ++ k.table.toList) ++
    a.sections.flatMap fun s => s.data.flatMap fun d => match d with
      | .words _ es => es.flatMap item
      | .desc _ _ _ parts => parts.flatMap fun p => p.2.2.names
      | _ => []

/-- The symbols of the object after entry 0: those of its sections in order, the absolute ones, the trampolines' (whose VALUE is the
number of their entry, log 46), and the names it uses and does not define; none where a name has two definitions. DESIGN CHOICE (log 46):
the entry of a name that is not defined has BIND global, which R115 does not say. -/
def AsmSource.symbolTable (a : AsmSource) (m : LabelMap) (sets : List (List Byte × AsmValue)) : Option (List GofSymbol) :=
  let bound := fun (n : List Byte) => a.globals.contains n
  let kernel := fun (n : List Byte) => a.kernels.any fun k => k.name = n
  let desc := fun (n : List Byte) => a.sections.any fun s => s.data.any fun d => match d with | .desc _ x _ _ => x = n | _ => false
  let kindOf := fun (k : Nat) => (a.ordered[k - 1]?).map fun p => p.2.kind
  let placed := ((List.range a.ordered.length).flatMap fun k => m.filter fun e => e.2.1 = k + 1).map fun e =>
    ({ name := e.1, place := .within e.2.1, value := e.2.2, isGlobal := bound e.1 || kernel e.1
       kind := if kernel e.1 then .kernel else if desc e.1 then .descriptor else if kindOf e.2.1 = some .text then .label else .data } :
      GofSymbol)
  let abs := sets.map fun s => ({ name := s.1, place := .absolute, kind := .absolute, isGlobal := bound s.1, value := s.2.n.toNat } : GofSymbol)
  let trs := a.tramps.zipIdx.map fun t =>
    ({ name := t.1.1, place := .absolute, kind := .trampoline, isGlobal := bound t.1.1, value := t.2 } : GofSymbol)
  let own := placed ++ abs ++ trs
  let names := own.map fun y => y.name
  let missing := (a.uses.filter fun n => !names.contains n).eraseDups.map fun n => ({ name := n, isGlobal := true } : GofSymbol)
  if decide names.Nodup then some (own ++ missing) else none

/-- The number of a kernel's symbol, and its entry in the kernel table (R108, R118). -/
def AsmEnv.kernel (v : AsmEnv) (k : AsmKernel) : Option GofKernel := do
  let y ← v.index k.name
  let vobj ← k.vobj.mapM v.index
  let table ← k.table.mapM v.index
  kernelEntry k.name y (k.lines ++ vobj.toList.map KernelLine.anytime ++ table.toList.map KernelLine.ranges)

/-- R112: the object of a source, and whether gyas warns; none where the source holds an error. -/
def gyas (stmts : List AsmStmt) : Option (Gof × Bool) := do
  let a ← stmts.foldlM AsmSource.stmt ({ : AsmSource })
  if a.inside then none
  let m ← a.labelMap
  let sets ← a.setValues m
  let symbols ← a.symbolTable m sets
  let v : AsmEnv := { labels := m, sets := sets, symbols := {} :: symbols, sects := a.ordered.map fun p => p.2 }
  let parts ← a.ordered.zipIdx.mapM fun (p, k) => do
    let s := p.2
    let (bs, rs, warn) ← if s.kind = .text then a.textSection v p.1 (k + 1) s else (s.dataSection v (k + 1)).map fun r => (r.1, r.2, false)
    let size := if s.kind = .scratch then (dataOffsets s.data 0).2 else bs.length
    return (({ name := s.name, kind := s.kind, align := s.align, size := size, bytes := bs } : GofSection), rs, warn)
  let kernels ← a.kernels.mapM v.kernel
  let tramps ← a.tramps.mapM fun t => (v.named 0 0 t.2.1).bind fun x => (v.index x.1).map fun y =>
    ({ index := t.2.2.getD 0, fixed := t.2.2.isSome, symbol := y, addend := x.2.n.toInt } : GofTramp)
  let descs := a.ordered.zipIdx.flatMap fun p => (dataOffsets p.1.2.data 0).1.filterMap fun d => match d.2 with
    | .desc kind n size _ => some ({ kind := kind, name := n, section_ := p.2 + 1, size := size, offset := d.1 } : GofDesc)
    | _ => none
  return ({ tool := a.tool, sections := {} :: parts.map fun p => p.1, symbols := {} :: symbols
            relocs := parts.flatMap fun p => p.2.1, kernels := kernels, tramps := tramps, descs := descs },
          parts.any fun p => p.2.2)

end Sys2Proof.Machine
end

