-- ==== Sys2Proof/Machine/Text.lean ====
section
/-! DEFINITION. The text of a source (09 R97, R98, R110): lines, labels, comments, tokens, expressions and macros. -/

namespace Sys2Proof.Machine

/-! Lines (R97). -/

/-- The text of a line before its comment. -/
def beforeComment : List Byte → List Byte
  | a :: b :: rest => if a = asciiByte '/' && b = asciiByte '/' then [] else a :: beforeComment (b :: rest)
  | l => l

/-- R97: a line of at most 4,096 bytes, ASCII but for its comment: its text; none where it is an error. -/
def lineText (line : List Byte) : Option (List Byte) :=
  let t := beforeComment line
  if line.length ≤ 4096 && t.all fun b => b.toNat < 128 then some t else none

/-- A blank. -/
def isBlank (b : Byte) : Bool := b.toNat = 32 || b.toNat = 9
/-- The text without blanks before it. -/
def skipBlanks (t : List Byte) : List Byte := t.dropWhile isBlank
/-- A decimal digit. -/
def isDigit (b : Byte) : Bool := 48 ≤ b.toNat && b.toNat ≤ 57

/-- R98: may the byte begin a symbol? -/
def symbolStart (b : Byte) : Bool := symbolByte b && !isDigit b && b ≠ asciiByte '.'

/-- R98: the symbol at the head of a text, of at most 255 bytes, and what follows. -/
def takeSymbol (t : List Byte) : Option (List Byte × List Byte) :=
  match t with
  | b :: _ =>
    let name := t.takeWhile symbolByte
    if symbolStart b && name.length ≤ 255 then some (name, t.drop name.length) else none
  | [] => none

/-- R97, R98: the labels of a line, and its statement. -/
def takeLabels : Nat → List Byte → List (List Byte) × List Byte
  | 0, t => ([], t)
  | n + 1, t =>
    let t := skipBlanks t
    match takeSymbol t with
    | some (name, c :: rest) => if c = asciiByte ':' then let r := takeLabels n rest; (name :: r.1, r.2) else ([], t)
    | _ => ([], t)

/-! Numbers (R98). -/

/-- The value of a digit in a base; none where it is none. -/
def digitOf (base : Nat) (b : Byte) : Option Nat :=
  let n := (lowerByte b).toNat
  let v := if isDigit b then n - 48 else if 97 ≤ n && n ≤ 102 then n - 87 else 16
  if v < base then some v else none

/-- Digits of a base, with underscores between them: the value, how many digits, and what follows. -/
def takeDigits (base : Nat) : List Byte → Nat → Nat → Nat × Nat × List Byte
  | b :: rest, v, n =>
    match digitOf base b with
    | some d => takeDigits base rest (base * v + d) (n + 1)
    | none =>
      if b = asciiByte '_' && n ≠ 0 && match rest with | c :: _ => (digitOf base c).isSome | [] => false then takeDigits base rest v n
      else (v, n, b :: rest)
  | [], v, n => (v, n, [])

/-- R98: an integer: decimal, 0x hexadecimal or 0b binary. -/
def takeInteger (t : List Byte) : Option (Nat × List Byte) :=
  let number := fun (base : Nat) (t : List Byte) => let r := takeDigits base t 0 0; if r.2.1 = 0 then none else some (r.1, r.2.2)
  match t with
  | z :: x :: rest =>
    if z = asciiByte '0' && lowerByte x = asciiByte 'x' then number 16 rest
    else if z = asciiByte '0' && lowerByte x = asciiByte 'b' then number 2 rest
    else number 10 t
  | _ => number 10 t

/-- R98: a float: decimal digits with a full stop or an exponent: m · 10^e. -/
def takeFloat (t : List Byte) : Option ((Nat × Int) × List Byte) :=
  let whole := takeDigits 10 t 0 0
  let (frac, stop) : (Nat × Nat × List Byte) × Bool := match whole.2.2 with
    | c :: rest => if c = asciiByte '.' then (takeDigits 10 rest whole.1 0, true) else ((whole.1, 0, whole.2.2), false)
    | [] => ((whole.1, 0, []), false)
  let power : Option (Int × List Byte) := match frac.2.2 with
    | c :: s :: rest =>
      if lowerByte c ≠ asciiByte 'e' then none
      else
        let signed_ := s = asciiByte '-' || s = asciiByte '+'
        let r := takeDigits 10 (if signed_ then rest else s :: rest) 0 0
        if r.2.1 = 0 then none else some (if s = asciiByte '-' then -(r.1 : Int) else r.1, r.2.2)
    | _ => none
  if whole.2.1 + frac.2.1 = 0 || (!stop && power.isNone) then none
  else
    let (e, rest) := power.getD (0, frac.2.2)
    some ((frac.1, e - (frac.2.1 : Int)), rest)

/-! Expressions (R98). -/

/-- The operator at the head of a text. -/
def takeOp (t : List Byte) : Option (BinOp × List Byte) :=
  match t with
  | [] => none
  | a :: rest =>
    let two := fun (c : Char) (o : BinOp) => match rest with | b :: r => if b = asciiByte c then some (o, r) else none | [] => none
    if a = asciiByte '*' then some (.mul, rest)
    else if a = asciiByte '/' then some (.div, rest)
    else if a = asciiByte '%' then some (.mod, rest)
    else if a = asciiByte '+' then some (.add, rest)
    else if a = asciiByte '-' then some (.sub, rest)
    else if a = asciiByte '<' then two '<' .shl
    else if a = asciiByte '>' then two '>' .shr
    else if a = asciiByte '&' then some (.and, rest)
    else if a = asciiByte '^' then some (.xor, rest)
    else if a = asciiByte '|' then some (.or, rest)
    else none

/-- What the parser still has to do. -/
inductive ExprGoal where
  /-- an operand -/
  | atom
  /-- operators of at least this level after an operand -/
  | tail (level : Nat) (left : AsmExpr)

/-- R98: an expression at the head of a text, by descending precedence, each level from left to right; `fuel` bounds the nesting. An
integer of more than 64 bits is an error (R103). -/
def takeExpr : Nat → ExprGoal → List Byte → Option (AsmExpr × List Byte)
  | 0, _, _ => none
  | fuel + 1, .atom, t =>
    let paren := fun (f : AsmExpr → AsmExpr) (t : List Byte) =>
      ((takeExpr fuel .atom t).bind fun p => takeExpr fuel (.tail 1 p.1) p.2).bind fun p => match skipBlanks p.2 with
        | c :: rest => if c = asciiByte ')' then some (f p.1, rest) else none
        | [] => none
    match skipBlanks t with
    | [] => none
    | c :: rest =>
      if c = asciiByte '-' then (takeExpr fuel .atom rest).map fun p => (.neg p.1, p.2)
      else if c = asciiByte '~' then (takeExpr fuel .atom rest).map fun p => (.not p.1, p.2)
      else if c = asciiByte '(' then paren id rest
      else if isDigit c then (takeInteger (c :: rest)).bind fun p => if p.1 < 2 ^ 64 then some (.int (BitVec.ofNat 64 p.1), p.2) else none
      else if c = asciiByte '.' then some (.here, rest)
      else (takeSymbol (c :: rest)).bind fun p =>
        match skipBlanks p.2 with
        | o :: inner =>
          if o = asciiByte '(' && p.1.map lowerByte = "lo32".toList.map asciiByte then paren .lo32 inner
          else if o = asciiByte '(' && p.1.map lowerByte = "hi32".toList.map asciiByte then paren .hi32 inner
          else some (.symbol p.1, p.2)
        | [] => some (.symbol p.1, p.2)
  | fuel + 1, .tail level left, t =>
    match takeOp (skipBlanks t) with
    | none => some (left, t)
    | some (o, rest) =>
      if o.level < level then some (left, t)
      else ((takeExpr fuel .atom rest).bind fun p => takeExpr fuel (.tail (o.level + 1) p.1) p.2).bind fun p =>
        takeExpr fuel (.tail level (.op o left p.1)) p.2

/-- R98: an expression. -/
def readExpr (t : List Byte) : Option (AsmExpr × List Byte) :=
  (takeExpr (4 * t.length + 4) .atom t).bind fun p => takeExpr (4 * t.length + 4) (.tail 1 p.1) p.2

/-! Macros (R110). -/

/-- The lines of a text. -/
def splitLines : List Byte → List (List Byte)
  | [] => [[]]
  | b :: rest => if b.toNat = 10 then [] :: splitLines rest else match splitLines rest with
    | l :: ls => (b :: l) :: ls
    | [] => [[b]]

/-- The parts of a text between commas that stand in no parentheses, without blanks around them; `depth` parentheses are open. -/
def splitCommas : List Byte → Nat → List Byte → List (List Byte)
  | [], _, part => [trim part]
  | b :: rest, depth, part =>
    if b = asciiByte ',' && depth = 0 then trim part :: splitCommas rest 0 []
    else splitCommas rest (if b = asciiByte '(' then depth + 1 else if b = asciiByte ')' then depth - 1 else depth) (b :: part)
where
  /-- a part, kept last byte first -/
  trim (part : List Byte) : List Byte := skipBlanks (skipBlanks part).reverse

/-- The parts of what follows a name; none where nothing does. -/
def takeParts (t : List Byte) : List (List Byte) := if (skipBlanks t).isEmpty then [] else splitCommas t 0 []

/-- The directive at the head of a statement, in lower case, and what follows. -/
def takeDirective (t : List Byte) : List Byte × List Byte :=
  let w := t.takeWhile symbolByte
  (w.map lowerByte, t.drop w.length)

/-- A directive's name as bytes. -/
def directive (s : String) : List Byte := s.toList.map asciiByte

/-- What has been read of a source whose macros are gathered: the macros, the lines outside them, and the macro that is open with the
lines of its body. -/
structure MacroScan where
  macros : List Macro := []
  lines : List (List Byte) := []
  opened : Option (Macro × List (List Byte)) := none

/-- R110: one more line, its comment gone: none where a macro is defined in a macro, .endmacro closes none, or a macro's name or
parameters are none. The labels before such a directive stand on a line of their own. -/
def MacroScan.line (mnemonics : List (List Byte)) (s : MacroScan) (l : List Byte) : Option MacroScan :=
  let (labels, t) := takeLabels l.length l
  let (w, rest) := takeDirective t
  let before := labels.map fun n => n ++ [asciiByte ':']
  match s.opened with
  | some (m, body) =>
    if w = directive ".macro" then none
    else if w = directive ".endmacro" then
      let whole : Macro := { m with body := [asciiByte '\n'].intercalate (body ++ before) }
      if whole.legal mnemonics && (skipBlanks rest).isEmpty then some { s with macros := s.macros ++ [whole], opened := none } else none
    else some { s with opened := some (m, body ++ [l]) }
  | none =>
    if w = directive ".endmacro" then none
    else if w = directive ".macro" then match takeParts rest with
      | name :: params =>
        let named := fun p => match takeSymbol p with | some (_, []) => true | _ => false
        if (name :: params).all named && !s.macros.any fun m => m.name = name then
          some { s with lines := s.lines ++ before, opened := some ({ name := name, params := params, body := [] }, []) }
        else none
      | [] => none
    else some { s with lines := s.lines ++ [l] }

/-- R110: the invocation that a line holds: its labels, the macro and the arguments. -/
def invocation (ms : List Macro) (l : List Byte) : Option (List (List Byte) × Macro × List (List Byte)) :=
  let (labels, t) := takeLabels l.length l
  (takeSymbol t).bind fun p => (ms.find? fun m => m.name = p.1).map fun m => (labels, m, takeParts p.2)

/-- R110: the lines with every invocation expanded, of which at most `depth` nest, and the number that the next invocation's %seq takes:
`seq` is that of the first, and each takes one more than the last. The labels of an invocation stand before its text. -/
def expandLines (ms : List Macro) : Nat → List (List Byte) → Nat → Option (List (List Byte) × Nat)
  | 0, ls, seq => if ls.any fun l => (invocation ms l).isSome then none else some (ls, seq)
  | depth + 1, ls, seq => ls.foldlM (fun r l => match invocation ms l with
      | none => some (r.1 ++ [l], r.2)
      | some (labels, m, args) => (m.expand args r.2).bind fun text =>
        (expandLines ms depth (splitLines text) (r.2 + 1)).map fun e =>
          (r.1 ++ (labels.map fun n => n ++ [asciiByte ':']) ++ e.1, e.2)) ([], seq)

/-- R97, R110: the lines of a source without comments and macros: every macro of the source gathered, and every invocation expanded, at
most 16 deep; none where a line or a macro is an error. `mnemonics` are those of the instruction set, in lower case. -/
def expandSource (mnemonics : List (List Byte)) (source : List Byte) : Option (List (List Byte)) :=
  ((splitLines source).mapM lineText).bind fun ls => (ls.foldlM (MacroScan.line mnemonics) {}).bind fun s =>
    if s.opened.isSome then none else (expandLines s.macros 16 s.lines 0).map fun e => e.1

end Sys2Proof.Machine
end

