-- ==== Sys2Proof/Machine/Reader.lean ====
section
/-! DEFINITION. The statements of a source as text (09 R97-R103, R107-R110): how each instruction is written, with its operands in field
order and its suffixes, and the directives; gyas over a source's text. -/

namespace Sys2Proof.Machine

/-! How an instruction is written. -/

/-- R102: the suffixes of one field: their names and the codes they give, the field's place, and whether one must be written. -/
structure SuffixSet where
  codes : List (String × Nat)
  lo : Nat
  required : Bool := false

/-- An operand as it is written, with the place of its field. -/
inductive OperandForm where
  /-- a register of seven bits: a destination, or a source -/
  | reg (lo : Nat) (dest : Bool := false)
  | pred (lo : Nat)
  /-- a register whose entry gives its kind and encoding, of seven bits -/
  | entry (kind : AsmRegKind) (lo base limit : Nat) (zero : Bool := false)
  /-- a tile, of three bits -/
  | tile
  | num (lo w : Nat) (isSigned : Bool := false)
  /-- R100: xk+vn, with vn in the field at `lo`, and +off where the small field is an offset -/
  | mem (lo : Nat) (offset : Bool)
  /-- R55, R100: a special register by name or number -/
  | special
  /-- R150: GSET's predicate -/
  | guardPred
  /-- R161: this register and no other -/
  | only (r : AsmReg)
  /-- the target of a BRA, CALL or MARK, and the continuation of a YIELD -/
  | target
  | ahead
  | spill
  | tramp
  | literal
  deriving DecidableEq, Repr

/-- An instruction's form: mnemonic, word, the suffixes that every writing of it has, those of its fields, its operands in order, and the
U bit where only one has it. -/
structure AsmForm where
  name : String
  base : Nat
  fixed : List String := []
  sets : List SuffixSet := []
  operands : List OperandForm := []
  onlyU : Option Bool := none

/-- Forms that differ in their opcodes alone, which count up from `first`, at `shift` above `top`. -/
def formsFrom (top shift first : Nat) (operands : List OperandForm) (names : List String) (sets : List SuffixSet) : List AsmForm :=
  names.zipIdx.map fun e => { name := e.1, base := top + (first + e.2) * 2 ^ shift, sets := sets, operands := operands }

/-- R102: rounding, for a C word and for CVT. -/
def roundCodes : List (String × Nat) := [("RN", 0), ("RZ", 1), ("RU", 2), ("RD", 3)]
/-- R102: the four scopes. -/
def scopeCodes : List (String × Nat) := [("GRP", 0), ("TEAM", 1), ("DEV", 2), ("SYS", 3)]
/-- R102: the sizes of M words. -/
def sizeSet : SuffixSet := { codes := [("B1", 0), ("B2", 1), ("B4", 2), ("B8", 3), ("B16", 4)], lo := 5, required := true }
/-- R102: atomic operations. -/
def atomicSet : SuffixSet :=
  { codes := [("ADD", 0), ("MIN", 1), ("MAX", 2), ("AND", 3), ("OR", 4), ("XOR", 5), ("EXCH", 6), ("CAS", 7), ("INCW", 8)], lo := 1
    required := true }
/-- R102: the scope of ATOM and RED, and of SIGNAL. -/
def devSysSet : SuffixSet := { codes := [("DEV", 0), ("SYS", 1)], lo := 0, required := true }
/-- R102: the queues, at the field's place. -/
def queueSet (lo : Nat) : SuffixSet := { codes := [("Q0", 0), ("Q1", 1), ("Q2", 2), ("Q3", 3)], lo := lo }

/-- R127, R128, R133, R134, R136-R140, R144-R147: the A words. -/
def formsA : List AsmForm :=
  let d := OperandForm.reg 14 true
  let a := OperandForm.reg 7
  let b := OperandForm.reg 0
  let of := fun (n : Nat) ops names => formsFrom 0 24 n ops names []
  [{ name := "NOP", base := 0 }] ++ of 1 [d, a] ["MOV"] ++
  of 2 [d, a, b] ["IADD", "ISUB", "IMULLO", "IMULHI", "IMULHIU", "IMIN", "IMAX", "UMIN", "UMAX", "AND", "OR", "XOR", "ANDN", "SHL", "SHR",
    "SAR", "BFEU", "BFES"] ++
  of 0x14 [d, a] ["POPC", "CLZ", "BREV"] ++
  of 0x17 [d, a, b] ["SEL", "FADD", "FSUB", "FMUL", "FMIN", "FMAX", "HADD2", "HMUL2", "BADD2", "BMUL2"] ++
  of 0x21 [.pred 14, a, b] ["ICMPEQ", "ICMPNE", "ICMPLT", "ICMPLE", "UCMPLT", "UCMPLE", "FCMPEQ", "FCMPNE", "FCMPLT", "FCMPLE", "FCMPUN"] ++
  of 0x2C [.pred 14, .pred 7, .pred 0] ["PAND", "POR", "PXOR", "PANDN"] ++
  of 0x30 [d, a, b] ["SHFLIDX", "SHFLXOR", "LSHUP", "LSHDN"] ++
  of 0x34 [d, .pred 7] ["VOTEBAL"] ++ of 0x35 [.pred 14, .pred 7] ["VOTEANY", "VOTEALL"] ++
  of 0x37 [d, a] ["RDFIRST", "FRCP", "FRSQ", "FEX2", "FLG2", "FSIN", "FCOS"] ++
  [{ name := "PSAVE", base := 0x3E000000, operands := [d, .num 7 7], onlyU := some false },
   { name := "PSAVE", base := 0x3E000000, operands := [d], onlyU := some true },
   { name := "PLOAD", base := 0x3F000000, operands := [.num 14 7, a], onlyU := some false },
   { name := "PLOAD", base := 0x3F000000, operands := [a], onlyU := some true }]

/-- R129, R137, R141, R144, R145, R148-R152: the B words. -/
def formsB : List AsmForm :=
  let d := OperandForm.reg 15 true
  let a := OperandForm.reg 8
  let of := fun (n : Nat) ops names => formsFrom 0x40000000 25 n ops names []
  let sof := formsFrom 0x40000000 25
  of 0 [d, a, .num 0 8 true] ["IADDI"] ++ of 1 [d, a, .num 0 8] ["ANDI", "ORI", "XORI", "SHLI", "SHRI", "SARI"] ++
  of 7 [.pred 15, a, .num 0 8 true] ["ICMPEQI", "ICMPLTI", "ICMPGTI"] ++ of 0x0A [d, .num 0 8 true] ["MOVI"] ++
  of 0x0B [d, .special] ["SRD"] ++ of 0x0C [a, .special] ["SWR"] ++ of 0x0D [.entry .g 15 0 7, .guardPred] ["GSET"] ++
  of 0x0E [.num 0 4] ["WIN"] ++ of 0x0F [d, .spill] ["LDSPILL"] ++ of 0x10 [.reg 15, .spill] ["STSPILL"] ++
  sof 0x11 [d, a, .num 0 5] ["CVT"] [{ codes := roundCodes ++ [("RNS", 4)], lo := 5 }] ++
  of 0x12 [d, a, .num 0 8] ["LSHUPI", "LSHDNI"] ++ of 0x14 [d, a, .num 0 5] ["SHFLXORI"] ++ of 0x15 [d, a, .num 0 8 true] ["IMULI"]

/-- R130-R132, R135: the C words. -/
def formsC : List AsmForm :=
  let ops := [OperandForm.reg 14 true, .reg 7, .reg 0]
  let of := fun (n : Nat) ops names => formsFrom 0x80000000 25 n ops names []
  let sof := formsFrom 0x80000000 25
  let round := [{ codes := roundCodes, lo := 23 : SuffixSet }]
  sof 0 ops ["FFMA", "FFMN"] round ++ of 2 ops ["IMAD"] ++ sof 3 ops ["IADDMIN"] [{ codes := [("SS", 0), ("NN", 3)], lo := 23 }] ++
  sof 4 ops ["HFMA2", "BFMA2"] round ++
  sof 6 ops ["DP4", "DP8"] [{ codes := [("SS", 0), ("SN", 1), ("NS", 2), ("NN", 3)], lo := 23 }] ++
  of 8 ops ["BFI", "IADD3", "ISAD", "IADD64"]

/-- R200-R203, R207, R208: the M words. -/
def formsM : List AsmForm :=
  let d := OperandForm.reg 15 true
  let src := OperandForm.reg 15
  let sof := formsFrom 0xA0000000 25
  let scope := [sizeSet, { codes := scopeCodes, lo := 0, required := true }]
  let cpy := fun (dir : String) (n : Nat) (ops : List OperandForm) =>
    ({ name := "CPY", base := 0xAE000000 + n * 8, fixed := [dir], sets := [sizeSet, queueSet 1], operands := ops } : AsmForm)
  sof 0 [d, .mem 8 true] ["LD", "LDS"] [sizeSet] ++ sof 2 [src, .mem 8 true] ["ST"] [sizeSet] ++
  sof 3 [d, .mem 8 true] ["SLD", "SLDS"] [sizeSet] ++ sof 5 [src, .mem 8 true] ["SST"] [sizeSet] ++
  sof 6 [src, .mem 8 false] ["LDTS"] [sizeSet, queueSet 0] ++
  [cpy "G2S" 0 [src, .mem 8 false], cpy "S2G" 1 [.mem 15 false, .reg 8], cpy "S2S" 2 [src, .mem 8 false],
   cpy "G2G" 3 [.mem 15 false, .reg 8]] ++
  sof 8 [d, .mem 8 false] ["ATOM"] [sizeSet, atomicSet, devSysSet] ++ sof 9 [src, .mem 8 false] ["RED"] [sizeSet, atomicSet, devSysSet] ++
  sof 0x0A [d, .mem 8 false] ["SATOM"] [sizeSet, atomicSet] ++ sof 0x0B [.mem 8 true] ["PREF"] [sizeSet] ++
  sof 0x0C [d, .mem 8 false] ["LDA"] scope ++ sof 0x0D [src, .mem 8 false] ["STREL"] scope

/-- 15 R205, R210-R223, 17 R230-R242, 19 R249-R258, 21 R274-R280, 23 R289-R297, 11 R158-R161, 25 R318-R331: the S words. -/
def formsS : List AsmForm :=
  let d := OperandForm.reg 16 true
  let a := OperandForm.reg 9
  let k := fun limit => OperandForm.entry .s 9 112 limit
  let j := fun limit => OperandForm.entry .s 0 0 limit
  let of := fun (n : Nat) ops names => formsFrom 0xC0000000 23 n ops names []
  let sof := formsFrom 0xC0000000 23
  let one := fun (name : String) (bits : Nat) (fixed : List String) (ops : List OperandForm) (sets : List SuffixSet) =>
    [({ name := name, base := bits, fixed := fixed, sets := sets, operands := ops } : AsmForm)]
  let op : SuffixSet := { codes := [("AND", 0), ("OR", 1), ("SUM", 2), ("POPC", 3)], lo := 6 }
  let width : SuffixSet := { codes := [("N32", 0), ("N16", 1)], lo := 0, required := true }
  let conv := fun (needed : Bool) => ({ codes := [("TOBF16", 1), ("TOI32", 2)], lo := 4, required := needed } : SuffixSet)
  let flag := fun (name : String) (lo : Nat) => ({ codes := [(name, 1)], lo := lo } : SuffixSet)
  sof 0 [d, a, .num 0 6] ["BAR", "BARARR"] [op] ++ of 2 [a, .num 0 6] ["BARWAIT"] ++
  sof 3 [] ["FENCE"] [{ codes := scopeCodes, lo := 0, required := true }] ++
  sof 4 [.num 0 8] ["QFENCE"] [{ codes := scopeCodes, lo := 8, required := true }] ++ of 5 [.num 0 16] ["PAUSE"] ++
  one "YIELD" 0xC3000000 ["CQ"] [.num 0 2, .ahead] [] ++ one "YIELD" 0xC3000400 ["BAR"] [.num 0 6, .num 6 1, .ahead] [] ++
  one "YIELD" 0xC3000800 ["LINE"] [.entry .s 0 0 126, .ahead] [] ++
  sof 7 [.entry .x 16 0 7, k 13] ["XLAT"] [flag "W" 0] ++ sof 8 [.entry .s 16 112 14, k 8] ["GATH"] [width] ++
  one "SCAT" 0xC4800000 ["ORD"] [.entry .s 16 112 14, k 8] [width] ++
  one "SCAT" 0xC4800002 ["ADD"] [.entry .s 16 112 14, k 8] [width, { codes := [("F32", 0), ("I32", 1), ("BF16", 2)], lo := 2, required := true }] ++
  of 0x0A [d, k 10] ["MCAST"] ++ of 0x0B [k 13] ["MGANG"] ++ sof 0x0C [.reg 16, a, .tile] ["MMA"] [flag "CLR" 3] ++
  of 0x0D [d, .tile, .num 3 3] ["MDRAIN"] ++ sof 0x0E [k 12, .tile] ["MSTORE"] [conv false, flag "SP" 6] ++
  one "MSTORE" 0xC7000008 ["ADD"] [k 12, .tile] [flag "SP" 6, { codes := [("F32", 0), ("I32", 1)], lo := 7 }] ++
  one "MSTORE" 0xC7000008 ["ADD"] [k 12, .tile] [conv true, flag "SP" 6] ++
  of 0x0F [.tile] ["MZERO"] ++ one "MZERO" 0xC7800008 ["ALL"] [] [] ++ of 0x10 [.entry .s 16 112 14] ["MFENCE"] ++
  of 0x11 [.num 0 4] ["MWAIT"] ++ of 0x12 [] ["NTAKE", "NPASS"] ++ of 0x14 [.entry .q 9 0 15, j 123] ["PASS"] ++ of 0x14 [j 123] ["PASS"] ++
  of 0x15 [.entry .s 9 112 14 true] ["SEAL"] ++ sof 0x16 [k 13, j 123] ["VREAD"] [flag "PIN" 7] ++
  sof 0x17 [k 12, j 123] ["VWAIT"] [flag "PIN" 7] ++ of 0x18 [k 13, j 126] ["VDONE"] ++ of 0x19 [a, j 125] ["POST"] ++
  one "POST" 0xCC800080 ["R"] [d, a, j 125] [] ++ of 0x1A [.reg 16, a] ["REPLY"] ++ of 0x1B [] ["CDONE"] ++ of 0x1C [a, j 125] ["ENQ"] ++
  one "ENQ" 0xCE000080 ["DEP"] [.reg 16, a, j 124] [] ++ sof 0x1D [a] ["SIGNAL"] [devSysSet] ++ of 0x1E [d, j 125] ["LAUNCH"] ++
  of 0x1F [j 125, k 12] ["LWAIT"] ++ of 0x20 [k 12] ["LDONE", "LHINT"] ++
  sof 0x22 [j 125] ["ENRD"] [{ codes := [("QUAD", 0), ("DIE", 1), ("PKG", 2), ("LAUNCH", 3), ("RES", 4), ("LEFT", 5)], lo := 16, required := true }] ++
  of 0x23 [] ["COMMIT", "TOKPASS", "JOIN", "RET"] ++ one "RET" 0xD3000000 [] [.only (.s 126)] [] ++
  one "RET" 0xD3000001 [] [.only (.s 125)] [] ++ of 0x27 [.entry .s 9 0 125] ["JMPI"] ++ of 0x28 [] ["EXIT"] ++
  of 0x29 [.num 0 23] ["TRAP", "SYS"] ++ of 0x2B [.num 0 1] ["TRET"] ++ one "TRET" 0xD5800002 ["HALT"] [] [] ++
  of 0x2C [.num 0 23] ["BKPT"] ++ sof 0x2D [d, k 13] ["PMAP"] [{ codes := [("W", 1), ("WX", 3)], lo := 0 }] ++
  one "TLBI" 0xD7000000 ["DRAIN"] [.entry .s 1 0 124] [] ++ one "TLBI" 0xD7000001 ["CONFIRM"] [] []

/-- R87, R88, R142, 07 R92, R93: the J words and the L-forms. -/
def formsJ : List AsmForm :=
  let d := OperandForm.reg 15 true
  let a := OperandForm.reg 8
  let of := fun (n : Nat) ops names => formsFrom 0xE0000000 26 n ops names []
  let long := fun (n : Nat) ops names => formsFrom 0xF0000000 22 n ops names []
  of 0 [.target] ["BRA", "CALL", "MARK"] ++ of 3 [] ["BRK"] ++ of 5 [.tramp] ["TRAMP"] ++ of 6 [.num 0 26] ["PROBE"] ++
  long 0 [d, .literal] ["MOVL"] ++ long 1 [d, a, .literal] ["IADDL", "ANDL", "ORL", "XORL", "IMULL"] ++
  long 6 [.pred 15, a, .literal] ["ICMPEQL", "ICMPLTL"] ++ long 8 [d, a, .literal] ["FADDL", "FMULL", "FFMAL"] ++
  long 0x0B [.pred 15, a, .literal] ["FCMPLTL"]

/-- Every form of every instruction. -/
def asmForms : List AsmForm := formsA ++ formsB ++ formsC ++ formsM ++ formsS ++ formsJ

/-- The mnemonics of the instruction set, in lower case (R110). -/
def mnemonics : List (List Byte) := (asmForms.map fun f => (nameBytes f.name).map lowerByte).eraseDups

/-! Suffixes (R102). -/

/-- R98: is it this name, letters of either case alike? -/
def sameName (s : String) (t : List Byte) : Bool := (nameBytes s).map lowerByte = t.map lowerByte

/-- The set and the code of a suffix of a form. -/
def AsmForm.suffix (f : AsmForm) (name : List Byte) : Option (Nat × Nat) :=
  f.sets.zipIdx.findSome? fun g => (g.1.codes.find? fun s => sameName s.1 name).map fun s => (g.2, s.2 * 2 ^ g.1.lo)

/-- R102: the word of a form with these suffixes, written in any order: none where one names no field of the form, two are of one field,
or a required one is missing. -/
def AsmForm.word (f : AsmForm) (names : List (List Byte)) : Option Nat :=
  let own := fun (n : List Byte) => f.fixed.any fun s => sameName s n
  ((names.filter fun n => !own n).mapM f.suffix).bind fun l =>
    let all := (names.filter own).length = f.fixed.length && f.fixed.all fun s => names.any (sameName s)
    let needed := f.sets.zipIdx.all fun g => !g.1.required || l.any fun e => e.1 = g.2
    if all && needed && decide (l.map fun e => e.1).Nodup then some (l.foldl (fun n e => n + e.2) f.base) else none

/-! Operands (R99, R100). -/

/-- R99: a register's name. -/
def readReg (t : List Byte) : Option AsmReg :=
  let number := fun (ds : List Byte) =>
    if ds.all isDigit && (ds.length = 1 || ds.head? ≠ some (asciiByte '0')) then (takeInteger ds).map fun p => p.1 else none
  match t.map lowerByte with
  | [] => none
  | [b] => if b = asciiByte 'z' then some .z else none
  | b :: ds =>
    if b = asciiByte 'v' then (number ds).map .v
    else if b = asciiByte 's' then (number ds).map .s
    else if b = asciiByte 'p' then (number ds).map .p
    else if b = asciiByte 'q' then (number ds).map .q
    else if b = asciiByte 'g' then (number ds).map .g
    else if b = asciiByte 'x' then (number ds).map .x
    else if (b :: ds).take 3 = nameBytes "acc" then (number (ds.drop 2)).map .acc
    else none

/-- An expression that is all of a text. -/
def wholeExpr (t : List Byte) : Option AsmExpr := (readExpr t).bind fun p => if (skipBlanks p.2).isEmpty then some p.1 else none

/-- R98: a float that is all of a text, with its sign. -/
def wholeFloat (t : List Byte) : Option (Bool × Nat × Int) :=
  let neg := t.head? = some (asciiByte '-')
  (takeFloat (if neg then skipBlanks (t.drop 1) else t)).bind fun p => if (skipBlanks p.2).isEmpty then some (neg, p.1) else none

/-- What comes after this character, blanks before it apart. -/
def after (c : Char) (t : List Byte) : Option (List Byte) :=
  match skipBlanks t with | b :: rest => if b = asciiByte c then some rest else none | [] => none

/-- R55: the names of the special registers, in the order of their numbers. -/
def specialNames : List String :=
  ["LANEID", "GROUPID", "NGROUPS", "TEAMID", "NTEAMS", "ROLE", "ROLEIDX", "PARTITION", "QUADRANT", "CORE", "LCORE", "DIE", "EXECMASK",
   "CLOCKLO", "CLOCKHI", "PASSNO", "SPB", "BARBASE", "TRB", "UTV", "STV", "TRAPCAUSE", "TRAPPCLO", "TRAPPCHI", "TRAPMASK", "FADDRLO",
   "FADDRHI", "GENTAG", "CHECKMODE", "ARGLO", "ARGHI", "WINBASE"]

/-- What an operand gives: fields, further bits of the word, what is to be filled in, and the literal of an L-form. -/
structure ReadOperand where
  fields : List (Nat × Nat × AsmOperand) := []
  bits : Nat := 0
  fix : Option AsmFix := none
  lit : Option Word := none

/-- One field. -/
def ReadOperand.field (lo w : Nat) (o : AsmOperand) : ReadOperand := { fields := [(lo, w, o)] }

/-- R100: a memory operand, of an access of `size` bytes. -/
def readMem (size lo : Nat) (offset : Bool) (t : List Byte) : Option ReadOperand :=
  (takeSymbol t).bind fun x => (readReg x.1).bind fun xk => (after '+' x.2).bind fun t =>
    (takeSymbol (skipBlanks t)).bind fun v => (readReg v.1).bind fun vn =>
      let fields : List (Nat × Nat × AsmOperand) := [(22, 3, .xreg xk), (lo, 7, .reg vn false)]
      if offset then (after '+' v.2).bind fun t => (wholeExpr t).map fun e => { fields := fields ++ [(0, 5, .offset e size)] }
      else if (skipBlanks v.2).isEmpty then some { fields := fields } else none

/-- R150: GSET's predicate: NEG, and SPACE for a q-predicate. -/
def readGuardPred (t : List Byte) : Option ReadOperand :=
  let neg := (after '!' t).isSome
  (readReg (skipBlanks ((after '!' t).getD t))).bind fun r =>
    let bits := if neg then 1 else 0
    match r with
    | .p _ => some { fields := [(8, 7, .entry r .p 0 127)], bits := bits }
    | .q _ => some { fields := [(8, 7, .entry r .q 0 15)], bits := bits + 2 }
    | _ => none

/-- R99, R100: an operand of a form; none where gyas rejects it. -/
def OperandForm.read (size : Nat) (t : List Byte) : OperandForm → Option ReadOperand
  | .reg lo dest => (readReg t).map fun r => .field lo 7 (.reg r dest)
  | .pred lo => (readReg t).map fun r => .field lo 7 (.pred r)
  | .entry kind lo base limit zero => (readReg t).map fun r => .field lo 7 (.entry r kind base limit zero)
  | .tile => (readReg t).map fun r => .field 0 3 (.tile r)
  | .num lo w isSigned => (wholeExpr t).map fun e => .field lo w (.number isSigned e)
  | .mem lo offset => readMem size lo offset t
  | .special => match specialNames.findIdx? fun s => sameName s t with
    | some k => some { bits := k }
    | none => (wholeExpr t).map fun e => .field 0 8 (.number false e)
  | .guardPred => readGuardPred t
  | .only r => if readReg t = some r then some {} else none
  | .target => (wholeExpr t).map fun e => { fix := some (.target e) }
  | .ahead => (wholeExpr t).map fun e => .field 12 11 (.ahead e)
  | .spill => (wholeExpr t).map fun e => { fix := some (.spill e) }
  | .tramp => (wholeExpr t).map fun e => match e with
    | .symbol n => { fix := some (.tramp n) }
    | e => .field 0 16 (.number false e)
  | .literal => match wholeFloat t with
    | some (neg, m, e) => some { lit := some (BitVec.ofNat 32 (decimalBits fp32 neg m e)) }
    | none => (wholeExpr t).map fun e => { fix := some (.literal e) }

/-! Instructions. -/

/-- The parts of a text between full stops. -/
def splitDots : List Byte → List (List Byte)
  | [] => [[]]
  | b :: rest => if b = asciiByte '.' then [] :: splitDots rest else match splitDots rest with
    | l :: ls => (b :: l) :: ls
    | [] => [[b]]

/-- R100: the guard prefix of a statement, and what follows. -/
def takeGuard (t : List Byte) : Option (Option AsmReg × List Byte) :=
  match after '(' t with
  | none => some (none, t)
  | some t => (takeSymbol (skipBlanks t)).bind fun g => (readReg g.1).bind fun r => (after ')' g.2).map fun t => (some r, skipBlanks t)

/-- R105: operands and the count that a statement's suffix gives: 123 and 125 are the braces. -/
def takeCount (t : List Byte) : Option (List Byte × Option Nat) :=
  match t.dropWhile fun b => b.toNat ≠ 123 with
  | [] => some (t, none)
  | _ :: rest => (after 's' (rest.map lowerByte)).bind fun r => (after '=' r).bind fun r => (takeInteger (skipBlanks r)).bind fun n =>
    match skipBlanks n.2 with
    | b :: rest => if b.toNat = 125 && (skipBlanks rest).isEmpty && n.1 ≤ 7 then some (t.takeWhile fun b => b.toNat ≠ 123, some n.1) else none
    | [] => none

/-- The statement that a form makes of suffixes and operands; none where it is not that form's. -/
def AsmForm.read (f : AsmForm) (guard : Option AsmReg) (names parts : List (List Byte)) (given : Option Nat) : Option AsmStmt :=
  let uni := names.any (sameName "U")
  let names := names.filter fun n => !sameName "U" n
  let size := ((sizeSet.codes.find? fun s => names.any (sameName s.1)).map fun s => 2 ^ s.2).getD 1
  if parts.length ≠ f.operands.length then none
  else (f.word names).bind fun w => ((f.operands.zip parts).mapM fun (p : OperandForm × List Byte) => p.1.read size p.2).map fun l =>
    .instr
      { base := BitVec.ofNat 32 (l.foldl (fun n o => n ||| o.bits) w), guard := guard, operands := l.flatMap fun o => o.fields
        lit := (l.findSome? fun o => o.lit).getD 0, suffixU := uni, onlyU := f.onlyU }
      (l.findSome? fun o => o.fix) given

/-- R97-R103: an instruction as it is written; none where it is an error. Two forms of one mnemonic differ in their suffixes or in the
number of their operands, but for RET's. -/
def readInstr (t : List Byte) : Option AsmStmt :=
  (takeGuard t).bind fun (guard, t) => (takeSymbol t).bind fun (head, rest) => (takeCount rest).bind fun (ops, given) =>
    match splitDots head with
    | name :: names =>
      if decide (names.map fun n => n.map lowerByte).Nodup then
        asmForms.findSome? fun f => if sameName f.name name then f.read guard names (takeParts ops) given else none
      else none
    | [] => none

/-! Directives (R107-R109). -/

/-- R107: an item of .word or .literal. -/
def readItem (floats : Bool) (t : List Byte) : Option WordItem :=
  let full := (takeSymbol t).bind fun p => if sameName "addr64" p.1 then after '(' p.2 else none
  match full with
  | some t => (readExpr t).bind fun p => (after ')' p.2).bind fun r => if (skipBlanks r).isEmpty then some (.addr64 p.1) else none
  | none => match if floats then wholeFloat t else none with
    | some (neg, m, e) => some (.float neg m e)
    | none => (wholeExpr t).map .value

/-- A symbol that is all of a text. -/
def wholeSymbol (t : List Byte) : Option (List Byte) := (takeSymbol t).bind fun p => if p.2.isEmpty then some p.1 else none

/-- R109: FIELD=expression. -/
def readField (t : List Byte) : Option (List Byte × AsmExpr) :=
  (takeSymbol t).bind fun p => (after '=' p.2).bind fun r => (wholeExpr r).map fun e => (p.1, e)

/-- The expressions of a list, two by two. -/
def readPairs : List (List Byte) → Option (List (AsmExpr × AsmExpr))
  | a :: b :: rest => (wholeExpr a).bind fun x => (wholeExpr b).bind fun y => (readPairs rest).map ((x, y) :: ·)
  | [] => some []
  | [_] => none

/-- R109: a directive that names a descriptor and its fields. -/
def readDesc (kind : DescKind) : List (List Byte) → Option AsmStmt
  | name :: fields => (wholeSymbol name).bind fun n => (fields.mapM readField).map (.desc kind n)
  | [] => none

/-- A directive of one expression. -/
def readOne (f : AsmExpr → AsmStmt) : List (List Byte) → Option AsmStmt
  | [e] => (wholeExpr e).map f
  | _ => none

/-- R108: the flags of a kernel, with their bits (R118). -/
def kernelFlags : List (String × Nat) := [("ANYTIME", 1), ("PLAN", 2), ("DET", 4), ("CORES", 8), ("CHECK", 16)]

/-- R107: the kinds of section. -/
def sectionKinds : List (String × SectionKind) := [("TEXT", .text), ("DATA", .data), ("RODATA", .rodata), ("SCRATCH", .scratch)]

/-- R107-R109, R111: the directives, each with what its operands make of it. .macro and .endmacro are gone before (R110). -/
def directives : List (String × (List (List Byte) → Option AsmStmt)) :=
  let bare := fun (x : AsmStmt) (ps : List (List Byte)) => if ps.isEmpty then some x else none
  let switch := fun (k : SectionKind) (name : String) => bare (.section_ k (nameBytes name))
  let data := fun (n : Nat) (ps : List (List Byte)) => if ps.isEmpty then none else (ps.mapM (readItem false)).map (.data n)
  let floats := fun (half : Bool) (ps : List (List Byte)) => if ps.isEmpty then none else (ps.mapM wholeFloat).map (.floats half)
  let names := fun (f : List (List Byte) → AsmStmt) (ps : List (List Byte)) => if ps.isEmpty then none else (ps.mapM wholeSymbol).map f
  let name := fun (f : List Byte → AsmStmt) (ps : List (List Byte)) => match ps with | [n] => (wholeSymbol n).map f | _ => none
  [(".text", switch .text ".text"), (".data", switch .data ".data"), (".rodata", switch .rodata ".rodata"),
   (".scratch", switch .scratch ".scratch"),
   (".section", fun ps => match ps with
     | [n, k] => if n.isEmpty || !n.all symbolByte then none else (sectionKinds.find? fun e => nameBytes e.1 = k).map fun e => .section_ e.2 n
     | _ => none),
   (".align", readOne .align), (".word", data 4), (".half", data 2), (".byte", data 1), (".float", floats false), (".f16", floats true),
   (".space", fun ps => match ps with
     | [n] => (wholeExpr n).map fun n => .space n (.int 0)
     | [n, e] => (wholeExpr n).bind fun n => (wholeExpr e).map (.space n)
     | _ => none),
   (".global", names (.binding true)), (".local", names (.binding false)),
   (".set", fun ps => match ps with | [n, e] => (wholeSymbol n).bind fun n => (wholeExpr e).map (.set n) | _ => none),
   (".kernel", name .kernel), (".endkernel", bare .endKernel),
   (".role", fun ps => match ps with | [k, g] => (wholeExpr k).bind fun k => (wholeExpr g).map (.role k) | _ => none),
   (".regs", readOne .regs), (".barriers", readOne .barriers), (".lcores", readOne .lcores),
   (".flags", fun ps => if ps.isEmpty then none else
     (ps.mapM fun p => (kernelFlags.find? fun e => nameBytes e.1 = p).map fun e => e.2).map fun l => .flags (l.foldl (· ||| ·) 0)),
   (".anytime", name .anytime),
   (".ranges", fun ps => match ps with
     | [n] => (wholeSymbol n).map .rangesOf
     | n :: rest => (wholeSymbol n).bind fun n => (readPairs rest).map (.ranges n)
     | [] => none),
   (".vobject", readDesc .versionObject), (".cobject", readDesc .combinable), (".node", readDesc .node), (".layer", readDesc .layerTable),
   (".tramp", fun ps => match ps with
     | [n, t] => (wholeSymbol n).bind fun n => (wholeExpr t).map fun t => .tramp n t none
     | [n, t, k] => (wholeSymbol n).bind fun n => (wholeExpr t).bind fun t => (wholeExpr k).map fun k => .tramp n t (some k)
     | _ => none),
   (".tool", bare .tool),
   (".literal", fun ps => if ps.isEmpty then none else (ps.mapM (readItem true)).map .literal)]

/-- R97: the statements of a line without its comment: its labels, then an instruction or a directive. -/
def readLine (l : List Byte) : Option (List AsmStmt) :=
  let (labels, t) := takeLabels l.length l
  let own : Option (List AsmStmt) :=
    if (skipBlanks t).isEmpty then some []
    else if t.head? = some (asciiByte '.') then
      let (w, rest) := takeDirective t
      (directives.find? fun d => nameBytes d.1 = w).bind fun d => (d.2 (takeParts rest)).map fun x => [x]
    else (readInstr t).map fun x => [x]
  own.map fun l => labels.map AsmStmt.label ++ l

/-- R97-R112: the object that gyas makes of a source's text, and whether it warns; none where the source holds an error. -/
def gyasText (source : List Byte) : Option (Gof × Bool) :=
  (expandSource mnemonics source).bind fun ls => (ls.mapM readLine).bind fun l => gyas l.flatten

end Sys2Proof.Machine
end

