-- ==== Sys2Proof/Tests/Slice0.lean ====
section
/-! SUPPORT. Tests: the checks of WellFormed, a word of every constructor written out from the spec's encoding, single
steps with results the manual gives, and for every obligation a state and operands that meet its hypotheses. -/

namespace Sys2Proof.Tests

open Sys2Proof Sys2Proof.Machine

set_option Elab.async false

/-! Decoding: each word is put together from its row of the opcode table, its fields d, a, b holding 85, 51, 110 (the last
two where the row has them), each other field a value of its own width with its high bit set where its row allows it. -/

/-- A word in slot 1, whose next slot holds 0x89ABCDEF. -/
def word (w : Nat) : Except DecodeError Instr := decodeWord false false (BitVec.ofNat 32 w) 0x89ABCDEF

/-- R82: class 00, opcode [29:24], guard [23:21], d [20:14], a [13:7], b [6:0]. -/
theorem test_decode_A_1 :
    word 0x00000000 = .ok (.nop false) ∧
    word 0x01B55980 = .ok (.mov false 5 85 51) ∧
    word 0x02B559EE = .ok (.iadd false 5 85 51 110) ∧
    word 0x03B559EE = .ok (.isub false 5 85 51 110) ∧
    word 0x04B559EE = .ok (.imullo false 5 85 51 110) ∧
    word 0x05B559EE = .ok (.imulhi false 5 85 51 110) ∧
    word 0x06B559EE = .ok (.imulhiu false 5 85 51 110) ∧
    word 0x07B559EE = .ok (.imin false 5 85 51 110) ∧
    word 0x08B559EE = .ok (.imax false 5 85 51 110) ∧
    word 0x09B559EE = .ok (.umin false 5 85 51 110) ∧
    word 0x0AB559EE = .ok (.umax false 5 85 51 110) ∧
    word 0x0BB559EE = .ok (.and false 5 85 51 110) ∧
    word 0x0CB559EE = .ok (.or false 5 85 51 110) ∧
    word 0x0DB559EE = .ok (.xor false 5 85 51 110) ∧
    word 0x0EB559EE = .ok (.andn false 5 85 51 110) ∧
    word 0x0FB559EE = .ok (.shl false 5 85 51 110) ∧
    word 0x10B559EE = .ok (.shr false 5 85 51 110) ∧
    word 0x11B559EE = .ok (.sar false 5 85 51 110) ∧
    word 0x12B559EE = .ok (.bfeu false 5 85 51 110) ∧
    word 0x13B559EE = .ok (.bfes false 5 85 51 110) ∧
    word 0x14B55980 = .ok (.popc false 5 85 51) ∧
    word 0x15B55980 = .ok (.clz false 5 85 51) ∧
    word 0x16B55980 = .ok (.brev false 5 85 51) ∧
    word 0x17B559EE = .ok (.sel false 5 85 51 110) ∧
    word 0x18B559EE = .ok (.fadd false 5 85 51 110) ∧
    word 0x19B559EE = .ok (.fsub false 5 85 51 110) ∧
    word 0x1AB559EE = .ok (.fmul false 5 85 51 110) ∧
    word 0x1BB559EE = .ok (.fmin false 5 85 51 110) ∧
    word 0x1CB559EE = .ok (.fmax false 5 85 51 110) ∧
    word 0x1DB559EE = .ok (.hadd2 false 5 85 51 110) ∧
    word 0x1EB559EE = .ok (.hmul2 false 5 85 51 110) ∧
    word 0x1FB559EE = .ok (.badd2 false 5 85 51 110) := by
  and_intros <;> rfl

/-- R82: class 00, opcode [29:24], guard [23:21], d [20:14], a [13:7], b [6:0]. -/
theorem test_decode_A_2 :
    word 0x20B559EE = .ok (.bmul2 false 5 85 51 110) ∧
    word 0x21B559EE = .ok (.icmpeq false 5 85 51 110) ∧
    word 0x22B559EE = .ok (.icmpne false 5 85 51 110) ∧
    word 0x23B559EE = .ok (.icmplt false 5 85 51 110) ∧
    word 0x24B559EE = .ok (.icmple false 5 85 51 110) ∧
    word 0x25B559EE = .ok (.ucmplt false 5 85 51 110) ∧
    word 0x26B559EE = .ok (.ucmple false 5 85 51 110) ∧
    word 0x27B559EE = .ok (.fcmpeq false 5 85 51 110) ∧
    word 0x28B559EE = .ok (.fcmpne false 5 85 51 110) ∧
    word 0x29B559EE = .ok (.fcmplt false 5 85 51 110) ∧
    word 0x2AB559EE = .ok (.fcmple false 5 85 51 110) ∧
    word 0x2BB559EE = .ok (.fcmpun false 5 85 51 110) ∧
    word 0x2CB559EE = .ok (.pand false 5 85 51 110) ∧
    word 0x2DB559EE = .ok (.por false 5 85 51 110) ∧
    word 0x2EB559EE = .ok (.pxor false 5 85 51 110) ∧
    word 0x2FB559EE = .ok (.pandn false 5 85 51 110) ∧
    word 0x30B559EE = .ok (.shflidx 5 85 51 110) ∧
    word 0x31B559EE = .ok (.shflxor 5 85 51 110) ∧
    word 0x32B559EE = .ok (.lshup 5 85 51 110) ∧
    word 0x33B559EE = .ok (.lshdn 5 85 51 110) ∧
    word 0x34B55980 = .ok (.votebal 5 85 51) ∧
    word 0x35B55980 = .ok (.voteany 5 85 51) ∧
    word 0x36B55980 = .ok (.voteall 5 85 51) ∧
    word 0x37B55980 = .ok (.rdfirst 5 85 51) ∧
    word 0x38B55980 = .ok (.frcp false 5 85 51) ∧
    word 0x39B55980 = .ok (.frsq false 5 85 51) ∧
    word 0x3AB55980 = .ok (.fex2 false 5 85 51) ∧
    word 0x3BB55980 = .ok (.flg2 false 5 85 51) ∧
    word 0x3CB55980 = .ok (.fsin false 5 85 51) ∧
    word 0x3DB55980 = .ok (.fcos false 5 85 51) ∧
    word 0x3EB55980 = .ok (.psave false 5 85 51) ∧
    word 0x3FB55980 = .ok (.pload false 5 85 51) := by
  and_intros <;> rfl

/-- R83: class 01, opcode [29:25], guard [24:22], d [21:15], a [14:8], imm8 [7:0]. -/
theorem test_decode_B :
    word 0x416AB3A3 = .ok (.iaddi false 5 85 51 0xa3) ∧
    word 0x436AB3A3 = .ok (.andi false 5 85 51 0xa3) ∧
    word 0x456AB3A3 = .ok (.ori false 5 85 51 0xa3) ∧
    word 0x476AB3A3 = .ok (.xori false 5 85 51 0xa3) ∧
    word 0x496AB3A3 = .ok (.shli false 5 85 51 0xa3) ∧
    word 0x4B6AB3A3 = .ok (.shri false 5 85 51 0xa3) ∧
    word 0x4D6AB3A3 = .ok (.sari false 5 85 51 0xa3) ∧
    word 0x4F6AB3A3 = .ok (.icmpeqi false 5 85 51 0xa3) ∧
    word 0x516AB3A3 = .ok (.icmplti false 5 85 51 0xa3) ∧
    word 0x536AB3A3 = .ok (.icmpgti false 5 85 51 0xa3) ∧
    word 0x556A80A3 = .ok (.movi false 5 85 0xa3) ∧
    word 0x576A801D = .ok (.srd false 5 85 29) ∧
    word 0x5940551C = .ok (.swr false 5 85 28) ∧
    word 0x5A2AB302 = .ok (.gset 85 51 2) ∧
    word 0x5C000009 = .ok (.win 9) ∧
    word 0x5F6A80A3 = .ok (.ldspill 5 85 0xa3) ∧
    word 0x616A80A3 = .ok (.stspill 5 85 0xa3) ∧
    word 0x636AB393 = .ok (.cvt false 5 85 51 0x93) ∧
    word 0x656AB3A3 = .ok (.lshupi 5 85 51 0xa3) ∧
    word 0x676AB3A3 = .ok (.lshdni 5 85 51 0xa3) ∧
    word 0x696AB319 = .ok (.shflxori 5 85 51 25) ∧
    word 0x6B6AB3A3 = .ok (.imuli false 5 85 51 0xa3) := by
  and_intros <;> rfl

/-- R84: class 100, opcode [28:25], mod [24:23], guard [22:21], d [20:14], a [13:7], b [6:0]. -/
theorem test_decode_C :
    word 0x815559EE = .ok (.ffma false 2 2 85 51 110) ∧
    word 0x835559EE = .ok (.ffmn false 2 2 85 51 110) ∧
    word 0x845559EE = .ok (.imad false 2 85 51 110) ∧
    word 0x865559EE = .ok (.iaddminSs false 2 85 51 110) ∧
    word 0x87D559EE = .ok (.iaddminNn false 2 85 51 110) ∧
    word 0x895559EE = .ok (.hfma2 false 2 2 85 51 110) ∧
    word 0x8B5559EE = .ok (.bfma2 false 2 2 85 51 110) ∧
    word 0x8D5559EE = .ok (.dp4 false 2 2 85 51 110) ∧
    word 0x8F5559EE = .ok (.dp8 false 2 2 85 51 110) ∧
    word 0x905559EE = .ok (.bfi false 2 85 51 110) ∧
    word 0x925559EE = .ok (.iadd3 false 2 85 51 110) ∧
    word 0x945559EE = .ok (.isad false 2 85 51 110) ∧
    word 0x965559EE = .ok (.iadd64 false 2 85 51 110) := by
  and_intros <;> rfl

/-- R85: class 101, opcode [28:25], x [24:22], d [21:15], a [14:8], size [7:5], small [4:0]. -/
theorem test_decode_M :
    word 0xA16AB399 = .ok (.ld false 5 85 51 4 25) ∧
    word 0xA36AB339 = .ok (.lds false 5 85 51 1 25) ∧
    word 0xA56AB399 = .ok (.st false 5 85 51 4 25) ∧
    word 0xA62AB399 = .ok (.sld false 85 51 4 25) ∧
    word 0xA82AB339 = .ok (.slds false 85 51 1 25) ∧
    word 0xAA2AB399 = .ok (.sst false 85 51 4 25) ∧
    word 0xAD6AB362 = .ok (.ldts 5 85 51 3 2) ∧
    word 0xAF6AB36C = .ok (.cpy 5 85 51 3 1 2) ∧
    word 0xB16AB371 = .ok (.atom 5 85 51 1 8 1) ∧
    word 0xB36AB36B = .ok (.red 5 85 51 1 5 1) ∧
    word 0xB42AB370 = .ok (.satom 85 51 1 8) ∧
    word 0xB7405599 = .ok (.pref 5 85 4 25) ∧
    word 0xB96AB382 = .ok (.lda false 5 85 51 4 2) ∧
    word 0xBB6AB382 = .ok (.strel false 5 85 51 4 2) := by
  and_intros <;> rfl

/-- R86: class 110, opcode [28:23], then the fields of its row. -/
theorem test_decode_S_1 :
    word 0xC05566AD = .ok (.bar 85 51 2 45) ∧
    word 0xC0D566AD = .ok (.bararr 85 51 2 45) ∧
    word 0xC100AA2D = .ok (.barwait 85 45) ∧
    word 0xC1800002 = .ok (.fence 2) ∧
    word 0xC20002A3 = .ok (.qfence 2 0xa3) ∧
    word 0xC280B3C5 = .ok (.pause 0xb3c5) ∧
    word 0xC35A345B = .ok (.yield 0x5a3 1 91) ∧
    word 0xC3D56601 = .ok (.xlat 85 51 1) ∧
    word 0xC4556601 = .ok (.gath 85 51 1) ∧
    word 0xC4D5660B = .ok (.scat 85 51 2 1 1) ∧
    word 0xC5556600 = .ok (.mcast 85 51) ∧
    word 0xC580AA00 = .ok (.mgang 85) ∧
    word 0xC655660D = .ok (.mma 85 51 1 5) ∧
    word 0xC6D50025 = .ok (.mdrain 85 4 5) ∧
    word 0xC700AAED = .ok (.mstore 85 1 1 2 1 5) ∧
    word 0xC7800005 = .ok (.mzero 0 5) ∧
    word 0xC8550000 = .ok (.mfence 85) ∧
    word 0xC8800009 = .ok (.mwait 9) ∧
    word 0xC9000000 = .ok (.ntake) ∧
    word 0xC9800000 = .ok (.npass) ∧
    word 0xCA00AA33 = .ok (.pass 85 51) ∧
    word 0xCA80AA00 = .ok (.seal 85) ∧
    word 0xCB00AAB3 = .ok (.vread 85 1 51) ∧
    word 0xCB80AAB3 = .ok (.vwait 85 1 51) ∧
    word 0xCC00AA33 = .ok (.vdone 85 51) ∧
    word 0xCCD566EE = .ok (.post 85 51 1 110) ∧
    word 0xCD556600 = .ok (.reply 85 51) ∧
    word 0xCD800000 = .ok (.cdone) ∧
    word 0xCE5566EE = .ok (.enq 85 51 1 110) ∧
    word 0xCE80AA01 = .ok (.signal 85 1) ∧
    word 0xCF550033 = .ok (.launch 85 51) ∧
    word 0xCF80AA33 = .ok (.lwait 85 51) := by
  and_intros <;> rfl

/-- R86: class 110, opcode [28:23], then the fields of its row. -/
theorem test_decode_S_2 :
    word 0xD000AA00 = .ok (.ldone 85) ∧
    word 0xD080AA00 = .ok (.lhint 85) ∧
    word 0xD1550033 = .ok (.enrd 85 51) ∧
    word 0xD1800000 = .ok (.commit) ∧
    word 0xD2000000 = .ok (.tokpass) ∧
    word 0xD2800000 = .ok (.join) ∧
    word 0xD3000001 = .ok (.ret 1) ∧
    word 0xD380AA00 = .ok (.jmpi 85) ∧
    word 0xD4000000 = .ok (.exit) ∧
    word 0xD4DA3C71 = .ok (.trap 0x5a3c71) ∧
    word 0xD55A3C71 = .ok (.sys 0x5a3c71) ∧
    word 0xD5800002 = .ok (.tret 2) ∧
    word 0xD65A3C71 = .ok (.bkpt 0x5a3c71) ∧
    word 0xD6D56603 = .ok (.pmap 85 51 1 1) ∧
    word 0xD70000AA = .ok (.tlbiDrain 85) ∧
    word 0xD7000001 = .ok (.tlbiConfirm) := by
  and_intros <;> rfl

/-- R87: class 111, sub-opcode [28:26], then the fields of its row. -/
theorem test_decode_J :
    word 0xE2DA3C71 = .ok (.bra false 5 0x5a3c71) ∧
    word 0xE6DA3C71 = .ok (.call false 5 0x5a3c71) ∧
    word 0xE85A3C71 = .ok (.mark 0x5a3c71) ∧
    word 0xEE800000 = .ok (.brk 5) ∧
    word 0xF680B3C5 = .ok (.tramp 5 0xb3c5) ∧
    word 0xFAC5A3F1 = .ok (.probe 0x2c5a3f1) := by
  and_intros <;> rfl

/-- R88: 111, 100, op [25:22], d [21:15], a [14:8], mod 0; the literal is the next slot. -/
theorem test_decode_L :
    word 0xF02A8000 = .ok (.movl false 85 0x89ABCDEF) ∧
    word 0xF06AB300 = .ok (.iaddl false 85 51 0x89ABCDEF) ∧
    word 0xF0AAB300 = .ok (.andl false 85 51 0x89ABCDEF) ∧
    word 0xF0EAB300 = .ok (.orl false 85 51 0x89ABCDEF) ∧
    word 0xF12AB300 = .ok (.xorl false 85 51 0x89ABCDEF) ∧
    word 0xF16AB300 = .ok (.imull false 85 51 0x89ABCDEF) ∧
    word 0xF1AAB300 = .ok (.icmpeql false 85 51 0x89ABCDEF) ∧
    word 0xF1EAB300 = .ok (.icmpltl false 85 51 0x89ABCDEF) ∧
    word 0xF22AB300 = .ok (.faddl false 85 51 0x89ABCDEF) ∧
    word 0xF26AB300 = .ok (.fmull false 85 51 0x89ABCDEF) ∧
    word 0xF2AAB300 = .ok (.ffmal false 85 51 0x89ABCDEF) ∧
    word 0xF2EAB300 = .ok (.fcmpltl false 85 51 0x89ABCDEF) := by
  and_intros <;> rfl
/-- The encodings the manual works out (07 R88, R93; 11 R129-R147; 15 R202-R223; 17 R230-R242). -/
theorem test_decode_manual_examples :
    word 0x4E0082FF = .ok (.icmpeqi false 0 1 2 0xFF) ∧
    word 0x96018270 = .ok (.iadd64 false 0 6 4 112) ∧
    word 0x8602858C = .ok (.iaddminSs false 0 10 11 12) ∧
    word 0x8782858C = .ok (.iaddminNn false 0 10 11 12) ∧
    word 0x8C824205 = .ok (.dp4 false 1 0 9 4 5) ∧
    word 0x8200C082 = .ok (.ffmn false 0 0 3 1 2) ∧
    word 0x3E0F0080 = .ok (.psave false 0 60 1) ∧
    word 0x3F005E00 = .ok (.pload false 0 1 60) ∧
    word 0x17210286 = .ok (.sel false 1 4 5 6) ∧
    word 0x62010128 = .ok (.cvt false 0 2 1 0x28) ∧
    word 0xF2840200 = .ok (.ffmal false 8 2 0x89ABCDEF) ∧
    word 0xF0418300 = .ok (.iaddl false 3 3 0x89ABCDEF) ∧
    word 0xC381E400 = .ok (.xlat 1 114 0) ∧
    word 0xC381E401 = .ok (.xlat 1 114 1) ∧
    word 0xAE840982 = .ok (.cpy 2 8 9 4 0 1) ∧
    word 0xAC440482 = .ok (.ldts 1 8 4 4 2) ∧
    word 0xC479E000 = .ok (.gath 121 112 0) ∧
    word 0xC4F9E002 = .ok (.scat 121 112 0 1 0) ∧
    word 0xC0020685 = .ok (.bar 2 3 2 5) ∧
    word 0xC084FE05 = .ok (.bararr 4 127 0 5) ∧
    word 0xC1000805 = .ok (.barwait 4 5) ∧
    word 0xC2000121 = .ok (.qfence 1 0x21) ∧
    word 0xC2800028 = .ok (.pause 40) ∧
    word 0xC37FD001 = .ok (.yield 0x7FD 0 1) ∧
    word 0xC580E800 = .ok (.mgang 116) ∧
    word 0xC690001A = .ok (.mdrain 16 3 2) ∧
    word 0xC700E809 = .ok (.mstore 116 0 0 0 1 1) ∧
    word 0xC700E850 = .ok (.mstore 116 0 1 1 0 0) ∧
    word 0xC8750000 = .ok (.mfence 117) ∧
    word 0xC8800003 = .ok (.mwait 3) := by
  and_intros <;> rfl

/-- 07 R79, R82-R88, R94: what is no instruction, by the check it fails. -/
theorem test_decode_rejects :
    decodeWord true false 0x30000000 0 = .error .uniformForbidden ∧
    word 0x00000001 = .error .mustBeZero ∧
    word 0x01000001 = .error .mustBeZero ∧
    word 0x6C000000 = .error .reservedOpcode ∧
    word 0x56000020 = .error .reservedSpecialRegister ∧
    word 0x62000017 = .error .reservedConversion ∧
    word 0x620000A0 = .error .reservedConversion ∧
    word 0x62000022 = .error .reservedConversion ∧
    word 0x86800000 = .error .reservedMod ∧
    word 0x98000000 = .error .reservedOpcode ∧
    word 0xA00000A0 = .error .reservedSize ∧
    word 0xAC000020 = .error .reservedSize ∧
    word 0xB0000052 = .error .reservedField ∧
    word 0xC3000C00 = .error .reservedField ∧
    word 0xC48001FF = .error .mustBeZero ∧
    word 0xD5800003 = .error .reservedField ∧
    word 0xE8800000 = .error .mustBeZero ∧
    word 0xFC000000 = .error .reservedOpcode ∧
    word 0xF3000000 = .error .reservedOpcode ∧
    decodeWord false true 0xF0028000 0 = .error .lFormInSlot7 := by
  and_intros <;> rfl

/-- A word of every format in its uniform form. -/
theorem test_decode_uniform :
    decodeWord true false 0x02B559EE 0 = .ok (.iadd true 5 85 51 110) ∧
    decodeWord true false 0x4E0082FF 0 = .ok (.icmpeqi true 0 1 2 0xFF) ∧
    decodeWord true false 0x96018270 0 = .ok (.iadd64 true 0 6 4 112) ∧
    decodeWord true false 0xA16AB399 0 = .ok (.ld true 5 85 51 4 25) ∧
    decodeWord true false 0xE1000005 0 = .ok (.bra true 2 5) ∧
    decodeWord true false 0xF0418300 7 = .ok (.iaddl true 3 3 7) ∧
    decodeWord true false 0xC8800003 0 = .error .uniformForbidden := by
  and_intros <;> rfl

/-! Well-formedness: an ill-formed term for each check, which it refuses. -/

theorem test_illFormed_refused :
    Instr.wellFormed (.psave true 0 1 1) = false ∧ Instr.wellFormed (.pload true 0 1 1) = false ∧
    Instr.wellFormed (.cvt false 0 1 1 0x17) = false ∧ Instr.wellFormed (.cvt false 0 1 1 0xA0) = false ∧
    Instr.wellFormed (.cvt false 0 1 1 0x22) = false ∧
    Instr.wellFormed (.ld false 0 1 1 5 0) = false ∧ Instr.wellFormed (.st false 0 1 1 5 0) = false ∧
    Instr.wellFormed (.sld false 1 1 5 0) = false ∧ Instr.wellFormed (.sst false 1 1 5 0) = false ∧
    Instr.wellFormed (.ldts 0 1 1 1 0) = false ∧ Instr.wellFormed (.ldts 0 1 1 5 0) = false ∧
    Instr.wellFormed (.cpy 0 1 1 1 0 0) = false ∧ Instr.wellFormed (.cpy 0 1 1 5 0 0) = false ∧
    Instr.wellFormed (.cpy 1 1 1 2 2 0) = false ∧
    Instr.wellFormed (.atom 0 1 1 0 9 0) = false ∧ Instr.wellFormed (.red 0 1 1 0 9 0) = false ∧
    Instr.wellFormed (.red 0 1 1 0 7 0) = false ∧ Instr.wellFormed (.satom 1 1 0 9) = false ∧
    Instr.wellFormed (.pref 0 1 5 0) = false ∧ Instr.wellFormed (.lda false 0 1 1 5 0) = false ∧
    Instr.wellFormed (.strel false 0 1 1 5 0) = false ∧
    Instr.wellFormed (.yield 0 0 4) = false ∧ Instr.wellFormed (.yield 0 1 128) = false ∧
    Instr.wellFormed (.yield 0 2 128) = false ∧ Instr.wellFormed (.yield 0 3 0) = false ∧
    Instr.wellFormed (.scat 1 112 3 1 0) = false ∧ Instr.wellFormed (.scat 1 112 1 0 0) = false ∧
    Instr.wellFormed (.mzero 1 1) = false ∧ Instr.wellFormed (.tret 3) = false ∧
    Instr.wellFormed (.srd false 0 1 0x20) = false ∧ Instr.wellFormed (.swr false 0 1 0x20) = false ∧
    Instr.wellFormed (.post 1 1 0 0) = false ∧ Instr.wellFormed (.enq 1 1 0 0) = false := by decide

theorem test_wellFormed_accepted :
    Instr.wellFormed (.psave true 0 1 0) = true ∧ Instr.wellFormed (.cvt false 0 1 1 0x82) = true ∧
    Instr.wellFormed (.ld false 0 1 1 4 0) = true ∧ Instr.wellFormed (.ldts 0 1 1 2 0) = true ∧
    Instr.wellFormed (.cpy 1 1 1 2 3 0) = true ∧ Instr.wellFormed (.atom 0 1 1 0 8 0) = true ∧
    Instr.wellFormed (.red 0 1 1 0 8 0) = true ∧ Instr.wellFormed (.yield 0 0 3) = true ∧
    Instr.wellFormed (.yield 0 2 127) = true ∧ Instr.wellFormed (.scat 1 112 2 1 0) = true ∧
    Instr.wellFormed (.mzero 0 7) = true ∧ Instr.wellFormed (.srd false 0 1 0x1F) = true ∧
    Instr.wellFormed (.post 1 1 1 0) = true ∧ Instr.wellFormed (.enq 0 1 0 0) = true := by decide

/-! One step: results the manual works out. -/

/-- A group that may run, all its lanes in the mask, in a machine with nothing else. -/
def grp0 : Group := { id := 1, live := true, active := true, exec := allLanes, alloc := 32, pc := 0x30004 }

/-- That machine with its group changed. -/
def mach (f : Group → Group) : State := { grp := f grp0, nextGid := 2 }

/-- A register with one word in every lane. -/
def vec (w : Word) : LaneVec := lanes fun _ => w

/-- The group after an instruction; an empty one where there is no next state. -/
def after (i : Instr) (s : State) : Group :=
  match exec i s with | .next t => t.grp | _ => {}

/-- Register d, lane 31, after an instruction with these words in v1, v2 and v3. -/
def lane31 (i : Instr) (a b c : Word) (d : Nat) : Word :=
  ((after i (mach fun g => ((g.setV 1 (vec a)).setV 2 (vec b)).setV 3 (vec c))).vreg d).lane 31

/-- 11 R127: IMULHI and IMULHIU of 0x80000000 with itself and with 0xFFFFFFFF. -/
theorem test_multiply_high :
    lane31 (.imulhi false 0 3 1 2) 0x80000000 0x80000000 0 3 = 0x40000000 ∧
    lane31 (.imulhiu false 0 3 1 2) 0x80000000 0x80000000 0 3 = 0x40000000 ∧
    lane31 (.imulhi false 0 3 1 2) 0x80000000 0xFFFFFFFF 0 3 = 0 ∧
    lane31 (.imulhiu false 0 3 1 2) 0x80000000 0xFFFFFFFF 0 3 = 0x7FFFFFFF := by decide +kernel

/-- 11 R128: BFES and BFEU of 0xF000 at position 12, width 4; a shift by 32 or more. -/
theorem test_fields_and_shifts :
    lane31 (.bfes false 0 3 1 2) 0x0000F000 0x0000040C 0 3 = 0xFFFFFFFF ∧
    lane31 (.bfeu false 0 3 1 2) 0x0000F000 0x0000040C 0 3 = 0x0000000F ∧
    lane31 (.shl false 0 3 1 2) 1 32 7 3 = 0 ∧
    lane31 (.sar false 0 3 1 2) 0x80000000 0xFFFFFFFF 7 3 = 0xFFFFFFFF := by decide +kernel

/-- 11 R132: DP4.SN of the manual's words; R131: a sum that saturates and does not wrap. -/
theorem test_dp4_and_addmin :
    lane31 (.dp4 false 1 0 3 1 2) 0x80FF0102 0xFF010304 0 3 = 0xFFFF808A ∧
    lane31 (.iaddminSs false 0 3 1 2) 0x7FFFFFFF 1 0x7FFFFFFE 3 = 0x7FFFFFFE ∧
    lane31 (.iaddminNn false 0 3 1 2) 0xFFFFFFFF 2 0xFFFFFFFF 3 = 0xFFFFFFFF := by decide +kernel

/-- 06 (R61): FMUL of 2^-126 by 0.5 keeps its subnormal result; 11 R133: FMIN takes the number beside a NaN, and −0 below 0. -/
theorem test_float :
    lane31 (.fmul false 0 3 1 2) 0x00800000 0x3F000000 0 3 = 0x00400000 ∧
    lane31 (.fmin false 0 3 1 2) 0x7FC00000 0x3F800000 0 3 = 0x3F800000 ∧
    lane31 (.fmin false 0 3 1 2) 0 0x80000000 0 3 = 0x80000000 ∧
    lane31 (.cvt false 0 3 1 0x28) 0xC0600000 0 0 3 = 0xFFFFFFFD := by decide +kernel

/-- 11 R130: IADD64 v6, v4, s0 of the manual's words. -/
theorem test_iadd64 :
    let g := after (.iadd64 false 0 6 4 112) (mach fun g => ((g.setV 4 (vec 0xFFFFFFF0)).setV 5 (vec 1)).setS 0 0x20)
    (g.vreg 6).lane 0 = 0x10 ∧ (g.vreg 7).lane 31 = 2 := by decide +kernel

/-- 05 R45, R46: with ALLOC 80 and WINBASE 3, v10 is register 58, v40 traps (0x09), and WIN 5 takes the window trap (0x0A). -/
theorem test_window :
    let s := mach fun g => { g with alloc := 80, winbase := 3, v := [(58, vec 7)] }
    ((after (.mov false 0 0 10) s).vreg 48).lane 3 = 7 ∧
    (after (.mov false 0 0 40) (mach fun g => { g with alloc := 80, winbase := 3, utv := 0x2000 })).trap.cause = 0x09 * 2 ^ 26 ∧
    (after (.win 5) (mach fun g => { g with alloc := 80, winbase := 3, utv := 0x2000 })).trap.cause = 0x0A * 2 ^ 26 ∧
    (after (.win 5) (mach fun g => { g with alloc := 80, winbase := 3, utv := 0x2000 })).winbase = 3 := by decide +kernel

/-- 25 R316, R317: TRAP 5 goes to 32·UTV + 4 at user level; TRET 1 goes on at the next slot with the mask back. -/
theorem test_trap_and_return :
    let s := mach fun g => { g with utv := 0x2000, exec := 0xF0 }
    let t := after (.trap 5) s
    t.pc = 0x40004 ∧ t.level = .user ∧ t.trap.cause = 0x08000005 ∧ t.trap.mask = 0xF0 ∧ t.user.spc = 0x30004 ∧
    (after (.tret 1) { s with grp := t }).pc = 0x30008 ∧ (after (.tret 1) { s with grp := t }).exec = 0xF0 ∧
    (after (.tret 1) { s with grp := t }).level = .program := by decide +kernel

/-- 11 R155, R157, R158: MARK pushes REJOIN, a branch taken by half the lanes pushes their path, JOIN takes it up. -/
theorem test_divergence :
    let s := mach fun g => { g with gs := [(1, 5)], p := [(5, 0x0000FFFF)] }
    let m := after (.mark 6) s
    let b := after (.bra false 1 10) { s with grp := m }
    let j := after .join { s with grp := b }
    m.stack = [⟨false, 0x3001C, allLanes⟩] ∧ b.exec = 0xFFFF0000 ∧ b.pc = 0x3000C ∧
    b.stack = [⟨true, 0x30030, 0x0000FFFF⟩, ⟨false, 0x3001C, allLanes⟩] ∧ j.exec = 0x0000FFFF ∧ j.pc = 0x30030 := by decide +kernel

/-- 07 R72, R88, R142: a step runs MOVL with its literal, which is the next slot, and goes on after it. -/
theorem test_step_movl :
    (match step (State.reset.withFetchWord 64 0x3F800000F0028000) with
     | .next t => decide ((t.grp.vreg 5).lane 31 = 0x3F800000 ∧ t.grp.pc = 0x3000C ∧ t.clock = 1)
     | _ => false) = true := by decide +kernel

/-- 15 R203: lanes 2 and 9 add 1 to a word that holds 5: lane 2 gets 5 and lane 9 gets 6. -/
theorem test_atomic_order :
    let s := State.reset.withFetchWord 32 0
    let s := { s with mem := putBytes s.mem 0x40000 [5], grp := { s.grp with exec := 0x204, v := [(4, vec 0x40000), (6, vec 1)] } }
    let g := after (.atom 0 6 4 0 0 0) s
    (g.vreg 6).lane 2 = 5 ∧ (g.vreg 6).lane 9 = 6 ∧ (g.vreg 6).lane 3 = 1 := by decide +kernel

/-- 13 R185, 15 R198: a store is queued, a later load of the group sees it, and it reaches memory when it is performed. -/
theorem test_store_load :
    let s := State.reset.withFetchWord 32 0
    let s := { s with grp := { s.grp with exec := 2, v := [(4, vec 0x40000), (6, vec 0xA1B2C3D4)] } }
    (match exec (.st false 0 6 4 2 0) s with
     | .next t => (match exec (.ld false 0 7 4 2 0) t with
        | .next u => (match exec (.loadReturn 1 0) u, exec (.storePerformed 1) t with
          | .next w, .next m => decide ((w.grp.vreg 7).lane 1 = 0xA1B2C3D4 ∧ (w.grp.vreg 7).lane 2 = 0 ∧ t.byte 0x40000 = 0 ∧
              m.byte 0x40000 = 0xD4 ∧ m.byte 0x40003 = 0xA1)
          | _, _ => false)
        | _ => false)
     | _ => false) = true := by decide +kernel

/-- 01 R21: PWRLIM written 0x0C4E reads 0x0AF0, and written 0x05E6 reads 0x05DC. -/
theorem test_pwrlim :
    (match exec (.pwrlimWrite 0 0x0C4E) {}, exec (.pwrlimWrite 0 0x05E6) {} with
     | .next s, .next t => decide (s.pwrlim = 0x0AF0 ∧ t.pwrlim = 0x05DC)
     | _, _ => false) = true := by decide +kernel

/-! The tools on the host: the manual's own examples. -/

/-- 10: the instructions of the kernel bump, its literals not yet known. -/
def bumpText : List TextItem :=
  [.instr { i := .movl false 4 0, labelled := true }, .instr { i := .movl false 5 0 }, .instr { i := .ld false 0 6 4 2 0 },
   .instr { i := .iaddi false 0 6 6 1 }, .instr { i := .st false 0 6 4 2 0 }, .instr { i := .exit }]

/-- 10: the words of its listing: counts of 1 in slots 3 and 6, an L-form in slots 1 and 2, a second frame filled with NOPs. -/
theorem test_assemble_bump : assemble bumpText =
    some ([0x00804000, 0xF0020000, 0, 0xF0028000, 0, 0xA0030440, 0x40030601, 0xA4030440,
      0x00000000, 0xD4000000, 0, 0, 0, 0, 0, 0], false) := by decide +kernel

/-- The words of a packed text, and whether a given count is too small. -/
def packed (l : List TextItem) : List Word × Bool := (assemble l).getD ([], false)

/-- R106: an L-form that would fall in slot 7 moves on, and a literal frame has its header; R106: the NOPs that complete a
frame have count 0; R105: a count given too small. -/
theorem test_pack_frames :
    (packed (List.replicate 6 (.instr { i := .nop false }) ++ [.instr { i := .movl false 4 9 }])).1 =
      [0, 0, 0, 0, 0, 0, 0, 0, 0x00000100, 0xF0020000, 9, 0, 0, 0, 0, 0] ∧
    (packed [.instr { i := .fadd false 0 4 4 5 }, .align 32, .instr { i := .exit }]).1 =
      [0, 0x18010205, 0, 0, 0, 0, 0, 0, 0, 0xD4000000, 0, 0, 0, 0, 0, 0] ∧
    (packed [.instr { i := .exit }, .literal [5]]).1 = [0, 0xD4000000, 0, 0, 0, 0, 0, 0, 0x20000000, 5, 0, 0, 0, 0, 0, 0] ∧
    (packed [.instr { i := .fadd false 0 4 4 5, given := some 1 }, .instr { i := .iadd false 0 8 8 9 },
      .instr { i := .fmul false 0 10 4 6 }]).2 = false ∧
    (packed [.instr { i := .fadd false 0 4 4 5, given := some 1 }, .instr { i := .fmul false 0 10 4 6 }]).2 = true := by
  decide +kernel

/-- 10: the object of bump: .text, .data with tbl, and two LIT32 entries. -/
def bumpObject : Gof :=
  { sections := [{}, { kind := .text, align := 5, size := 64, bytes := (packed bumpText).1.flatMap fun w => toBytes 4 w.toNat },
      { kind := .data, align := 6, size := 8, bytes := toBytes 8 0x0000000700000005 }]
    symbols := [{}, { name := [0x62], kind := .kernel, isGlobal := true, place := .within 1, value := 4 },
      { name := [0x74], kind := .data, place := .within 2 }]
    relocs := [{ section_ := 1, kind := .lit32 false, symbol := 2, offset := 8, addend := 0 },
      { section_ := 1, kind := .lit32 true, symbol := 2, offset := 16, addend := 0 }]
    kernels := [{ name := [0x62], entry := 1, roles := [0x101, 0, 0, 0] }] }

/-- The words at an offset of a linked section. -/
def sectionWord (o : Except LinkError Gof) (n off : Nat) : Nat :=
  match o with | .ok o => (o.sections[n]?.map fun s => fileNum s.bytes off 4).getD 0 | .error _ => 0

/-- 10: linked from base 0x1000, tbl lies at 0x1040, which the first literal holds. -/
theorem test_link_bump :
    sectionWord (link [bumpObject] 0x1000) 1 8 = 0x1040 ∧ sectionWord (link [bumpObject] 0x1000) 1 16 = 0 ∧
    sectionWord (link [bumpObject] 0x1000) 2 4 = 7 := by decide +kernel

/-- 10: displaced by 0x10_0000, only the first literal changes. -/
theorem test_load_bump :
    (match link [bumpObject] 0x1000 with
      | .ok o => match o.load 0x100000 2 with
        | .ok ((a, bs) :: _) => (a, fileNum bs 8 4, fileNum bs 16 4, fileNum bs 0 4)
        | _ => (0, 0, 0, 0)
      | .error _ => (0, 0, 0, 0)) = (0x101000, 0x101040, 0, 0x804000) := by decide +kernel

/-- R122, R123: the branch words of the manual: BRA at 0x1014 to 0x1044, CALL at 0x2008 to 0x1024. -/
theorem test_branch_words :
    ({} : Gof).patch 0 false { section_ := 1, kind := .woff23, symbol := 1, offset := 0, addend := 0 } 0x1044 0x1014 0xE0000000 =
      some (4, 0xE000000C) ∧
    ({} : Gof).patch 0 false { section_ := 1, kind := .woff23, symbol := 1, offset := 0, addend := 0 } 0x1024 0x2008 0xE4000000 =
      some (4, 0xE47FFC07) := by decide +kernel

/-- 10: the second LIT32 entry of bump, from its bytes. -/
theorem test_reloc_entry :
    relocOf (0x10 * 2 ^ 64 + 2 * 2 ^ 32 + 0x00110001) =
      some { section_ := 1, kind := .lit32 true, symbol := 2, offset := 16, addend := 0 } := by decide +kernel

/-- R101: the U bits and fields of the manual's table; R98: 0.5 as FP32, and an expression. -/
theorem test_operands :
    asmUniform false [.v 3, .v 1, .s 2] = false ∧ AsmReg.regField false false (.s 2) = some 114 ∧
    asmUniform false [.s 3, .s 1, .s 2] = true ∧ AsmReg.regField false false (.s 20) = none ∧
    asmUniform false [.s 3, .v 1, .s 2] = false ∧ AsmReg.regField false true (.s 3) = none ∧
    asmUniform false [.q 4, .s 1, .s 2] = true ∧ decimalBits fp32 false 5 (-1) = 0x3F000000 ∧
    AsmExpr.eval (fun _ => some 0x200400100) 0 (.op .div (.neg (.int 7)) (.int 2)) = some (-3) ∧
    AsmExpr.eval (fun _ => some 0x200400100) 0 (.hi32 (.symbol [])) = some 2 := by decide +kernel

/-- 10: MOVL of a literal, as the assembler reads it. -/
def movlLine (d : Nat) (e : AsmExpr) : AsmStmt :=
  .instr { base := 0xF0000000, operands := [(15, 7, .reg (.v d) true)] } (some (.literal e)) none

/-- 10: the source of bump. -/
def bumpSource : List AsmStmt :=
  [.section_ .data (nameBytes ".data"), .align (.int 64), .label (nameBytes "tbl"), .data 4 [.value (.int 5), .value (.int 7)],
   .section_ .text (nameBytes ".text"), .kernel (nameBytes "bump"), .role (.int 0) (.int 1), .regs (.int 16),
   movlLine 4 (.lo32 (.symbol (nameBytes "tbl"))), movlLine 5 (.hi32 (.symbol (nameBytes "tbl"))),
   .instr { base := 0xA0000040, operands := [(15, 7, .reg (.v 6) true), (8, 7, .reg (.v 4) false), (22, 3, .xreg (.x 0)),
     (0, 5, .offset (.int 0) 4)] } none none,
   .instr { base := 0x40000000, operands := [(15, 7, .reg (.v 6) true), (8, 7, .reg (.v 6) false), (0, 8, .number true (.int 1))] } none none,
   .instr { base := 0xA4000040, operands := [(15, 7, .reg (.v 6) false), (8, 7, .reg (.v 4) false), (22, 3, .xreg (.x 0)),
     (0, 5, .offset (.int 0) 4)] } none none,
   .instr { base := 0xD4000000 } none none, .endKernel]

/-- 10: what gyas makes of it: .text as above, .data with 5 and 7, and the two LIT32 entries. -/
theorem test_gyas_bump :
    (match gyas bumpSource with
     | some (o, w) => decide (w = false ∧ o.relocs.map (fun r => (r.kind, r.offset)) = [(.lit32 false, 8), (.lit32 true, 16)] ∧
         (o.sections.map fun s => (s.size, (List.range 3).map fun i => fileNum s.bytes (4 * i) 4)) =
           [(0, [0, 0, 0]), (64, [0x00804000, 0xF0020000, 0]), (8, [5, 7, 0])])
     | none => false) = true := by decide +kernel

/-- R110: two invocations of a macro, each with its own number; an invocation with one argument too many. -/
theorem test_macros :
    let text := fun (s : String) => s.toList.map asciiByte
    expandSource [] (text ".macro m, a\nx%seq: nop %a\n.endmacro\nm v4\ny: m (s0,1)") =
      some [text "x0: nop v4", text "y:", text "x1: nop (s0,1)"] ∧
    expandSource [] (text ".macro m, a\nnop %a\n.endmacro\nm v4, v5") = none := by decide +kernel

/-- R100, R101: (g1) IADD s3, s1, s2 has U = 1 and its guard; (g1) on an M word is rejected; R103: an entry's range. -/
theorem test_guarded_word :
    let s := fun (n : Nat) (d : Bool) => AsmOperand.reg (.s n) d
    let iadd : AsmWord := { base := 0x02000000, guard := some (.g 1), operands := [(14, 7, s 3 true), (7, 7, s 1 false), (0, 7, s 2 false)] }
    iadd.instr = some (.iadd true 1 3 1 2) ∧
    ({ iadd with base := 0xA0000000 } : AsmWord).instr = none ∧ ({ iadd with guard := none } : AsmWord).instr = some (.iadd true 0 3 1 2) := by
  decide +kernel

/-- 10: the source of bump as it is written, up to its pointer, with its macro. -/
def bumpLines : String :=
  "  .macro ADDR64, rlo, rhi, sym\n  MOVL %rlo, lo32(%sym)\n  MOVL %rhi, hi32(%sym)\n  .endmacro\n  .data\n" ++
  "tbl: .word 5, 7\n  .text\n  .kernel bump\n  .regs 16\n  ADDR64 v4, v5, tbl // flat pointer\n  .endkernel\n"

/-- 10: it reads as source text, and its pointer assembles as the manual has it. -/
theorem test_gyas_text : (gyasText (nameBytes bumpLines)).map (fun g => g.1.sections.map fun s =>
      (List.range 5).map fun i => fileNum s.bytes (4 * i) 4) =
    some [[0, 0, 0, 0, 0], [0x00004000, 0xF0020000, 0, 0xF0028000, 0], [5, 7, 0, 0, 0]] := by decide +kernel

/-- The instruction that a line of source holds. -/
def readWord (line : String) : Option Instr :=
  (readInstr (nameBytes line)).bind fun x => match x with | .instr w _ _ => w.instr | _ => none

/-- R98-R102: lines of the manual, and lines that gyas refuses. -/
theorem test_read_lines :
    readWord "(g1) FFMA v9, v4, v14" = some (.ffma false 0 1 9 4 14) ∧ readWord "GSET g2, !q4" = some (.gset 2 4 3) ∧
    readWord "IADD s3, s1, s2" = some (.iadd true 0 3 1 2) ∧ readWord "JMPI v20" = none ∧
    readWord "FFMA.RNS v9, v4, v14" = none ∧ readWord "MDRAIN v100, acc0, 0" = none := by decide +kernel

/-! Witnesses: for each obligation, a state and operands that meet the hypotheses of each of its clauses. -/

/-- A machine that maps the lowest GiB, its group's word in slot 1 of the frame at 0x30000, and that frame fetched. -/
def framed (w : Nat) (f : Group → Group) : State :=
  let s := State.reset.withFetchWord 64 w
  { s with grp := f { s.grp with frame := some (0x30000, toWords 8 (w * 2 ^ 32)) } }

/-- That machine with a team of 4 KiB of scratchpad and a launch of descriptor d. -/
def world (d : Nat) (f : Group → Group) : State :=
  let s := framed 0 f
  { s with
    grp := { s.grp with team := 1, launch := some 1 }
    teams := [{ id := 1, launch := some 1, vd := 0, teamid := 0, core := 0, alloc := 4096, banks := 1, groups := 1 }]
    launches := [{ id := 1, seqno := 1, vd := 0, desc := d }] }

theorem wit_DecodeThenEncode :
    decodeWord false false 0x02B559EE#32 0 = .ok (.iadd false 5 85 51 110) ∧
    decodeWord true false 0xF0028000#32 0x3F800000#32 = .ok (.movl true 5 0x3F800000) := by
  and_intros <;> rfl

theorem wit_EncodeThenDecode :
    Instr.wellFormed (.iadd false 7 127 127 127) = true ∧ (shapeOf (.iadd false 7 127 127 127)).isSome = true ∧
    Instr.wellFormed (.movl true 127 0xFFFFFFFF) = true ∧ (shapeOf (.movl true 127 0xFFFFFFFF)).isSome = true := by decide

theorem wit_StepRunsTheDecodedInstruction :
    (let s := framed 0x02B55983 id
     let sl := s.grp.slotAt
     s.agenda = [.issue s.grp.id] ∧ s.mayIssue s.grp false = true ∧ s.grp.hasFrame = true ∧ s.grp.retry = none ∧
     (s.grp.launch.bind s.launch).bind (fun x => x.diverged) = none ∧
     decodeWord sl.u (sl.n = 7) sl.word sl.next = .ok (.iadd false 5 85 51 3) ∧ s.grp.exec ≠ 0 ∧
     ∃ sh, shapeOf (.iadd false 5 85 51 3) = some sh ∧
      s.grp.conflict ((s.sizedShape (.iadd false 5 85 51 3) sh).reads s.grp ++
        (s.sizedShape (.iadd false 5 85 51 3) sh).writes s.grp) = false ∧
      s.grp.shortfalls ((s.sizedShape (.iadd false 5 85 51 3) sh).reads s.grp) = []) ∧
    (let s : State := { framed 0x02B55983 id with agenda := [] }
     (∀ v ∈ s.vdList, s.commandDue v = false) ∧ s.nextOwn = none ∧ (match s.nextTurn with | some (.issue n) => decide (n = s.grp.id) | _ => false) = true ∧
     s.mayIssue s.grp false = true ∧ (s.noteTie s.grp).tieLost = []) ∧
    (let s : State := { agenda := [.event .reservoirRefill] }
     s.agenda = [.event .reservoirRefill] ∧ shapeOf .reservoirRefill = none) := by
  refine ⟨⟨?_, ?_, ?_, ?_, ?_, ?_, ?_, _, rfl, ?_, ?_⟩, ?_, ?_⟩
  all_goals first | rfl | decide +kernel

theorem wit_WhatIsNoInstructionTraps :
    (let s := framed 0x6C000000 id
     let sl := s.grp.slotAt
     s.agenda = [.issue s.grp.id] ∧ s.mayIssue s.grp false = true ∧ s.grp.hasFrame = true ∧
     (s.grp.launch.bind s.launch).bind (fun x => x.diverged) = none ∧
     decodeWord sl.u (sl.n = 7) sl.word sl.next = .error .reservedOpcode) ∧
    (let s := framed 0 id
     s.grp.live = true ∧ s.grp.saved = false ∧ s.grp.stopped = false ∧ s.grp.wait = none ∧
     s.grp.pc.extractLsb' 0 2 = 0 ∧ s.grp.pc.extractLsb' 0 5 ≠ 0 ∧
     s.translate s.grp.agent s.grp.vd .fetch (frameBase s.grp.pc) = .ok 0x30000 ∧ s.badRange 0x30000 32 = false) ∧
    (framed 0 fun g => { g with pc := 0x30005 }).grp.pc.extractLsb' 0 2 ≠ 0 ∧
    (framed 0 fun g => { g with pc := 0x30020 }).grp.pc.extractLsb' 0 5 = 0 ∧
    (computeOf (.iadd false 0 112 1 2)).isSome = true ∧ (mach id).grp.act 0 ≠ 0 ∧ ¬ goodDest 112 ∧ ¬ goodDest 126 ∧
    goodDest 127 ∧ goodDest 111 ∧ ¬ (mach id).grp.allocated [32, 1, 2] ∧ (mach id).grp.allocated [31, 112, 127] ∧
    (mach fun g => { g with exec := 0 }).grp.act 0 = 0 := by
  refine ⟨⟨?_, ?_, ?_, ?_, ?_⟩, ?_⟩
  all_goals first | rfl | (simp only [goodDest, Group.allocated]; decide +kernel)

theorem wit_MemoryStaysCanonical :
    Memory.wf (framed 0x02B55983 id).mem = true ∧
    (match step (framed 0x02B55983 id) with | .next _ => true | _ => false) = true := by decide +kernel

theorem wit_StacksStayBounded :
    let s := mach fun g => { g with stack := List.replicate 24 ⟨false, 0x30004, allLanes⟩ }
    (∀ g ∈ s.groups, g.stack.length ≤ 24) ∧ (match step s with | .next _ => true | _ => false) = true := by decide +kernel

theorem wit_OnlySupervisorChangesStv :
    (shapeOf (.swr false 0 1 0x14)).isSome = true ∧ (mach id).grp.level ≠ .supervisor ∧
    (match exec (.swr false 0 1 0x14) (mach id) with | .next _ => true | _ => false) = true := by decide +kernel

/-- Program level to either handler, the user handler to the supervisor's, a retry, and the two ways to halt. -/
theorem wit_TrapEntersItsHandler :
    63 < 64 ∧ 2 ^ 26 - 1 < 2 ^ 26 ∧
    (mach fun g => { g with level := .supervisor }).grp.level = .supervisor ∧
    (let g := (mach fun g => { g with utv := 1, stv := 0 }).grp; g.level = .program ∧ 0x1F < 0x20 ∧ g.utv ≠ 0 ∧ g.stv = 0) ∧
    (let g := (mach fun g => { g with level := .user, stv := 1 }).grp; g.level = .user ∧ g.stv ≠ 0 ∧ g.retry = none) ∧
    (let g := (mach fun g => { g with stv := 1, retry := some ⟨1, 3, 0⟩ }).grp
     g.retry = some ⟨1, 3, 0⟩ ∧ g.utv = 0 ∧ g.stv ≠ 0 ∧ g.level = .program) := by decide +kernel

theorem wit_SystemCallsTakeTheirTrap :
    (mach id).debugger = false ∧
    (let s : State := { mach id with debugger := true }; s.debugger = true ∧ s.grp.retry = none ∧ s.grp.live = true) := by
  decide +kernel

/-- A handler that has drained 0x40000 and not confirmed it, while another group's atomic there awaits the host's answer. -/
def awaiting : State :=
  { mach fun g => { g with level := .user, drains := [⟨0x40000, 4096⟩] } with
    others := [{ grp0 with id := 2, drained := true, wait := some (.remote true 4 [⟨1, 0x40010, .phys 0x1000000000000⟩] 0) }] }

theorem wit_TretLeavesTheHandler :
    (mach id).grp.level = .program ∧ (1 : BitVec 2) ≠ 3 ∧
    (let s := mach fun g => { g with level := .user, user := ⟨0x30004, allLanes, 0, .program, false⟩ }
     s.grp.level ≠ .program ∧ s.confirmWaits s.grp.vd s.grp.drains = false ∧ s.confirmOwn.grp.trap.cause.toNat / 2 ^ 26 ≠ 0x27 ∧
     s.confirmOwn.grp.user.smask &&& ~~~s.confirmOwn.grp.retired ≠ 0) ∧
    (let s := mach fun g => { g with level := .supervisor, trap := { cause := 0x9C000000 } }
     s.grp.level ≠ .program ∧ s.confirmWaits s.grp.vd s.grp.drains = false ∧
     s.confirmOwn.grp.trap.cause.toNat / 2 ^ 26 = 0x27) ∧
    awaiting.grp.level ≠ .program ∧ awaiting.confirmWaits awaiting.grp.vd awaiting.grp.drains = true ∧
    (let g := (mach fun g => { g with retired := 1, retry := some ⟨1, 3, 0⟩ }).grp
     g.retry = some ⟨1, 3, 0⟩ ∧ isControl .join = true ∧ (shapeOf .join).isSome = true ∧ (3 : Mask) &&& ~~~g.retired ≠ 0 ∧
     g.pend = [] ∧ g.queues = [] ∧ g.prods = []) := by decide +kernel

theorem wit_TrapThenReturnResumes :
    (let s := mach fun g => { g with utv := 1 }
     s.grp.level = .program ∧ s.grp.utv ≠ 0 ∧ s.grp.retry = none ∧ s.grp.drains = [] ∧ s.grp.long = false ∧
     s.grp.exec &&& ~~~s.grp.retired ≠ 0 ∧
     (match exec (.trap 0) s with
      | .next t => (match exec (.tret 1) t with | .next _ => true | _ => false)
      | _ => false) = true) ∧
    (let s := mach fun g => { g with retry := some ⟨1, 3, 0⟩ }
     (computeOf (.iadd false 0 31 1 127)).isSome = true ∧ s.grp.retry = some ⟨1, 3, 0⟩ ∧ goodDest 31 ∧
     s.grp.allocated [31, 1, 127] ∧ (3 : Mask) &&& ~~~s.grp.retired ≠ 0) := by
  simp only [goodDest, Group.allocated]
  decide +kernel

theorem wit_GroupsHaltResumeAndEnd :
    (let s := world 0 id
     s.grp.kind = .launch ∧ s.grp.launch = some 1 ∧ (s.launch 1).isSome = true ∧ (s.launch 1).bind (fun x => x.diverged) = none) ∧
    (let dead : List StackEntry := [⟨false, 0x30010, 1⟩]
     let g := (mach fun g => { g with retired := 1, hidden := 1
                                      stack := dead ++ [⟨true, 0x30008, 2⟩, ⟨false, 0x30010, 1⟩] }).grp
     (∀ e ∈ dead, e.pending = false ∧ e.mask &&& ~~~g.retired = 0) ∧
     g.stack = dead ++ ⟨true, 0x30008, 2⟩ :: [⟨false, 0x30010, 1⟩] ∧ g.hidden ≤ 1) ∧
    (let g := (mach fun g => { g with retired := 1, stack := [⟨false, 0x30010, 3⟩] }).grp
     g.stack = [] ++ ⟨false, 0x30010, 3⟩ :: [] ∧ (3 : Mask) &&& ~~~g.retired ≠ 0) ∧
    (let g := (mach fun g => { g with retired := 1, hidden := 1, stack := [⟨false, 0x30010, 1⟩, ⟨true, 0x30010, 2⟩] }).grp
     g.stack = [⟨false, 0x30010, 1⟩] ++ [⟨true, 0x30010, 2⟩] ∧ 1 = g.hidden) ∧
    (let s := world 0 id
     s.grp.kind = .launch ∧ (s.launches.all fun x => !dDet x.desc && decide (x.nextTeam < dTeams x.desc)) = true ∧
     ∀ w ∈ s.others, w.wait = none) ∧
    (let s : State := { world 0 id with launches := [{ id := 1, seqno := 1, vd := 0, desc := 2 ^ 128, nextTeam := 1 }] }
     s.grp.kind = .launch ∧ (s.launches.all fun x => !dDet x.desc && x.cut.isNone && x.diverged.isNone &&
       decide (dTeams x.desc ≤ x.nextTeam)) = true ∧ ∀ w ∈ s.others, w.launch = some 1 → w.live = false) := by
  decide +kernel

/-- A group whose guard slot 1 names predicate p5, true in lanes 0 to 15, and slot 2 the uniform predicate q3, true. -/
def guarded (f : Group → Group) : State :=
  mach fun g => f { g with gs := [(1, 5), (2, 0x83)], p := [(5, 0x0000FFFF)], q := 8 }

theorem wit_BranchesTakeTheirPaths :
    (let g := (guarded id).grp
     g.act 1 ≠ 0 ∧ g.exec &&& ~~~g.act 1 ≠ 0 ∧ g.stack.length < 24 ∧
     (g.pc + 4 * (7 : BitVec 23).signExtend 64).toNat % 32 = 0 ∧ (g.pc + 4 * (10 : BitVec 23).signExtend 64).toNat % 32 ≠ 0 ∧
     g.exec &&& ~~~g.act 0 = 0 ∧ g.act 0 ≠ 0 ∧ g.uniGuard 2 = some true ∧ g.uniGuard 1 = none ∧ g.exec ≠ 0) ∧
    (guarded fun g => { g with stack := List.replicate 24 ⟨true, 0x30008, 1⟩ }).grp.stack.length = 24 ∧
    (guarded fun g => { g with exec := 0xFFFF0000 }).grp.act 1 = 0 ∧
    (guarded fun g => { g with q := 0 }).grp.uniGuard 2 = some false := by decide +kernel

theorem wit_PathsJoinBreakAndReturn :
    (mach id).grp.stack.length ≤ (mach id).grp.hidden ∧
    (let g := (guarded fun g => { g with stack := [⟨false, 0x30010, allLanes⟩] }).grp
     g.stack = ⟨false, 0x30010, allLanes⟩ :: [] ∧ g.hidden ≤ 0 ∧ g.act 1 ≠ 0 ∧
     ∃ e ∈ g.stack.take (g.stack.length - g.hidden), e.pending = false) ∧
    (let g := (guarded fun g => { g with hidden := 1, stack := [⟨true, 0x30008, 1⟩, ⟨false, 0x30010, allLanes⟩] }).grp
     g.act 1 ≠ 0 ∧ ∀ e ∈ g.stack.take (g.stack.length - g.hidden), e.pending = true) ∧
    (guarded fun g => { g with exec := 0xFFFF0000 }).grp.act 1 = 0 ∧
    (let g := (mach fun g => (g.setS 126 0x30004).setS 125 0x30020).grp
     let at' := fun n => (g.pc.extractLsb' 32 32 ++ g.uni n : DWord).toNat
     g.hz = {} ∧ at' 126 % 4 = 0 ∧ at' 126 % 32 ≠ 0 ∧ at' 125 % 32 = 0) ∧
    (let g := (mach fun g => (g.setS 4 0x30004).setS 6 0x30006).grp
     let at' := fun n => (g.uni (n + 1) ++ g.uni n : DWord).toNat
     at' 4 % 4 = 0 ∧ at' 4 % 32 ≠ 0 ∧ at' 6 % 4 ≠ 0 ∧ at' 125 % 32 = 0) ∧
    (mach id).grp.level = .program ∧
    (let g := (mach fun g => { g with level := .user, exec := 1, user := ⟨0x30004, allLanes, 0, .program, false⟩ }).grp
     g.level ≠ .program ∧ g.trap.cause.toNat / 2 ^ 26 ≠ 0x27 ∧ g.drains = [] ∧ (mach id).confirmWaits g.vd [] = false ∧
     g.user.smask &&& ~~~(g.retired ||| g.exec) ≠ 0) := by
  decide +kernel

/-- A trampoline table at 0x20000·2 whose entry 0 is good, 1 is not valid and 2 names a frame header. -/
def trampTable : State :=
  let s := framed 0 fun g => { g with trb := 4, gs := [(1, 5)], p := [(5, 0x0000FFFF)] }
  { s with mem := putBytes s.mem 0x40000 (toBytes 16 (2 ^ 64 + 0x30008) ++ toBytes 16 0x30008 ++ toBytes 16 (2 ^ 64 + 0x30020)) }

theorem wit_TrampolinesFollowTheirEntry :
    let s := trampTable.loadsFirst
    let g := s.grp
    let va := fun n => (BitVec.ofNat 64 (65536 * g.trb.toNat + 16 * n) : DWord)
    g.held 0 = false ∧ g.remote = none ∧ s.alias 0x40000 = 0x40000 ∧
    ({ trampTable with grp := { trampTable.grp with
        queues := [(1, [⟨2, .copy [{ src := .scratch 0, dst := .scratch 64, size := 16 }] none⟩])]
        qfences := [{ seq := 3, mask := 5 }] } } : State).loadsFirst.grp.held 0 = true ∧
    (∀ n < 3, s.translate g.agent g.vd .load (va n) = .ok (0x40000 + 16 * n) ∧ s.badRange (0x40000 + 16 * n) 16 = false ∧
      s.isRemote (0x40000 + 16 * n) = false) ∧
    ofBytes (s.loadBytes g g.seq (.phys 0x40000) 16) / 2 ^ 64 = 1 ∧ (BitVec.ofNat 64 (s.num 0x40000 16) : DWord).toNat % 32 ≠ 0 ∧
    s.num 0x40010 16 / 2 ^ 64 ≠ 1 ∧ s.num 0x40020 16 / 2 ^ 64 = 1 ∧
    (BitVec.ofNat 64 (s.num 0x40020 16) : DWord).toNat % 32 = 0 ∧
    g.act 1 ≠ 0 ∧ g.exec &&& ~~~g.act 1 ≠ 0 ∧ g.act 0 ≠ 0 ∧ g.exec &&& ~~~g.act 0 = 0 ∧ g.stack.length < 24 ∧
    ({ g with exec := 0xFFFF0000 } : Group).act 1 = 0 ∧
    ({ g with stack := List.replicate 24 ⟨true, 0x30008, 1⟩ } : Group).stack.length = 24 := by decide +kernel

theorem wit_ComputeResults :
    (computeOf (.iadd false 1 31 112 127)).isSome = true ∧ (guarded id).grp.retry = none ∧ goodDest 31 ∧ goodDest 127 ∧
    (guarded id).grp.allocated [31, 112, 127] ∧ (computeOf (.movl false 127 7)).isSome = true ∧
    (computeOf (.iadd true 2 127 126 0)).isSome = true ∧ (guarded id).grp.uniGuard 2 = some true ∧
    (guarded id).grp.uniGuard 1 = none ∧ (guarded fun g => { g with q := 0 }).grp.uniGuard 2 = some false := by
  simp only [goodDest, Group.allocated]
  decide +kernel

theorem wit_CompareAndPredicateResults :
    (compareOf (.icmpeq false 1 127 31 112)).isSome = true ∧ (guarded id).grp.allocated [31, 112] ∧
    (compareOf (.icmpeq true 2 15 31 112)).isSome = true ∧ (compareOf (.icmpeq true 2 16 31 112)).isSome = true ∧
    (logicOf (.pand false 1 127 0 5)).isSome = true ∧ (logicOf (.pand true 2 15 0 16)).isSome = true ∧
    (guarded id).grp.uniGuard 2 = some true ∧ (guarded id).grp.uniGuard 1 = none ∧
    (guarded fun g => { g with q := 0 }).grp.uniGuard 2 = some false ∧ (guarded id).grp.act 1 ≠ 0 ∧
    3 < (4 : BitVec 7).toNat ∧ (3 : BitVec 7).toNat ≤ 3 ∧ goodDest 31 ∧ (guarded id).grp.allocated [31] := by
  simp only [goodDest, Group.allocated]
  decide +kernel

theorem wit_SelectAndPairResults :
    (guarded id).grp.retry = none ∧ goodDest 31 ∧ (guarded id).grp.allocated [31, 0, 127] ∧
    (guarded id).grp.uniGuard 2 = some true ∧ (guarded id).grp.act 1 ≠ 0 ∧ 111 ≤ (111 : BitVec 7).toNat ∧
    (guarded id).grp.allocated [30 + 1, 0 + 1, 127] ∧ 126 ≤ (126 : BitVec 7).toNat ∧ (125 : BitVec 7).toNat < 126 ∧
    (guarded fun g => { g with alloc := 112 }).grp.allocated [110 + 1, 110 + 1, 0] := by
  simp only [goodDest, Group.allocated]
  decide +kernel

theorem wit_LaneExchangeResults :
    (exchangeOf (.shflxor 1 31 0 111)).bind (fun x => x.count) = some 111 ∧ (guarded id).grp.act 1 ≠ 0 ∧
    (exchangeOf (.lshup 1 31 0 112)).bind (fun x => x.count) = some 112 ∧ (guarded id).grp.retry = none ∧
    (exchangeOf (.shflidx 1 127 0 31)).bind (fun x => x.count) = none ∧ goodDest 31 ∧ goodDest 127 ∧
    (guarded id).grp.allocated [31, 0, 31] := by
  simp only [goodDest, Group.allocated]
  decide +kernel

theorem wit_SpecialAndConstantRegisters :
    0x20 ≤ (0x20 : BitVec 8).toNat ∧ (0x1F : BitVec 8).toNat < 0x20 ∧ (guarded id).grp.act 1 ≠ 0 ∧ goodDest 31 ∧
    (guarded id).grp.allocated [31] ∧ (guarded id).grp.uniGuard 2 = some true ∧ (guarded id).grp.level ≠ .supervisor ∧
    (mach fun g => { g with level := .supervisor }).grp.level = .supervisor ∧
    hasLane ((guarded fun g => { g with exec := 0xF0 }).grp.act 1) 4 = true ∧
    (∀ j < 4, hasLane ((guarded fun g => { g with exec := 0xF0 }).grp.act 1) j = false) ∧
    7 < (8 : BitVec 7).toNat ∧ (7 : BitVec 7).toNat ≤ 7 ∧ ((2 : BitVec 2).getLsbD 1 = true ∧ 15 < (16 : BitVec 7).toNat) ∧
    (mach id).grp.alloc ≤ 16 * (2 : BitVec 4).toNat ∧ 16 * (1 : BitVec 4).toNat < (mach id).grp.alloc := by
  simp only [goodDest, Group.allocated]
  decide +kernel

/-- The greatest finite value and half a unit beyond it, for each format; a number that is between two codes. -/
theorem wit_RoundsAsTheModeSays :
    (∀ f ∈ [fp32, fp16, bf16], f.limit ≤ (FVal.fin false (2 ^ (f.fbits + 2) - 1) (f.qmin + (2 ^ f.ebits : Nat) - 4)).value.abs) ∧
    (∀ f ∈ [fp32, fp16, bf16], (FVal.fin true 1 0).value.abs < f.limit) ∧
    (∀ f ∈ [fp32, fp16, bf16], (f.decode (f.round .rd (.fin false 3 0))).finite = true ∧
      (f.decode (f.round .rd (.fin true 1 200))).finite = false ∧ (f.decode (f.round .ru (.fin false 1 200))).finite = false) := by
  decide +kernel

theorem wit_SumsAndProductsAreExact :
    (FVal.fin false 3 0).finite = true ∧ (FVal.fin true 0 0).finite = true ∧
    (FVal.fin false 3 0).value + (FVal.fin true 3 0).value = 0 ∧ (FVal.inf true).finite = false ∧
    (∀ f ∈ [fp32, fp16, bf16], (f.decode (f.infBits - 1)).finite = true ∧ (f.decode 1).finite = true ∧ (f.decode 0).value = 0) ∧
    (∀ w ∈ [1, 0x80000001, 0x3F800000, 0x7F7FFFFF, 0x00800000], w < 2 ^ 32 ∧ (fp32.decode w).finite = true ∧
      (fp32.decode w).value ≠ 0) ∧
    fp32.limit ≤ (1 / (fp32.decode 1).value).abs ∧ (1 / (fp32.decode 0x3F800000).value).abs < fp32.limit ∧
    (1 / (fp32.decode 0x7F7FFFFF).value).abs < fp32.limit ∧ (1 / (fp32.decode 0x00800000).value).abs < fp32.limit ∧
    0 < (fp32.decode 1).value ∧ (fp32.decode 0xC3150000).value = ((-149 : Int) : Rat) ∧
    (fp32.decode 0x42FE0000).value = ((127 : Int) : Rat) ∧ (fp32.decode 1).value = (2 : Rat) ^ (-149 : Int) ∧
    (fp32.decode 0x7F000000).value = (2 : Rat) ^ (127 : Int) := by decide +kernel

theorem wit_SumsAndProductsAreExact_words :
    (let w : Word := 0xFF800001
     w.extractLsb' 23 8 = 0xFF ∧ w.extractLsb' 0 23 ≠ 0 ∧ w.msb = true ∧ w.extractLsb' 0 31 ≠ 0) ∧
    ((0x80000001 : Word).msb = true ∧ (0x80000001 : Word).extractLsb' 0 31 ≠ 0) ∧
    fp32.decode 0x7FC00000 = .nan ∧ fp32.decode 0xFF800000 = .inf true ∧ fp32.decode 0x7F800000 = .inf false ∧
    (fp32.decode 0xBF000000).value < 0 ∧ (fp32.decode 0x3F000000).value - ((0 : Int) : Rat) = 1 / 2 ∧
    (fp32.decode 0xBF000000).finite = true ∧ (fp16.decode (0x80017BFF % 2 ^ 16)).finite = true ∧
    (bf16.decode (0x80017F7F % 2 ^ 16)).finite = true ∧
    (∀ f ∈ [fp32, fp16, bf16], f.round .rn (.fin false 1 200) % f.signBit = f.infBits ∧
      f.round .rn (.fin false 1 0) % f.signBit ≠ f.infBits) := by decide +kernel

/-- Is every lane's result one that goes through? -/
def allGood (l : LaneList) : Bool := l.all fun x => match x.2 with | .ok _ _ => true | _ => false

/-- The lanes that go through, as the statements list them. -/
def goodOf (l : LaneList) : List (Nat × DWord × MemLoc) :=
  l.filterMap fun x => match x.2 with | .ok va loc => some (x.1, va, loc) | _ => none

/-- Lanes 1 and 31, addresses of 0x40000 in the pair v5 ‖ v4, 0x100 in v8 for scratchpad. -/
def memG (g : Group) : Group := { g with exec := 0x80000002, alloc := 32, v := [(4, vec 0x40000), (8, vec 0x100)] }

theorem wit_LoadsAreIssued :
    let s := world 0 memG
    let g := s.grp
    (loadOf (.ld false 0 28 4 4 31)).isSome = true ∧ (loadOf (.lda true 0 124 120 2 0)).isSome = true ∧
    g.retry = none ∧ g.remote = none ∧ g.held 0 = false ∧
    g.memFault false (.global 0) [{ f := 28, k := runLen 16, write := true }, (Space.global 0).opnd 4] = none ∧
    (let ls := s.laneResults g false (.global 0) 4 (31 * 16) { size := 16, write := false } (lanesOf g.exec)
     ls = (goodOf ls).map (fun x => (x.1, LaneRes.ok x.2.1 x.2.2)) ∧ (goodOf ls).length = 2) ∧
    (let ls := s.laneResults g false .scratch 8 0 { size := 4, write := false } (lanesOf g.exec)
     ls = (goodOf ls).map (fun x => (x.1, LaneRes.ok x.2.1 x.2.2)) ∧ (goodOf ls).length = 2) ∧
    (∀ d ∈ [112, 127], (loadOf (.ld false 0 (BitVec.ofNat 7 d) 4 4 31)).any (fun f => f.u = false ∧ 112 ≤ f.d) = true) ∧
    4 < (5 : BitVec 3).toNat := by decide +kernel

theorem wit_StoresAreQueued :
    let s := world 0 memG
    let g := s.grp
    (storeOf (.st false 0 28 4 4 31)).isSome = true ∧ (storeOf (.strel false 0 28 4 4 0)).isSome = true ∧
    g.retry = none ∧ g.remote = none ∧ g.held 0 = false ∧
    g.memFault false (.global 0) [{ f := 28, k := runLen 16, write := false }, (Space.global 0).opnd 4] = none ∧
    (let ls := s.laneResults g false (.global 0) 4 (31 * 16) { size := 16, write := true } (lanesOf g.exec)
     ls = (goodOf ls).map (fun x => (x.1, LaneRes.ok x.2.1 x.2.2)) ∧ (goodOf ls).length = 2) := by decide +kernel

/-- A load of two lanes outstanding, and one store queued after it or alone. -/
def pending : PendLoad :=
  { seq := 0, tag := 0, lanes := [⟨1, 0x40000, .phys 0x40000⟩, ⟨31, 0x40000, .phys 0x40000⟩], size := 4, signExt := false, dest := .vec 7 1 }

theorem wit_LoadsAndStoresArePerformed :
    (let g := (mach fun g => { g with pend := [pending] }).grp
     g.saved = false ∧ g.awaitsRemote = false ∧ g.pend = pending :: [] ∧ pending.dest = .vec 7 1 ∧
     (pending.lanes.map fun l => l.lane).Nodup ∧ g.gentag.toNat ≠ 1) ∧
    (∀ d ∈ [Dest.uni 5 1, .none],
      let p := { pending with lanes := [⟨0, 0x40000, .phys 0x40000⟩], dest := d }
      let g := (mach fun g => { g with pend := [p] }).grp
      g.saved = false ∧ g.awaitsRemote = false ∧ g.pend = p :: [] ∧ p.dest = d ∧ p.lanes = [⟨0, 0x40000, .phys 0x40000⟩]) ∧
    (mach fun g => { g with saved := true }).grp.saved = true ∧ ((mach id).grp.awaitsRemote = false ∧ (mach id).grp.pend = []) ∧
    (let g := (mach fun g => { g with wait := some (.remote false 4 [⟨1, 0, .phys 0x1000000000000⟩] 0) }).grp; g.saved = false ∧ g.awaitsRemote = true) ∧
    (let e : StoreEntry := { seq := 1, parts := [] }
     let g := (mach fun g => { g with storeQ := [e], pend := [pending] }).grp
     g.storeQ = e :: [] ∧ ∃ p ∈ g.pend, p.seq ≤ e.seq) ∧
    (let e : StoreEntry := { seq := 0, parts := [⟨1, 0x10, .scratch 1 0x10, [1, 2]⟩, ⟨2, 0, .phys 0x8000000000000, [3]⟩] }
     let s := world 0 fun g => { g with storeQ := [e] }
     s.grp.storeQ = e :: [] ∧ (∀ p ∈ s.grp.pend, e.seq < p.seq) ∧ inPeer 0x8000000000000 = true ∧ (s.teams[0]?).isSome = true) ∧
    (let e : StoreEntry := { seq := 0, parts := [⟨1, 0x40000, .phys 0x40000, [1, 2]⟩] }
     let g := (mach fun g => { g with storeQ := [e], pend := [{ pending with seq := 1 }] }).grp
     g.storeQ = e :: [] ∧ ∀ p ∈ g.pend, e.seq < p.seq) ∧
    ([1, 2] : List Byte).length = 2 ∧ 2 < 4 ∧ 0 < 2 := by decide +kernel

theorem wit_AtomicsReadModifyWrite :
    let s := world 0 memG
    let g := s.grp
    (atomicOf (.atom 0 24 4 1 7 0)).isSome = true ∧ (atomicOf (.red 0 24 4 1 7 0)).isSome = true ∧
    (atomicOf (.satom 24 8 0 8)).isSome = true ∧ 8 < (9 : BitVec 4).toNat ∧
    (atomicOf (.red 0 24 4 1 7 0)).any (fun f => f.returns = false ∧ f.op = 7) = true ∧ ((4 : Nat) = 4 ∨ (4 : Nat) = 8) ∧
    g.retry = none ∧ g.remote = none ∧ g.held 0 = false ∧
    g.memFault false (.global 0) [{ f := 24, k := 4, write := true }, (Space.global 0).opnd 4] = none ∧
    (let ls := s.laneResults g false (.global 0) 4 0 { size := 8, write := true, atomic := true, op := 7 } (lanesOf g.exec)
     ls = (goodOf ls).map (fun x => (x.1, LaneRes.ok x.2.1 x.2.2)) ∧ (goodOf ls).length = 2) ∧
    (let ls := s.laneResults g false .scratch 8 0 { size := 4, write := true, atomic := true, op := 8 } (lanesOf g.exec)
     ls = (goodOf ls).map (fun x => (x.1, LaneRes.ok x.2.1 x.2.2)) ∧ (goodOf ls).length = 2) := by decide +kernel

/-- A team with a line of each state: 0 full, 1 empty, 2 poisoned. -/
def lined (f : Group → Group) : State :=
  { world 0 f with teams := [{
      id := 1, launch := some 1, vd := 0, teamid := 0, core := 0, alloc := 4096, banks := 1, groups := 1
      lines := [(1, ⟨.empty, 1⟩), (2, ⟨.poisoned, 0⟩)], poison := some ⟨10, 0x40000⟩ }] }

theorem wit_LanesMeetTheirConditions :
    let s := lined memG
    let g := s.grp
    let at' := fun (va : DWord) => ({ va := va, pa := none } : GAddr)
    (at' 0x40002).va.toNat % 4 ≠ 0 ∧ (at' 0x40000).va.toNat % 4 = 0 ∧
    s.resolve g .load (at' 0x80000000000) = .fault 1 ∧ s.resolve g .store (at' 0x40000) = .ok 0x40000 ∧
    s.writeRange g false 0x40000 4 = none ∧ s.badRange 0x40000 4 = false ∧ s.isRemote 0x40000 = false ∧
    (let u : State := { s with badMem := [0x40000] }; u.resolve g .load (at' 0x40000) = .ok 0x40000 ∧ u.badRange 0x40000 4 = true) ∧
    (let u : State := { s with grp := { g with xs := [(1, { valid := true, wr := true, limit := 64, base := 0x1000000000000 })] } }
     let a : GAddr := { va := 0, pa := some 0x1000000000000 }
     u.resolve u.grp .load a = .ok 0x1000000000000 ∧ u.badRange 0x1000000000000 4 = false ∧ u.isRemote 0x1000000000000 = true ∧
     inHost (u.alias 0x1000000000000) = true) ∧
    (let u : State := { s with launches := [{ id := 1, seqno := 1, vd := 0, desc := 2 ^ 192 }] }
     u.writeRange g false 0x40000 4 = some 0 ∧ u.resolve g .store (at' 0x40000) = .ok 0x40000) ∧
    (let u : State := { s with tlb := [{ level := 2, loc := 0, vd := 0, page := 0, size := 0x40000000, leaf := 0x3D, draining := true }] }
     u.resolve g .load (at' 0x40000) = .stall) ∧
    (s.team g.team).isSome = true ∧
    ∀ t, s.team g.team = some t → 4096 < 4094 + 4 ∧ 4094 % 2 = 0 ∧ 4092 + 4 ≤ t.alloc ∧
      t.worst 4092 4 = .full ∧ t.worst 252 4 = .empty ∧ t.worst 256 4 = .poisoned ∧ t.poison = some ⟨10, 0x40000⟩ := by
  and_intros
  all_goals first | decide +kernel

/-- What lanes 1 and 31 of an access meet. -/
def results (s : State) (space : Space) (a : Nat) (k : AccessKind) : LaneList :=
  s.laneResults s.grp false space a 0 k (lanesOf s.grp.exec)

theorem wit_ConditionsTrapAndWaitsPark :
    (let s := lined memG
     let g := s.grp
     (loadOf (.sld false 6 8 2 0)).isSome = true ∧ (storeOf (.sst false 6 8 2 0)).isSome = true ∧
     (loadOf (.lda false 0 6 4 2 0)).isSome = true ∧ (storeOf (.strel false 0 6 4 2 0)).isSome = true ∧
     (atomicOf (.satom 6 8 0 0)).any (fun f => f.op ≤ 8 ∧ f.returns = true) = true ∧ g.remote = none ∧ g.held 0 = false ∧
     (∀ w ∈ [false, true],
       g.memFault false .scratch [{ f := 6, k := runLen 4, write := w }, Space.scratch.opnd 8] = none ∧
       g.memFault false .scratch [{ f := 32, k := runLen 4, write := w }, Space.scratch.opnd 8] ≠ none) ∧
     g.memFault false .scratch [{ f := 112, k := runLen 4, write := true }, Space.scratch.opnd 8] = some 0x06) ∧
    (∀ k ∈ [({ size := 4, write := false } : AccessKind), { size := 4, write := true }, { size := 4, write := true, atomic := true }],
      let mixed := results (lined fun g => { memG g with v := [(8, Vector.ofFn fun i => if i.val = 1 then 0x80 else 0x101)] }) .scratch 8 k
      let ends := results (lined fun g => { memG g with v := [(8, Vector.ofFn fun i => if i.val = 1 then 0x40 else 0x101)] }) .scratch 8 k
      let lines := results (lined fun g => { memG g with v := [(8, vec 0x80)] }) .scratch 8 k
      let drained := { lined memG with tlb :=
        [{ level := 2, loc := 0, vd := 0, page := 0, size := 0x40000000, leaf := 0x3D, draining := true }] }
      let pages := results drained (.global 0) 4 k
      mixed = [(1, .waitLine 0x80)] ++ (31, .trap 0 0x07 0 0x101) :: [] ∧ ends.clear ≠ [] ∧
      lines = [(1, .waitLine 0x80), (31, .waitLine 0x80)] ∧ pages = [(1, .waitPage 0x40000), (31, .waitPage 0x40000)]) ∧
    (let s := lined fun g => { memG g with
       xs := [(1, { valid := true, wr := true, limit := 64, base := 0x1000000000000 })]
       v := [(4, Vector.ofFn fun i => if i.val = 1 then 0 else 2)] }
     ∀ k ∈ [({ size := 4, write := false } : AccessKind), { size := 4, write := true, atomic := true }],
       results s (.global 1) 4 k = (1, .remote 0 (.phys 0x1000000000000)) :: (31, .trap 0 0x07 0 2) :: []) ∧
    (let s := lined fun g => { memG g with spb := 8 }
     (lanesOf (s.grp.act 0)).map (fun j => (j, s.globalLane s.grp { size := 4, write := false, ranges := false }
       { va := BitVec.ofNat 64 (0x80000000000 + 4 * j), pa := none })) =
       [(1, .trap 3 0x20 1 0x80000000004), (31, .trap 3 0x20 1 0x8000000007C)]) := by decide +kernel

/-- The trap that lanes 1 (waiting) and 31 (misaligned) take, and its mask. -/
theorem wit_ConditionsTrapAndWaitsPark_trap :
    let ls : LaneList := [(1, .waitLine 0x80), (31, .trap 0 0x07 0 0x101)]
    ls.trapsFirst 0x07 0 0x101 ∧ ls.inCondition 0x80000002 ∧ ¬ ls.leaves ∧ ls.traps ∧
    (let wait : LaneList := [(1, .waitLine 0x80)]; ¬ wait.traps ∧ ¬ wait.leaves) ∧
    (let far : LaneList := [(1, .remote 0 (.phys 0x1000000000000))]; far.leaves ∧ ¬ far.traps) := by
  refine ⟨⟨[(1, .waitLine 0x80)], [], 31, 0, rfl, by simp, by simp⟩, ?_, ?_, ?_, ⟨?_, ?_⟩, ?_, ?_⟩
  · simp only [LaneList.inCondition]; decide +kernel
  · rintro ⟨x, hx, va, loc, h⟩
    simp only [List.mem_cons, List.not_mem_nil, or_false] at hx
    rcases hx with rfl | rfl <;> simp at h
  · exact ⟨(31, .trap 0 0x07 0 0x101), by simp, 0, _, _, _, rfl⟩
  · rintro ⟨x, hx, r, c, d, a, h⟩
    simp only [List.mem_cons, List.not_mem_nil, or_false] at hx
    subst hx; simp at h
  · rintro ⟨x, hx, va, loc, h⟩
    simp only [List.mem_cons, List.not_mem_nil, or_false] at hx
    subst hx; simp at h
  · exact ⟨(1, .remote 0 (.phys 0x1000000000000)), by simp, _, _, rfl⟩
  · rintro ⟨x, hx, r, c, d, a, h⟩
    simp only [List.mem_cons, List.not_mem_nil, or_false] at hx
    subst hx; simp at h

theorem wit_SpillsPrefetchAndXlat :
    let s := world 0 fun g => (({ memG g with spb := 8 }).setPair 2 0x40000).setPair 4 0x80000000000
    let g := s.grp
    g.retry = none ∧ g.remote = none ∧ g.held 0 = false ∧ g.act 0 ≠ 0 ∧ goodDest 31 ∧ g.allocated [31] ∧
    (∀ w ∈ [false, true],
      let ls : LaneList := (lanesOf (g.act 0)).map fun j =>
        (j, s.globalLane g { size := 4, write := w, ranges := false } { va := BitVec.ofNat 64 (32768 * 8 + 128 * 255 + 4 * j), pa := none })
      ls = (goodOf ls).map (fun x => (x.1, LaneRes.ok x.2.1 x.2.2)) ∧ (goodOf ls).length = 2) ∧
    ({ g with exec := 0 } : Group).act 0 = 0 ∧ (4 : BitVec 3).toNat ≤ 4 ∧
    g.memFault false (.global 0) [(Space.global 0).opnd 4] = none ∧
    (7 : BitVec 7).toNat ≤ 7 ∧ 7 < (8 : BitVec 7).toNat ∧ 125 < (126 : BitVec 7).toNat ∧
    s.devTranslate g.vd .load (g.spairSrc 2) = .ok 0x40000 ∧ s.devTranslate g.vd .store (g.spairSrc 2) = .ok 0x40000 ∧
    s.devTranslate g.vd .load (g.spairSrc 4) = .fault 1 := by
  simp only [goodDest, Group.allocated]
  decide +kernel

/-- Lanes 1 and 31; global addresses in v5 ‖ v4 (0x40000), scratchpad 0x100 in v8, an LDTS word for barrier object 3 in v9, and
the blocks of GATH and MCAST in uniform registers: list 0x50000, table 0x60000, rows of 32 bytes, 8 rows, 2 positions. -/
def copyG (g : Group) : Group :=
  { memG g with
    team := 1
    v := [(4, vec 0x40000), (8, vec 0x100), (9, vec (3 * 2 ^ 21 + 0x200))]
    s := [(0, 0x50000), (2, 0x60000), (4, 32), (5, 8), (6, 2), (9, 0x400), (20, 0x100), (21, 32), (22, 0x200), (24, 1)] }

/-- That group as the machine holds it, a member of its team. -/
def copying : State := { lined copyG with grp := { (lined copyG).grp with team := 1, launch := some 1 } }

theorem wit_CopiesAreQueued :
    let s := copying
    let g := s.grp
    g.retry = none ∧ g.remote = none ∧ g.qfences = [] ∧ g.exec ≠ 0 ∧ (s.team g.team).isSome = true ∧
    (2 ≤ (2 : BitVec 3).toNat ∧ (4 : BitVec 3).toNat ≤ 4 ∧ g.badX (.global 0) = false ∧ g.badX .scratch = false ∧
      g.vecFault [(Space.global 0).opnd 4, Space.scratch.opnd 8] = none ∧
      ∀ i ∈ lanesOf g.exec,
        s.endCheck (.global (g.globalAddr 0 (fun k => g.lane (4 + k) i) 0 16 false)) 16 false = none ∧
        s.endCheck (.scratch (g.lane 8 i).toNat) 16 true = none) ∧
    (g.memFault false (.global 0) [rd 9, (Space.global 0).opnd 4] = none ∧
      (∀ i ∈ lanesOf g.exec, (g.lane 9 i).toNat / 2 ^ 27 = 0 ∧ (g.lane 9 i).toNat / 2 ^ 21 = 3 ∧
        s.endCheck (.scratch ((g.lane 9 i).toNat % 2 ^ 21)) 16 true = none) ∧
      (s.team g.team).all (fun t => 48 + 16 ≤ t.alloc ∧ bPending (t.obj 48) < 0x7FFF) = true) ∧
    (16 ≤ (g.ssrc 4).toNat ∧ (g.ssrc 4).toNat ≤ 32768 ∧ (g.ssrc 4).toNat % 16 = 0 ∧ 1 ≤ (g.ssrc 5).toNat ∧
      1 ≤ (g.ssrc 6).toNat ∧ (g.ssrc 6).toNat ≤ 4096 ∧ (g.spairSrc 0).toNat % 4 = 0 ∧ (g.spairSrc 2).toNat % 16 = 0 ∧
      (g.ssrc 9).toNat % 16 = 0 ∧ (g.ssrc 9).toNat + 2 * 32 ≤ 4096 ∧
      (2 : BitVec 2) ≠ 3 ∧ 112 ≤ (112 : BitVec 7).toNat ∧ (120 : BitVec 7).toNat ≤ 120 ∧ (126 : BitVec 7).toNat ≤ 126) ∧
    (goodDest 127 ∧ g.allocated [127] ∧
      16 ≤ (g.ssrc 21).toNat ∧ (g.ssrc 21).toNat ≤ 65536 ∧ (g.ssrc 21).toNat % 16 = 0 ∧ 0 < (g.ssrc 24).toNat ∧
      (g.ssrc 24).toNat < 0x10000 ∧ (g.ssrc 20).toNat % 16 = 0 ∧ (g.ssrc 22).toNat % 16 = 0 ∧
      (g.ssrc 20).toNat + (g.ssrc 21).toNat ≤ 4096) := by
  simp only [goodDest, Group.allocated]
  decide +kernel

/-- A copy of 16 bytes at the head of queue 1: from this place to that one. -/
def copyOf (src dst : CopyEnd) : State :=
  let part : CopyPart := { src := src, dst := dst, size := 16 }
  { copying with grp := { copying.grp with queues := [(1, [⟨3, .copy [part] none⟩])] } }

/-- The second GiB is the host's, and the third one's entry is being drained, where lookaside entries say so. -/
def remoteTlb : List TlbEntry :=
  [{ level := 2, loc := 0, vd := 0, page := 0x40000000, size := 0x40000000, leaf := 0x100000000003D, draining := false },
   { level := 2, loc := 0, vd := 0, page := 0x80000000, size := 0x40000000, leaf := 0x3D, draining := true }]

/-- A copy at the head of queue 1 in two parts, from a place each, with those pages. -/
def copyTwo (src dst src' dst' : CopyEnd) : State :=
  let part := fun (a b : CopyEnd) => ({ src := a, dst := b, size := 16 } : CopyPart)
  { copying with
    grp := { copying.grp with queues := [(1, [⟨3, .copy [part src dst, part src' dst'] none⟩])] }, tlb := remoteTlb }

/-- Did the part read? -/
def isBytes (r : PartRead) : Bool := match r with | .bytes _ => true | _ => false

theorem wit_CopyPartsArriveOrFail :
    let here : GAddr := ⟨0x40000, none⟩
    let far : GAddr := ⟨0x40000000, none⟩
    let stalls : GAddr := ⟨0x80000000, none⟩
    let away : GAddr := ⟨0x80000000000, none⟩
    let two := fun (a b : CopyEnd) => copyTwo a b (.scratch 0x200) (.scratch 0x300)
    let reads := fun (s : State) (e : CopyEnd) => isBytes (s.readPart s.grp e 16)
    (let s := two (.global here) (.scratch 0x180)
     let p : CopyPart := { src := .global here, dst := .scratch 0x180, size := 16 }
     let p' : CopyPart := { src := .scratch 0x200, dst := .scratch 0x300, size := 16 }
     s.grp.saved = false ∧ s.grp.queue 1 = ⟨3, .copy [p, p'] none⟩ :: [] ∧ [p, p'][0]? = some p ∧ p.done = false ∧
     s.resolve s.grp .load here = .ok 0x40000 ∧ s.badRange 0x40000 16 = false ∧ reads s p.src = true ∧
     (s.team s.grp.team).all (fun t => t.worst 0x200 16 = .full) = true ∧ reads s p'.src = true) ∧
    (let s := two (.global far) (.scratch 0x180); reads s (.global far) = true ∧ s.endRemote s.grp .load (.global far) = true) ∧
    (let s := two (.scratch 0x200) (.global here); s.inRanges s.grp here.va 16 = true ∧ s.resolve s.grp .store here = .ok 0x40000 ∧
      s.isRemote 0x40000 = false ∧ s.endRemote s.grp .load (.scratch 0x200) = false) ∧
    (let s := two (.global far) (.global far); s.inRanges s.grp far.va 16 = true ∧ reads s (.global far) = true ∧
      s.resolve s.grp .store far = .ok 0x1000000000000 ∧ s.isRemote 0x1000000000000 = true) ∧
    (let s := { two (.scratch 0x200) (.global here) with launches := [{ id := 1, seqno := 1, vd := 0, desc := 2 ^ 192 }] }
     reads s (.scratch 0x200) = true ∧ s.inRanges s.grp here.va 16 = false) ∧
    (let s := two (.scratch 0x200) (.global away); s.inRanges s.grp away.va 16 = true ∧ s.resolve s.grp .store away = .fault 1) ∧
    (let s := two (.scratch 0x200) (.global stalls); s.inRanges s.grp stalls.va 16 = true ∧ s.resolve s.grp .store stalls = .stall) ∧
    (let s := two (.global away) (.scratch 0x180); s.readPart s.grp (.global away) 16 = .failed 1 away.va) ∧
    (let s := two (.scratch 0x80) (.scratch 0x180); s.readPart s.grp (.scratch 0x80) 16 = .wait) ∧
    (copying.team copying.grp.team).all (fun t => t.worst 0x100 16 = .poisoned) = true := by
  decide +kernel

/-- 13 R170: a copy of two parts of which the first reads a POISONED line is over, with the second's lines POISONED too. -/
theorem test_poisoned_copy :
    let s := copyTwo (.scratch 0x100) (.scratch 0x180) (.scratch 0x200) (.scratch 0x300)
    (match exec (.copyPartFault s.grp.id 1 0) s with
     | .next t => decide (t.grp.queue 1 = [] ∧ t.grp.record 1 = some ⟨1, 0x100⟩) &&
         (t.team t.grp.team).all fun u => u.worst 0x180 16 = .poisoned && u.worst 0x300 16 = .poisoned
     | _ => false) = true := by decide +kernel

/-- A gather of one row at the head of its queue, with those pages. -/
def gathering (b : TableBlock) (ix : IndexState) : State :=
  { copying with grp := { copying.grp with queues := [(5, [⟨3, .gather b [ix] [false]⟩])] }, tlb := remoteTlb }

/-- One row of 16 bytes, its index at 0x50000 and the table at 0x60000. -/
def oneRow : TableBlock := { list := 0x50000, table := 0x60000, rowBytes := 16, rows := 8, count := 1, width := 4, base := 0x400 }

theorem wit_CopyPartsArriveOrFail_gather :
    let at' := fun (b : TableBlock) (ix : IndexState) =>
      let s := gathering b ix
      match ix with | .unread => s.readIndex s.grp b 0 3 4 | i => i
    let row := fun (b : TableBlock) => let s := gathering b .unread; s.translate s.grp.agent s.grp.vd .load (b.rowVa 0 0)
    let far := fun (b : TableBlock) => let s := gathering b .unread; s.endRemote s.grp .load (.global ⟨b.indexVa 0, none⟩)
    (let s := gathering oneRow .unread; s.grp.saved = false ∧ s.grp.queue 5 = ⟨3, .gather oneRow [.unread] [false]⟩ :: [] ∧
      ([false] : List Bool)[0]? = some false ∧ s.translate s.grp.agent s.grp.vd .load (oneRow.indexVa 0) = .ok 0x50000) ∧
    at' oneRow .unread = .row 0 ∧ row oneRow = .ok 0x60000 ∧ copying.badRange 0x60000 16 = false ∧ far oneRow = false ∧
    ({ copying with badMem := [0x60000] } : State).badRange 0x60000 16 = true ∧
    at' { oneRow with rows := 0 } .unread = .failed 4 ∧ at' { oneRow with list := 0x80000000000 } .unread = .failed 3 ∧
    at' { oneRow with list := 0x80000000 } .unread = .unread ∧ row { oneRow with table := 0x80000000000 } = .fault 1 ∧
    row { oneRow with table := 0x80000000 } = .stall ∧
    (∀ tb ∈ [0x60000, 0x40000000],
      let b := { oneRow with list := 0x40000000, rows := 2 ^ 32, table := BitVec.ofNat 64 tb }
      (match at' b .unread with | .row _ => true | _ => false) = true ∧ far b = true) ∧
    (let b := { oneRow with table := 0x40000000 }
     far b = false ∧ row b = .ok 0x1000000000000 ∧ copying.isRemote 0x1000000000000 = true) := by decide +kernel

/-- A scatter of these positions at the head of its queue, resolved where `rows` are given, in an otherwise empty queue. -/
def scattering (b : TableBlock) (index : List IndexState) (rows : List Nat) : State :=
  { copying with
    grp := { copying.grp with queues := [(5, [⟨3, .scatter b true 1 (!rows.isEmpty) index rows (rows.map fun _ => false)⟩])] }
    tlb := remoteTlb }

theorem wit_CopyPartsArriveOrFail_scatter :
    let b := { oneRow with count := 2, base := 0x380 }
    (let s := scattering b [.row 3, .row 3] [3]
     s.grp.saved = false ∧ s.grp.queue 5 = ⟨3, .scatter b true 1 true [.row 3, .row 3] [3] [false]⟩ :: [] ∧
     ([false] : List Bool)[0]? = some false ∧ s.inRanges s.grp (b.rowVa 3 0) 16 = true ∧
     s.translate s.grp.agent s.grp.vd .store (b.rowVa 3 0) = .ok 0x60030 ∧
     (s.team s.grp.team).all (fun t => t.worst 0x380 16 = .full ∧ t.worst 0x80 16 = .empty ∧ t.worst 0x100 16 = .poisoned) = true) ∧
    (let s := { scattering b [.row 3, .row 3] [3] with launches := [{ id := 1, seqno := 1, vd := 0, desc := 2 ^ 192 }] }
     s.inRanges s.grp (b.rowVa 3 0) 16 = false) ∧
    (∀ e ∈ [(0x80000000000, XRes.fault 1), (0x80000000, .stall), (0x40000000, .ok 0x1000000000000)],
      let b := { b with table := BitVec.ofNat 64 e.1 }
      let s := scattering b [.row 0, .row 0] [0]
      s.inRanges s.grp (b.rowVa 0 0) 16 = true ∧ s.translate s.grp.agent s.grp.vd .store (b.rowVa 0 0) = e.2) ∧
    (let b := { b with list := 0x40000000, rows := 2 ^ 32 }
     let s := scattering b [.unread, .unread] []
     s.endRemote s.grp .load (.global ⟨b.indexVa 1, none⟩) = true ∧ ([.unread, .unread] : List IndexState).getD 1 .unread = .unread) ∧
    (copying.team 1).all (fun t => t.anyEmpty { b with base := 0x80 } = true ∧ t.anyEmpty b = false) = true ∧
    (∀ e ∈ [(0, IndexState.failed 7), (8, .row 0)],
      let b := { b with rows := e.1 }
      let s := scattering b [.unread, .unread] []
      s.readIndex s.grp b 0 6 7 = e.2 ∧ s.readIndex s.grp b 1 6 7 = e.2) ∧
    (let b := { b with list := 0x80000000 }
     let s := scattering b [.unread, .unread] []
     s.readIndex s.grp b 0 6 7 = .unread) := by decide +kernel

/-- 15 R212, SCAT.ADD.I32: both rows add to the table's, element by element. -/
theorem test_scatter_adds :
    let s := scattering { oneRow with count := 2, base := 0x380 } [.row 3, .row 3] [3]
    let s := { s with
      mem := putBytes s.mem 0x60030 (toBytes 16 5)
      teams := s.teams.map fun t => { t with scratch := putBytes t.scratch 0x380 (toBytes 32 (7 + 2 ^ 32 + 9 * 2 ^ 128)) } }
    (match exec (.scatterRowWrite s.grp.id 0) s with
     | .next t => decide (t.num 0x60030 4 = 21 ∧ t.num 0x60034 4 = 1 ∧ t.grp.queue 5 = [])
     | _ => false) = true := by decide +kernel

theorem wit_CopyPartsArriveOrFail_mcast :
    let own := copying.team 1
    own.isSome = true ∧ own.all (fun t => t.worst 0x80 16 = .empty ∧ t.worst 0x100 16 = .poisoned ∧ t.worst 0x200 16 = .full) = true ∧
    own.all (fun t => t.saved = false ∧ t.gen = 0) = true ∧ own.all (fun t => t.gen ≠ 1) = true ∧ copying.team 9 = none ∧
    (let p : McastPart := { m := 0, team := 1, gen := 0, off := 0x280 }
     let s := { copying with grp := { copying.grp with queues := [(5, [⟨3, .mcast 0x200 16 0x280 [p] none 0 .none 1⟩])] } }
     s.grp.saved = false ∧ s.grp.queue 5 = ⟨3, .mcast 0x200 16 0x280 [p] none 0 .none 1⟩ :: [] ∧ p.done = false ∧ p.accepted = false ∧
     [p][0]? = some p ∧ s.team p.team = own ∧ { p with accepted := true }.accepted = true) := by decide +kernel

/-- A team with a barrier object of each kind: 0 expects 2, 16 expects 1 and so ends its phase, 32 is full, 48 has a reserved bit. -/
def barred (f : Group → Group) : State :=
  let obj := fun n => toBytes 16 n
  { copying with
    grp := f { copying.grp with barbase := 0 }
    teams := copying.teams.map fun t => { t with
      lines := []
      scratch := putBytes [] 0 (obj (2 * 2 ^ 48) ++ obj (1 * 2 ^ 48) ++ obj (1 * 2 ^ 48 + 2 ^ 32) ++ obj (1 * 2 ^ 48 + 2 ^ 80)) } }

theorem wit_BarriersEndTheirPhases :
    let s := barred id
    let g := s.grp
    let u := s.drainOwn
    g.retry = none ∧ goodDest 31 ∧ g.allocated [31, 9] ∧ g.wait = none ∧ (u.team g.team).isSome = true ∧ g.held 0 = false ∧
    (let h := (barred fun g => { g with
       queues := [(1, [⟨2, .copy [{ src := .scratch 0, dst := .scratch 64, size := 16 }] none⟩])]
       qfences := [{ seq := 3, mask := 5 }] }).grp
     h.held 0 = true ∧ h.retry = none ∧ h.wait = none) ∧
    (s.team g.team).all (fun t => 48 + 16 ≤ t.alloc ∧ t.worst 0 16 = .full ∧ t.worst 16 16 = .full ∧ t.worst 32 16 = .full) = true ∧
    (u.team g.team).all (fun t =>
      let o := fun (n : Nat) => t.obj (16 * n)
      let o1 := fun (n : Nat) => setField (setField (o n) 0 32 0) 32 16 (bArrived (o n) + 1)
      bArrived (o 0) < bExpected (o 0) ∧ field (o 0) 80 48 = 0 ∧ bArrived (o1 0) ≠ bExpected (o1 0) ∧
      bArrived (o 1) < bExpected (o 1) ∧ field (o 1) 80 48 = 0 ∧ bArrived (o1 1) = bExpected (o1 1) ∧ bPending (o1 1) = 0 ∧
      bExpected (o 2) ≤ bArrived (o 2) ∧ field (o 3) 80 48 ≠ 0 ∧ bPhase (o 0) = false) = true ∧
    (g.lane 9 ((lowestLane g.exec).getD 0)).getLsbD 0 = false ∧
    (let h := (barred fun g => { g with v := [(9, vec 1)] }).grp; (h.lane 9 ((lowestLane h.exec).getD 0)).getLsbD 0 = true) ∧
    (let r := s.loadsFirst
     (r.team g.team).all (fun t => bPhase (ofBytes ((List.range 16).map fun i =>
       (r.grp.forwarded r.grp.seq (.scratch t.id i)).getD (r.locByte (.scratch t.id 0) i))) = false) = true) := by
  simp only [goodDest, Group.allocated]
  decide +kernel

theorem wit_FencesPausesAndYields :
    (barred id).grp.retry = none ∧ (barred id).grp.sticky = none ∧ (barred fun g => { g with sticky := some ⟨1, 0x1000⟩ }).grp.sticky.isSome = true ∧
    (let g := (barred fun g => { g with records := [(2, some ⟨1, 0x40000⟩)] }).grp
     let named := [0, 1, 2, 3, 5, 6].filter fun q => (0x0C : BitVec 8).getLsbD (q + 1)
     named = [1] ++ 2 :: [] ∧ (∀ p ∈ [1], g.record p = none) ∧ g.record 2 = some ⟨1, 0x40000⟩) ∧
    (let g := (barred id).grp
     (∀ p ∈ [0, 1, 2, 3, 5, 6].filter (fun q => (0xFF : BitVec 8).getLsbD (q + 1)), g.record p = none) ∧ g.queue 0 = [] ∧
     (g.pc + 4 * (7 : BitVec 11).signExtend 64).toNat % 32 = 0 ∧ (g.pc + 4 * (0x7FD : BitVec 11).signExtend 64).toNat % 32 ≠ 0 ∧
     (2 : BitVec 2) ≠ 3 ∧ (0 : BitVec 16) ≠ 1 ∧ (126 : BitVec 10).toNat % 128 ≠ 127) ∧
    (copyOf (.scratch 0) (.scratch 0x100)).grp.queue 1 ≠ [] ∧
    (barred id).grp.held 0 = false ∧ (1 : BitVec 10).getLsbD 6 = false ∧ (0x40 : BitVec 10).getLsbD 6 = true ∧
    (let r := (barred id).loadsFirst
     (r.team 1).all (fun t => bPhase (ofBytes ((List.range 16).map fun i =>
       (r.grp.forwarded r.grp.seq (.scratch t.id i)).getD (r.locByte (.scratch t.id 0) i))) = false) = true) ∧
    ((barred id).team 1).all (fun t => 0 + 16 ≤ t.alloc ∧ bPhase (t.obj 0) = false ∧ 0 + 1 ≤ t.alloc ∧ t.worst 0 1 ≠ .empty) = true ∧
    (copying.team 1).all (fun t => 0x80 + 1 ≤ t.alloc ∧ t.worst 0x80 1 = .empty) = true := by decide +kernel

/-- Two groups of the team on the first unit, partitions 0 and 1, slots 2: the gang list of the manual's example. S4 and S5 hold
its gang register, S6 a pitch. Group 2 waits at the latch where `waits` says so. -/
def ganged (waits : Bool) (f : Group → Group) : State :=
  let r : DWord := 0x00120202
  let s := copying
  { s with
    grp := f { s.grp with slot := 2, gang := some r, exec := 3, alloc := 64, s := [(4, 0x00120202), (6, 256)] }
    others := [{ s.grp with
      id := 2, part := 1, slot := 2, exec := 3, alloc := 64, gang := some r
      wait := if waits then some (.latch 0 1 false 0) else none, active := false }] }

theorem wit_MatrixWorkIsQueued :
    (let s := ganged false id
     let g := s.grp
     g.retry = none ∧ g.qfences = [] ∧ s.gangLegal g (g.spairSrc 4) = true ∧ g.gang = some 0x00120202 ∧
     (7 : BitVec 3).toNat < s.tileLimit g ∧ g.vecFault [rd 0, rdRun 1 32] = none ∧
     8 * (7 : BitVec 3).toNat < s.tileRows g ∧ g.vecFault [wrRun 48 16] = none ∧
     (g.spairSrc 4).toNat < 2 ^ 32 ∧ (0x40000 : DWord).toNat % 16 = 0 ∧ (g.ssrc 6).toNat % 16 = 0 ∧ 256 ≤ (g.ssrc 6).toNat ∧
     (s.team g.team).isSome = true ∧ g.nextBatch < 16 ∧ g.batches = [] ∧ g.record 4 = none) ∧
    (let g := (ganged false fun g => { g with nextBatch := 17, batches := [⟨16, [5]⟩] }).grp
     (∀ b ∈ g.batches, g.nextBatch - 16 < b.num) ∧ 16 < g.nextBatch ∧ 16 % 16 = (0 : BitVec 4).toNat ∧ g.nextBatch ≤ 16 + 16 ∧
     ∃ b ∈ g.batches, b.num ≤ 16) ∧
    (ganged false fun g => { g with records := [(4, some ⟨11, 0x40000⟩)] }).grp.record 4 = some ⟨11, 0x40000⟩ ∧
    dNring ((ganged false id).descOf (ganged false id).grp) = 0 ∧
    (let s : State := { ganged false id with launches := [{ id := 1, seqno := 1, vd := 0, desc := 2 * 2 ^ 220 }] }
     dNring (s.descOf s.grp) ≠ 0 ∧ s.needleAt s.grp = gangPos 0x00120202 ∧ s.grp.queue 4 = []) ∧
    (let s : State := { ganged false id with teams := (ganged false id).teams.map fun t => { t with needles := [(0, 1)] } }
     s.needleAt s.grp ≠ gangPos 0x00120202) := by decide +kernel

/-- The group at the latch, with or without the other. -/
def latched (waits : Bool) : State :=
  ganged waits fun g => { g with wait := some (.latch 0 1 false 0), active := false }

theorem wit_MatrixWorkIsQueued_latch :
    (let p := latched false
     ((p.grp :: p.others.filter fun w => p.awaits w p.grp).map p.latchMembers).all (·.isNone) = true) ∧
    (let p := latched true
     (p.latchMembers p.grp).map (·.map (·.id)) = some [1, 2] ∧
     (∀ m ∈ p.groups, m.gang = p.grp.gang ∧ m.wait = some (.latch 0 1 false 0)) ∧
     (p.groups.flatMap Group.formatWords).all (· = 0) = true ∧ p.grp.formatWords ≠ [] ∧ formatLegal 0 = true) := by decide +kernel

/-- A matrix queue with this operation at its head. -/
def matrixOp (k : OpKind) : State := ganged false fun g => { g with queues := [(4, [⟨3, k⟩])] }

/-- Panels whose first row and column are these words and 1.0. -/
def panelsOf (xs : List Word) : List LaneVec :=
  (Vector.ofFn fun i => xs.getD i.val 0) :: List.replicate 15 zeroVec ++ (vec 0x3F800000 :: List.replicate 15 zeroVec)

/-- The operands of the products of row m and column n of those panels, by the format of R231. -/
def operand (ps : List LaneVec) (w base r k : Nat) : Nat :=
  ((List.range 8).map fun l => ((ps.getD (base + r / 4) zeroVec).lane (8 * (r % 4) + l)).toNat * 2 ^ (32 * l)).sum / 2 ^ (w * k) % 2 ^ w

theorem wit_MatrixOperationsEnterTheirUnit_values :
    formatLegal 0 = true ∧ formatLegal 0x155 = true ∧ formatLegal 0x277 = true ∧ 63 < 64 ∧
    (let product := fun (xs : List Word) (k : Nat) =>
       (fp32.decode (operand (panelsOf xs) 32 0 0 k)).mul (fp32.decode (operand (panelsOf xs) 32 16 0 k))
     (∀ k ∈ List.range (256 / 32), (fp32.decode (operand (panelsOf [0x40490FDB]) 32 0 0 k)).finite = true ∧
       (fp32.decode (operand (panelsOf []) 32 16 0 k)).finite = true) ∧
     product [0x7FC00000] 0 = .nan ∧
     (product [0xFF800000, 0x7F800000] 0 = .inf true ∧ product [0xFF800000, 0x7F800000] 1 = .inf false) ∧
     (product [0x7F800000] 0 = .inf false ∧ ∀ k ∈ List.range (256 / 32), product [0x7F800000] k ≠ .nan ∧
       product [0x7F800000] k ≠ .inf true)) := by decide +kernel

theorem wit_MatrixOperationsEnterTheirUnit :
    (let o : GangOp := { id := 5, unit := 0, split := false, tile := 0, clr := false, fmt := 0, team := 1, pos := 0, members := [⟨1, 3, []⟩] }
     let s : State := { matrixOp (.gang 5) with gangOps := [o] }
     s.gangOps.find? (fun x => x.id = o.id) = some o ∧ s.gangReady o = true) ∧
    (let g := (matrixOp (.mdrain 16 7 7)).grp; g.saved = false ∧ g.queue 4 = ⟨3, .mdrain 16 7 7⟩ :: []) ∧
    (matrixOp (.mzero true 0)).grp.queue 4 = ⟨3, .mzero true 0⟩ :: [] ∧
    (let t : StoreTile := { addr := 0, pitch := 256, tile := 0, add := false, conv := 0, scratch := true, i32 := false }
     let s := matrixOp (.mstore t)
     (match s.tilePlaces s.grp t (t.parts (s.tileRows s.grp)) [] with | .places _ => true | _ => false) = true) ∧
    (let t : StoreTile := { addr := 0x80000000000, pitch := 256, tile := 0, add := false, conv := 0, scratch := false, i32 := false }
     let s := matrixOp (.mstore t)
     s.tilePlaces s.grp t (t.parts (s.tileRows s.grp)) [] = .failed 0x80000000000) ∧
    (let t : StoreTile := { addr := 0x40000000, pitch := 256, tile := 0, add := false, conv := 0, scratch := false, i32 := false }
     let s := { matrixOp (.mstore t) with tlb := remoteTlb }
     (match s.tilePlaces s.grp t (t.parts (s.tileRows s.grp)) [] with
       | .places ps => decide (ps[1]? = some (0, 1, .phys 0x1000000000010)) | _ => false) = true ∧ s.isRemote 0x1000000000010 = true) ∧
    (let s := ganged false fun g => { g with wait := some .npass }
     s.grp.wait = some .npass ∧ s.grp.live = true ∧ s.grp.queue 4 = [] ∧ s.grp.gang = some 0x00120202 ∧
     s.needleAt s.grp = gangPos 0x00120202) := by decide +kernel

/-- An anytime launch whose version object stands at 0x50000 and its header, with these fields, at 0x50040: three slots of
0x1000 bytes at 0x60000. -/
def versioned (h : Nat) (f : Group → Group) (k : Launch → Launch) : State :=
  let s := copying
  let o := 0x60000 + 0x50040 * 2 ^ 64 + 0x1000 * 2 ^ 128 + 3 * 2 ^ 208 + 2 ^ 210
  { s with
    grp := f { s.grp with s := [(2, 0x50000), (4, 1)] }
    mem := putBytes s.mem 0x50000 (toBytes 64 o ++ toBytes 64 h)
    launches := [k { id := 1, seqno := 1, vd := 0, desc := 2 ^ 192 + 0x50000 * 2 ^ 608 + 2 ^ 128 }] }

/-- A header with nothing sealed and no pass open, and one whose pass 0 is open. -/
def noPass : Nat := 0xFFFFFFFF + 0xFFFFFFFF * 2 ^ 256 + 0xFFFFFFFFFFFFFFFFFFFFFFFF * 2 ^ 384
/-- Pass 0 open, nothing sealed. -/
def pass0 : Nat := 0xFFFFFFFF + 0xFFFFFFFFFFFFFFFFFFFFFFFF * 2 ^ 384
/-- Version 0 sealed in slot 1 with quality 9, a pin on slot 1. -/
def sealed0 : Nat := 9 * 2 ^ 32 + 2 ^ 48 + 2 ^ 208 + 0xFFFFFFFF * 2 ^ 256 + 0xFFFFFFFFFFFFFFFFFFFFFFFF * 2 ^ 384

theorem wit_PassesOpenAndSeal :
    (let s := versioned noPass id id
     s.grp.retry = none ∧ s.grp.launch = some 1 ∧ (s.launch 1).isSome = true ∧ (s.team s.grp.team).isSome = true ∧
     (s.launch 1).all (fun x =>
       let o := s.devRead x.vd (dVobj x.desc) 64
       let h := s.devRead x.vd (vHdraddr o) 64
       dAnytime x.desc ∧ dPlan x.desc = false ∧ x.cut = none ∧ x.finishNow = false ∧ hState h = 0 ∧ hPasscur h = 0xFFFFFFFF ∧
       x.passes.length = 0 ∧ workingSlot o h = some 0 ∧ (s.grp.passno + 1).toNat = 0 ∧ x.passes[0]? = none) = true) ∧
    (copying.launch 1).all (fun x => dAnytime x.desc = false) = true ∧
    (∀ k ∈ [[], [5]],
      let s := (versioned pass0 id id).modVd 0 fun d => { d with unrestored := k }
      (s.launch 1).all (fun x => s.headerStalls x.vd (dVobj x.desc) = !k.isEmpty ∧ dAnytime x.desc) = true) ∧
    (versioned pass0 id id).grp.held 0 = false ∧
    ({ (versioned pass0 id id).grp with
      queues := [(1, [⟨2, .copy [{ src := .scratch 0, dst := .scratch 64, size := 16 }] none⟩])]
      qfences := [{ seq := 3, mask := 5 }] } : Group).held 0 = true ∧
    ((versioned noPass id fun x => { x with passes := [(0x60000, 0)] }).launch 1).all (fun x => x.passes[0]? = some (0x60000, 0)) = true ∧
    ((versioned noPass id fun x => { x with finishNow := true }).launch 1).all (fun x => x.passes[0]? = none ∧ x.finishNow) = true ∧
    (let s := versioned pass0 id id; s.openPass 1 = s ∧ (s.launch 1).all (fun x => x.passes[0]? = none ∧ x.finishNow = false) = true) ∧
    (((versioned noPass id id).openPass 1).launch 1).all (fun y => y.passes[0]?.isSome) = true ∧
    (versioned pass0 (fun g => { g with wait := some .pass }) id).grp.wait = some .pass ∧
    (let s := versioned pass0 (fun g => { g with passno := 0 }) id
     let h := s.headerOf s.grp
     hPasscur h ≠ 0xFFFFFFFF ∧ s.grp.passno.toNat = hPasscur h ∧ (s.team s.grp.team).all (fun t => t.sealed ≠ some 0) = true ∧
     hArrived h + 1 < 2 ^ 32 ∧ hWorkslot h < 3 ∧ (s.vd 0).replay = false ∧
     (s.launch 1).all (fun x => s.launch x.id = some x ∧ hArrived h + 1 = dTeams x.desc) = true) ∧
    ((versioned pass0 id fun x => { x with desc := x.desc + 2 ^ 128 }).launch 1).all (fun x => 0 + 1 ≠ dTeams x.desc) = true := by
  decide +kernel

theorem wit_VersionsAreReadAndPinned :
    (∀ h ∈ [noPass, sealed0], ∀ s ∈ [(versioned h id id).loadsFirst, (versioned h id id).drainOwn],
      let o := 0x60000 + 0x50040 * 2 ^ 64 + 0x1000 * 2 ^ 128 + 3 * 2 ^ 208 + 2 ^ 210
      s.grp.retry = none ∧ s.readVa s.grp 0 (s.grp.spairSrc 2) 64 = .value 0x50000 o ∧ s.readVa s.grp 1 (vHdraddr o) 64 = .value 0x50040 h ∧
      s.translate s.grp.agent s.grp.vd .load (vHdraddr o) = .ok 0x50040 ∧
      s.translate s.grp.agent s.grp.vd .store (vHdraddr o) = .ok 0x50040 ∧ s.grp.pend = [] ∧ s.grp.storeQ = [] ∧ s.grp.held 0 = false) ∧
    (let o := 0x60000 + 0x50040 * 2 ^ 64 + 0x1000 * 2 ^ 128 + 3 * 2 ^ 208 + 2 ^ 210
     readable o sealed0 = true ∧ readable o noPass = false ∧ hState noPass = 0 ∧ 1 ≤ hQuality sealed0 ∧ 1 < vNslots o ∧
     (let g := (versioned sealed0 (fun g => { g with
       queues := [(1, [⟨2, .copy [{ src := .scratch 0, dst := .scratch 64, size := 16 }] none⟩])]
       qfences := [{ seq := 3, mask := 5 }] }) id).grp
      g.held 0 = true) ∧
     hPin sealed0 1 ≠ 0 ∧ hPin sealed0 0 = 0 ∧ vNslots o ≤ 3) := by decide +kernel

/-- Two groups of a launch, with GROUPIDs 0 and 1, and its token here. -/
def twoGroups (token : Nat × Nat) : State :=
  let g := { copying.grp with launch := some 1, groupid := 0 }
  { copying with
    grp := g, others := [{ g with id := 2, groupid := 1 }], launches := copying.launches.map fun x => { x with token := token } }

/-- Does one logical place come before another? -/
def earlier (a b : Nat × Nat) : Bool := a.1 < b.1 || (a.1 = b.1 && a.2 < b.2)

theorem wit_LimitsTokensAndEnergy_token :
    (∀ e ∈ [((0, 0), 2), ((0, 1), 1), ((5, 0), 1)],
      let s := twoGroups e.1
      let live := s.groups.filter fun g => g.launch = some 1 && g.live
      (s.launch 1).isSome = true ∧ (live.filter fun w => w.id = e.2).all (fun w =>
        let k := (w.teamid, w.groupid)
        (earlier e.1 k && live.all fun g => !earlier e.1 (g.teamid, g.groupid) || !earlier (g.teamid, g.groupid) k) ||
          (live.all fun g => !earlier e.1 (g.teamid, g.groupid)) && live.all fun g => !earlier (g.teamid, g.groupid) k) = true ∧
      (live.any fun w => w.id = e.2) = true) ∧
    (let s := { twoGroups (0, 0) with grp := {}, others := [] }
     (s.launch 1).isSome = true ∧ s.groups.all (fun g => !g.live) = true) := by decide +kernel

theorem wit_LimitsTokensAndEnergy :
    (let s := { copying with launches := [{ id := 1, seqno := 1, vd := 0, desc := 2 * 2 ^ 416 + 5 * 2 ^ 480, startClk := some 0, energy := ⟨5, 1⟩ }] }
     (s.launch 1).isSome = true ∧ (s.vd 0).replay = false ∧
     (s.launch 1).all (fun x => x.startClk = some 0 ∧ dTimelim x.desc = 2 ∧ dEnergylim x.desc * x.energy.den ≤ x.energy.num ∧
       x.cut = none ∧ dAnytime x.desc = false) = true ∧
     s.clock < 0 + 2 * 1500 ∧ 0 + 2 * 1500 ≤ { s with clock := 3000 }.clock) ∧
    (let s : State := { copying with launches := [{ id := 1, seqno := 1, vd := 0, desc := 2 ^ 128, nextTeam := 1 }] }
     (s.launch 1).all (fun x => s.lastEnded x = false ∧ x.energy.num < 5 * x.energy.den) = true ∧
     ({ s with grp := { s.grp with live := false } }.launch 1).all
       (fun x => { s with grp := { s.grp with live := false } }.lastEnded x = true) = true) ∧
    (∀ h ∈ [noPass, pass0, setField noPass 50 2 1],
      let s := versioned h id id
      s.grp.launch = some 1 ∧ (∀ g ∈ s.groups, g.launch = some 1 → g.queues = [] ∧ g.storeQ = []) ∧
      (s.launch 1).all (fun x => x.cut = none ∧ dAnytime x.desc ∧ s.lastEnded x = false ∧ (s.vd x.vd).reclog.enabled = false ∧
        x.waitCut = none ∧ s.headerStalls x.vd (dVobj x.desc) = false) = true) ∧
    ((0x32, 3) ∈ [(0x30, 1), (0x31, 2), (0x32, 3)]) ∧
    ({ copying.grp with
      queues := [(1, [⟨2, .copy [{ src := .scratch 0, dst := .scratch 64, size := 16 }] none⟩])]
      qfences := [{ seq := 3, mask := 5 }] } : Group).held 0 = true ∧ copying.grp.held 0 = false ∧
    copying.grp.retry = none ∧ 5 < (6 : BitVec 7).toNat ∧ 125 < (126 : BitVec 7).toNat ∧ (5 : BitVec 7).toNat ≤ 5 ∧
    copying.isSplit copying.grp = false ∧
    (copying.launch 1).all (fun x => dDet x.desc = false) = true ∧
    (let s := { copying with launches := [{ id := 1, seqno := 1, vd := 0, desc := 2 ^ 194 }] }
     (s.launch 1).all (fun x => dDet x.desc ∧ x.token = (s.grp.teamid, s.grp.groupid) ∧ x.id = 1) = true ∧ s.grp.committed = false ∧
     s.grp.launch = some 1 ∧ { s.grp with groupid := 1 }.groupid ≠ 0 ∧
     { s.grp with committed := true }.committed = true ∧ s.grp.pend = [] ∧ s.grp.storeQ = []) := by decide +kernel

/-- An object at 0x50000 whose requests are 4 bytes and its replies 0, and one that is BROKEN with no request; COUNT 1. -/
def object (req broken : Nat) : Nat :=
  req * 2 ^ 160 + 2 ^ 170 + 2 ^ 176 + broken * 2 ^ 193 + 2 ^ 196 + 0x50000 * 2 ^ 288
/-- A node at 0x50040 whose records are 4 bytes, homed at core 0. -/
def node0 : Nat := 0x30004 + 4 * 2 ^ 72 + 2 ^ 77 + 2 ^ 83 + 2 ^ 96

/-- The machine with this object, that node, and device 0 owning quadrant 0 of core 0; S0 names the object, S2 the node. -/
def skeined (o : Nat) (f : Group → Group) : State :=
  let s := copying
  { s with
    grp := f { s.grp with s := [(0, 0x50000), (2, 0x50040), (4, 1)], v := [(8, vec 0x40000), (10, vec 7)] }
    mem := putBytes s.mem 0x50000 (toBytes 64 o ++ toBytes 64 node0), quads := [(0, .whole 0)] }

theorem wit_SkeinInstructionsPost :
    (∀ o ∈ [object 4 0, object 0 1],
      let s := (skeined o id).loadsFirst
      let g := s.grp
      g.retry = none ∧ g.remote = none ∧ g.qfences = [] ∧ (g.spairSrc 0).toNat % 64 = 0 ∧ s.readVa g 0 (g.spairSrc 0) 64 = .value 0x50000 o ∧
      s.translate g.agent g.vd .load (g.spairSrc 0) = .ok 0x50000 ∧ s.alias 0x50000 = 0x50000 ∧ s.isDet g = false ∧
      inHost 0x50000 = false ∧ inPeer 0x50000 = false ∧ objectLegal o = true ∧ oRemote o = false ∧ oRpl o = 0) ∧
    oBroken (object 0 1) = true ∧ oReq (object 0 1) = 0 ∧ oBroken (object 4 0) = false ∧ 0 < oReq (object 4 0) ∧
    31 + oReq (object 4 0) / 4 ≤ 112 ∧ (skeined 0 id).grp.allocated ((List.range (oReq (object 4 0) / 4)).map (31 + ·)) ∧
    (let s := (skeined 0 id).loadsFirst
     let g := s.grp
     s.readVa g 0 (g.spairSrc 2) 64 = .value 0x50040 node0 ∧ nodeLegal node0 = true ∧ s.holdsCore g.vd (s.coreAt (nHome node0)) = true ∧
     g.allocated ((List.range (nRec node0 / 4)).map (31 + ·)) ∧ 0 < nRec node0 ∧ g.allocated [8 + 1] ∧ g.exec ≠ 0 ∧
     (∀ i ∈ lanesOf g.exec, (g.lane 8 i).toNat % 32 = 0)) ∧
    (let s := { skeined (object 0 0) (fun g => { g with kind := .combiner 3 }) with
       skeins := [(3, { state := .run, desc := 0x50000, batch := [{ words := [], token := 7 }] })] }
     s.grp.kind = .combiner 3 ∧ oRpl (s.num (s.skein 3).desc 64) = 0 ∧ s.grp.allocated [10] ∧
     (lanesOf s.grp.exec).all (fun i => (s.skein 3).batch.any fun r => r.token = s.grp.lane 10 i) = true ∧
     (lanesOf s.grp.exec).all (fun i => (s.skein 3).batch.all fun r => r.token ≠ s.grp.lane 8 i) = true) ∧
    (let s := { skeined (object 0 0) (fun g => { g with kind := .combiner 3 }) with
       skeins := [(3, { state := .run, desc := 0x50000, batch := [{ words := [], token := 7, reply := true }] })] }
     s.grp.queues = [] ∧ s.grp.pend = [] ∧ s.grp.storeQ = [] ∧ s.grp.pins = [] ∧ (s.skein 3).held = [] ∧
     (s.skein 3).batch ≠ [] ∧ ∀ r ∈ (s.skein 3).batch, r.peer = false) ∧
    objectLegal 0 = false ∧ nodeLegal 0 = false ∧ (skeined 0 id).grp.kind = .launch := by
  simp only [Group.allocated]
  decide +kernel

theorem wit_SkeinInstructionsPost_replies :
    (∃ r ∈ ({ grp0 with queues := [(1, [⟨2, .copy [{ src := .scratch 0, dst := .scratch 64, size := 16 }] none⟩])] } : Group).queues,
      r.2 ≠ []) ∧
    (let o := object 4 0 + 4 * 2 ^ 165
     objectLegal o = true ∧ oBroken o = false ∧ 0 < oReq o ∧ 31 + oReq o / 4 ≤ 112 ∧ 0 < oRpl o ∧ 30 + oRpl o / 4 ≤ 112 ∧
     oRpl o % 4 = 0 ∧ (skeined o id).grp.allocated ((List.range (oRpl o / 4)).map (30 + ·))) := by
  simp only [Group.allocated]
  decide +kernel

/-- A record. -/
def rec0 : SkRecord := { words := [5] }

theorem wit_SkeinsFireAndAnswer :
    (let l : LaneRecord := { lane := 1, words := [5] }
     let s := skeined (object 4 0) fun g => { g with queues := [(6, [⟨3, .post 0x50000 0x50000 false 0 [l, l]⟩])] }
     s.grp.saved = false ∧ s.grp.queue 6 = ⟨3, .post 0x50000 0x50000 false 0 [l, l]⟩ :: [] ∧ inPeer 0x50000 = false ∧ [l] ≠ [] ∧
     s.postWaits s.grp 0 = false ∧ inPeer 0x8000000000000 = true) ∧
    (let l : LaneRecord := { lane := 1, words := [5] }
     let s := skeined (object 4 0) fun g => { g with queues := [(6, [⟨3, .post 0x50000 0x50000 false 7 [l, l]⟩])] }
     let s : State := { s with
       launches := [{ id := 1, seqno := 1, vd := 0, desc := 2 ^ 194 }]
       others := [{ s.grp with id := 2, queues := [(6, [⟨2, .post 0x50000 0x50000 false 6 [l]⟩])] }] }
     s.postWaits s.grp 7 = true) ∧
    (let s := { skeined (object 4 0) id with skeins := [(3, { state := .fill, desc := 0x50000, held := [rec0], deadline := some 0 })] }
     let x := s.skein 3
     s.skReplay x = false ∧ x.state = .fill ∧ max 1 (skCount x.node (s.num x.desc 64)) ≤ x.held.length ∧ x.deadline = some 0 ∧
     0 ≤ s.clock ∧ ∀ r ∈ x.held, r.det = false) ∧
    (let s := { skeined (object 4 0 + 2 ^ 170) id with skeins := [(3, { state := .fill, desc := 0x50000, held := [rec0], deadline := some 9 })] }
     let x := s.skein 3
     x.held ≠ [] ∧ x.held.length < max 1 (skCount x.node (s.num x.desc 64)) ∧ x.expired = false ∧ s.clock < 9) ∧
    (let s := { skeined 0 id with skeins := [(3, { state := .fire, node := true, desc := 0x50040, batch := [rec0] })] }
     let x := s.skein 3
     x.state = .fire ∧ x.node = true ∧ s.ownsPart x.vd (s.coreAt (3 / 64)) 7 = true ∧
     s.roomAt (s.coreAt (3 / 64)) 7 15 (16 * skRegs x.node (s.num x.desc 64)) = true ∧ (s.vd x.vd).pstate = .awake ∧
     hasLane (s.batchGroup 3 0 7 15 x node0).exec 0 = true) ∧
    (let s := { skeined 0 id with skeins := [(3, { state := .run, desc := 0x50000, gid := 1, firstIssue := some 0 })] }
     (s.skein 3).state = .run ∧ (s.skein 3).firstIssue = some 0 ∧ s.clock < 0 + 100000 ∧ 0 + 100000 ≤ { s with clock := 100000 }.clock) ∧
    (let g := (skeined 0 fun g => { g with wait := some (.reply 0x50000 0x8000000000000 (.vec 7 1) 4 2 0 []) }).grp
     g.wait = some (.reply 0x50000 0x8000000000000 (.vec 7 1) 4 2 0 []) ∧ inPeer 0x8000000000000 = true ∧ hasLane 2 1 = true ∧
     g.saved = false ∧ g.queue 6 = []) ∧
    (∀ i < 32, hasLane 2 i = true → i = 1) ∧
    (let l : DepLane := { lane := 1, block := 0x50080, words := [] }
     let s := skeined 0 fun g => { g with queues := [(6, [⟨3, .signal false 0 [l, l]⟩])] }
     let s := { s with mem := putBytes s.mem 0x50080 (toBytes 32 2) }
     s.grp.queue 6 = ⟨3, .signal false 0 [l, l]⟩ :: [] ∧
     (match s.blockPlace s.grp l.block 8 with | .inr pa => decide (pa = 0x50080) | _ => false) = true ∧
     s.isRemote 0x50080 = false ∧ inHost 0x50080 = false ∧ bReserved (s.num 0x50080 32) = true ∧ s.badRange 0x50080 32 = false) ∧
    (1 ∈ ({ marks := [1] } : State).marks ∧ 2 ∉ ({ marks := [1] } : State).marks) := by decide +kernel

theorem wit_SkeinsFireAndAnswer_fire :
    (let held := fun (n : Nat) (e : Bool) => (List.replicate n rec0) ++ [{ rec0 with det := true, postEnd := e }]
     let s := fun (hs : List SkRecord) (ex : Bool) => { skeined (object 4 0 + 2 ^ 172) id with
       skeins := [(3, { state := .fill, desc := 0x50000, held := hs, expired := ex })] }
     (let t := s (held 1 true) false
      let x := t.skein 3
      max 1 (skCount x.node (t.num x.desc 64)) = 5 ∧ x.held.length = 2 ∧
      (x.held[1]?.all fun r => r.det && r.postEnd) = true ∧ (x.held[0]?.all fun r => r.det) = false) ∧
     (let t := s [rec0, rec0] true
      let x := t.skein 3
      x.held ≠ [] ∧ x.held.length < 5 ∧ x.held.all (fun r => !r.det) = true ∧ x.expired = true ∧ t.skReplay x = false) ∧
     ∀ e ∈ [false, true],
       let t := s (held 1 false) e
       let x := t.skein 3
       x.held.any (fun r => r.det) = true ∧ x.held ≠ [] ∧ x.held.length < 5 ∧ x.held.all (fun r => !(r.det && r.postEnd)) = true ∧ x.expired = e ∧ t.skReplay x = false) ∧
    (∀ r ∈ [rec0, { rec0 with det := true }],
      let s := { skeined (object 4 0) id with skeins := [(3, { state := .fire, desc := 0x50000, batch := [r] })] }
      let x := s.skein 3
      x.state = .fire ∧ x.node = false ∧ (s.vd x.vd).replay = false ∧ (s.vd x.vd).reclog.enabled = false ∧
      s.ownsPart x.vd (s.coreAt (3 / 64)) 7 = true ∧ s.roomAt (s.coreAt (3 / 64)) 7 15 (16 * skRegs false (s.num x.desc 64)) = true ∧
      (s.vd x.vd).pstate = .awake ∧ x.batch.length ≤ 32) := by decide +kernel

theorem wit_SkeinsFireAndAnswer_publish :
    let at' := fun (va : DWord) (b : Nat) =>
      let l : DepLane := { lane := 1, block := va, words := [5] }
      let s := skeined 0 fun g => { g with queues := [(6, [⟨3, .enqDep 0x50040 1 [l, l]⟩])] }
      { s with mem := putBytes s.mem 0x50080 (toBytes 32 b), tlb := remoteTlb }
    let count := fun (b : Nat) => (BitVec.ofNat 32 (field (setField b 0 32 (field b 0 32 + 1)) 0 32) : Word).toInt
    (let l : DepLane := { lane := 1, block := 0x50080, words := [5] }
     (at' 0x50080 0).grp.queue 6 = ⟨3, .enqDep 0x50040 1 [l, l]⟩ :: [] ∧ (at' 0x50080 0).grp.saved = false ∧ [l] ≠ []) ∧
    (match (at' 0x80000000000 0).blockPlace (at' 0x80000000000 0).grp 0x80000000000 32 with | .inl (.failed _ _) => true | _ => false) = true ∧
    (match (at' 0x40000000 0).blockPlace (at' 0x40000000 0).grp 0x40000000 32 with
      | .inr pa => (at' 0x40000000 0).isRemote pa | _ => false) = true ∧
    (∀ b ∈ [2 ^ 56, 2 ^ 63, 0, 0xFFFFFFFF],
      let s := at' 0x50080 b
      (match s.blockPlace s.grp 0x50080 32 with | .inr pa => decide (pa = 0x50080) | _ => false) = true ∧
      s.isRemote 0x50080 = false ∧ s.num 0x50080 32 = b) ∧
    bReserved (2 ^ 56) = false ∧ bReserved (2 ^ 63) = true ∧ bPub (2 ^ 63) = true ∧ bReserved 0 = true ∧ bPub 0 = false ∧
    bReserved 0xFFFFFFFF = true ∧ bPub 0xFFFFFFFF = false ∧ 0 < count 0 ∧ count 0xFFFFFFFF ≤ 0 ∧
    (at' 0x50080 0).devTranslate 0 .load 0x50040 = .ok 0x50040 := by decide +kernel

theorem wit_SkeinsFireAndAnswer_arrive :
    let w : Waiting := { core := 0, node := false, desc := 0x50000, item := rec0 }
    let n : Waiting := { core := 0, node := true, desc := 0x50040, item := { rec0 with vd := 0 } }
    let bound := fun (s : State) (w : Waiting) (k : Nat) =>
      decide ((s.skein k).state ≠ .free) && (s.skein k).node = w.node && (s.skein k).desc = w.desc
    let filled := fun (node : Bool) (desc : Nat) (held v : Nat) (m : Nat) =>
      (m, ({ state := .fill, node := node, desc := desc, vd := v, held := List.replicate held rec0 } : Skein))
    let owned := fun (sk : List (Nat × Skein)) =>
      { skeined (object 4 0) id with skeins := sk, vds := nset {} (skeined (object 4 0) id).vds 0 { (skeined (object 4 0) id).vd 0 with vaultsHeld := [0] } }
    (∀ sk ∈ [[filled false 0x50000 0 0 3], [filled false 0x50000 32 0 3], [], (List.range 64).map (filled false 0x60000 1 0)],
      let s := owned sk
      s.waiting = [] ∧ oBroken (s.num w.desc 64) = false ∧ s.holdsCore 0 (s.coreAt w.core) = true ∧ 3 / 64 = w.core ∧ w.node = false) ∧
    (bound (owned [filled false 0x50000 0 0 3]) w 3 = true ∧ ∀ m < 3, bound (owned [filled false 0x50000 0 0 3]) w m = false) ∧
    ((owned [filled false 0x50000 0 0 3]).skein 3).held.length < 32 ∧ 32 ≤ ((owned [filled false 0x50000 32 0 3]).skein 3).held.length ∧
    (bound (owned [filled true 0x50040 0 5 3]) n 3 = true ∧ ((owned [filled true 0x50040 0 5 3]).skein 3).vd ≠ n.item.vd ∧
      (owned [filled true 0x50040 0 5 3]).holdsCore n.item.vd ((owned []).coreAt n.core) = true) ∧
    (∀ m < 64, bound (owned []) w m = false ∧ bound (owned ((List.range 64).map (filled false 0x60000 1 0))) w m = false ∧
      ((owned ((List.range 64).map (filled false 0x60000 1 0))).skein m).state ≠ .free) ∧
    ((owned []).skein 0).state = .free := by decide +kernel

/-- A context at 0x50000 with one layer of 128 bytes from 0x60000, its entry at 0x50040 with this low word, its window in the
region at 0x100000; named by S0 with layer S2. -/
def layered (low : Nat) (pins : List (DWord × Nat × Nat)) (c : Ctx → Ctx) : State :=
  let s := copying
  let ctx := 2 ^ 32 + 0x50040 * 2 ^ 256 + 2 ^ 352 + 0x100000 * 2 ^ 384
  let entry := low + 128 * 2 ^ 96 + 0x100000 * 2 ^ 128 + 0x60000 * 2 ^ 192
  { s with
    grp := { s.grp with s := [(0, 0x50000), (2, 0)] }
    mem := putBytes s.mem 0x50000 (toBytes 64 ctx ++ toBytes 32 entry)
    ctxs := [c { vd := 0, va := 0x50000, launches := [1] }]
    launches := s.launches.map fun x => { x with pins := pins }
    vds := nset {} s.vds 0 { s.vd 0 with vaultFree := [0x70000] } }

theorem wit_LayersAreStreamed :
    (let s := (layered 0 [] id).loadsFirst
     let g := s.grp
     let ea := entryVa (s.devRead g.vd 0x50000 64) 0
     g.retry = none ∧ s.layerNamed 0 = some (0, 0x50000, 0) ∧ (match s.readVa g 0 ea 32 with | .value _ e => decide (lState e = 0) | _ => false) = true ∧
     s.holdsPin g 0x50000 0 = false ∧ g.held 0 = false ∧ g.launch = some 1 ∧ lState (s.layerEntry g.vd (s.devRead g.vd 0x50000 64) 0) = 0) ∧
    (let s := layered (4 * 2 ^ 33 + 2 * 2 ^ 36) [] id
     (match s.readVa s.grp 0 (entryVa (s.devRead s.grp.vd 0x50000 64) 0) 32 with | .value _ e => decide (lState e = 4) | _ => false) = true) ∧
    (let s := layered (2 * 2 ^ 33 + 2 ^ 48) [(0x50000, 0, 1)] id
     s.holdsPin s.grp 0x50000 0 = true ∧ s.grp.pend = [] ∧ s.grp.storeQ = [] ∧
     (match s.readVa s.grp 0 (entryVa (s.devRead s.grp.vd 0x50000 64) 0) 32 with
      | .value _ e => decide (lState e = 2 ∧ lPin e < 0xFFFF) | _ => false) = true) ∧
    (let s := layered 0 [] id
     s.ctxs[0]?.all (fun c => c.arriving = none ∧ c.launches ≠ [] ∧ (s.vd c.vd).pstate = .awake ∧ s.nextLayer c = some (0, false) ∧
       s.windowPlace c 1 = some 0x100000 ∧ c.pagesUsed + 1 ≤ cVwsize (s.ctxDesc c) ∧ 1 ≤ s.poolSize c.vd) = true) ∧
    (let s := layered (2 ^ 33) [] fun c => { c with arriving := some 0, frames := [(0, [0x70000])] }
     s.ctxs[0]?.all (fun c => c.arriving == some 0 && (s.parkedOn c 0).isEmpty &&
       match s.fetch c.vd (s.ctxDesc c) (s.layerEntry c.vd (s.ctxDesc c) 0) 0 with | .image bs => bs.length == 128 | _ => false) = true) ∧
    (let s := layered (2 ^ 33 + 0x80000000000 * 2 ^ 192) [] fun c => { c with arriving := some 0, frames := [(0, [0x70000])] }
     s.ctxs[0]?.all (fun c => (s.parkedOn c 0).isEmpty &&
       match s.fetch c.vd (s.ctxDesc c) (s.layerEntry c.vd (s.ctxDesc c) 0) 0 with | .failed n => n == 2 | _ => false) = true) ∧
    (∀ e ∈ [(0, true), (0x80000000000 * 2 ^ 192, false)],
      let s := layered (2 ^ 33 + e.1) [] fun c => { c with arriving := some 0, frames := [(0, [0x70000])], demand := [(1, 0)] }
      let s := { s with grp := { s.grp with wait := some (.layer 0x50000 0 5 false), active := false } }
      s.ctxs[0]?.all (fun c => c.arriving == some 0 && (s.parkedOn c 0).map (fun g => (g.id, g.saved)) == [(1, false)] &&
        match s.fetch c.vd (s.ctxDesc c) (s.layerEntry c.vd (s.ctxDesc c) 0) 0 with | .image _ => e.2 | .failed _ => !e.2 | _ => false) = true) ∧
    (∀ got ∈ [false, true],
      let s := layered (2 * 2 ^ 33) [] id
      let g := { s.grp with wait := some (.layer 0x50000 0 5 got) }
      let s := { s with grp := g }
      s.group 1 = some g ∧ g.saved = false ∧ s.ctxIndex g.vd 0x50000 = some 0 ∧ ({ g with saved := true } : Group).saved = true) ∧
    (let s := layered 0 [] id
     ({ s with grp := { s.grp with s := [(0, 0x70040)] } } : State).layerNamed 0 = none ∧ (111 : BitVec 7).toNat < 112 ∧
     124 < (125 : BitVec 7).toNat) ∧
    (layered (3 * 2 ^ 33) [] fun c => { c with evicting := [0] }).ctxs[0]?.all (fun c => 0 ∈ c.evicting ∧ 1 ∉ c.evicting) = true := by
  decide +kernel

/-- Supervisor level; S0 names 0x40000, whose 64 KiB page has its own level-4 entry where `table` says so, a ring with one frame
of the device where `ring` says so. -/
def mapping (table valid ring : Bool) (f : Group → Group) : State :=
  let s := copying
  let m := if table then putBytes (putBytes (putBytes s.mem 0x20000 (toBytes 8 0x80001)) 0x80000 (toBytes 8 0x90001)) 0x90020
    (toBytes 8 (if valid then 0x4003D else 0)) else putBytes s.mem 0x20000 (toBytes 8 0)
  let m := putBytes m 0xA0000 (toBytes 8 0xB0000)
  { s with
    grp := f { s.grp with level := .supervisor, s := [(0, 0x40000), (2, 1)] }, mem := m
    vds := nset {} s.vds 0 { s.vd 0 with frames := if ring then { base := 0xA0000, log2n := 12, prod := 1 } else {} } }

theorem wit_MapsAndInvalidations :
    copying.grp.level ≠ .supervisor ∧ goodDest 31 ∧ copying.grp.allocated [31] ∧
    (let g := (mapping true false true id).grp; g.retry = none ∧ g.level = .supervisor ∧ goodDest 127 ∧ g.allocated [127] ∧
      (g.spairSrc 0).toNat / 0x10000 * 0x10000 = 0x40000) ∧
    (let s := mapping true false true id
     let pool := (s.vd 0).frames
     s.entryOf 0 0x40000 = .at 0x90020 ∧ s.num (s.alias 0x90020) 8 % 2 = 0 ∧ pool.log2n ≠ 0 ∧ pool.prod ≠ pool.cons ∧
     s.physOk (pool.base + 8 * (pool.cons.toNat % 2 ^ pool.log2n)) = true) ∧
    (let s := mapping true true true id; s.entryOf 0 0x40000 = .at 0x90020 ∧ s.num (s.alias 0x90020) 8 % 2 = 1) ∧
    (let s := mapping true false false id; s.num (s.alias 0x90020) 8 % 2 = 0 ∧ (s.vd 0).frames.log2n = 0) ∧
    (mapping false false true id).entryOf 0 0x40000 = .absent ∧
    (copying.entryOf 0 0x40000 = .malformed) ∧
    (let s := mapping true false true fun g => { g with wait := some (.map 7 0x40000 none (.vec 3 1) 2) }
     let s := s.modVd 0 fun v => { v with tags := [7] }
     s.grp.id ≠ 0 ∧ s.grp.saved = false ∧ s.hostUp = true ∧ s.grp.vd < 256 ∧ 7 < 2 ^ 32 ∧ 7 ∈ (s.vd 0).tags) ∧
    (let s := mapping true false true fun g => { g with drains := [⟨0x40000, 1⟩] }
     s.grp.drains ≠ [] ∧ ∀ h ∈ s.groups, h.wait = none) ∧
    (let s := mapping true false true fun g => { g with drains := [⟨0x40000, 1⟩] }
     let ps : List LaneLoad := [⟨1, 0x40010, .phys 0x1000000000000⟩]
     let w : Group := { s.grp with id := 2, drains := [], wait := some (.remote true 4 ps 0), drained := true }
     let s := { s with others := [w] }
     let w' : Group := { w with wait := none, remote := some { places := ps } }
     s.grp.drains ≠ [] ∧ w ∈ s.groups ∧ w.id ≠ 0 ∧ w.vd = s.grp.vd ∧ w.saved = false ∧ w.drained = true ∧
     w.wait = some (.remote true 4 ps 0) ∧ w'.wait = none ∧ w'.remote ≠ none ∧
     (⟨0x40000, 1⟩ : DrainRange).overlaps 0x40010 1 = true) ∧
    (let s := mapping true false true fun g => { g with xs := [(1, { valid := true, limit := 64, vbase := 0x48000 })] }
     let t := s.drainRange 0 ⟨0x40000, 1⟩
     (t.grp.xreg 1).valid = true ∧ (⟨0x40000, 1⟩ : DrainRange).overlaps (t.grp.xreg 1).vbase.toNat (t.grp.xreg 1).limit.toNat = true) := by
  simp only [goodDest, Group.allocated]
  decide +kernel

/-- n - 1 groups in the active set of partition 0, beside the first, and one ready behind them; all have a stall count to elapse but
the first, unless `busy` says otherwise. -/
def crowded (n clock : Nat) (busy : Bool) : State :=
  { grp := { grp0 with slot := 0, stallUntil := if busy then 1000 else 0 }, clock := clock
    others := (List.range (n - 1)).map (fun i => { grp0 with id := 2 + i, slot := 1 + i, stallUntil := 1000 }) ++
      [{ grp0 with id := 20, slot := 15, active := false }] }

theorem wit_GroupsAreScheduled :
    (let s := framed 0 fun g => { g with frame := none }
     s.grp.live = true ∧ s.grp.saved = false ∧ s.grp.stopped = false ∧ s.grp.wait = none ∧ s.grp.pc.toNat % 4 = 0 ∧
     s.grp.pc.toNat % 32 ≠ 0 ∧ s.translate s.grp.agent s.grp.vd .fetch (frameBase s.grp.pc) = .ok 0x30000 ∧
     s.badRange 0x30000 32 = false ∧ s.num 0x30000 4 / 2 ^ 29 = 0 ∧ s.num 0x30000 4 % 2 = 0) ∧
    (mach fun g => { g with pausedUntil := 5 }).grp.pausedUntil ≠ 0 ∧
    ((crowded 3 10 false).candidate 0 0 none).map (fun g => g.id) = some 1 ∧
    (let s := crowded 8 64 false
     let act := s.groups.filter fun h => h.live && !h.saved && h.core = 0 && h.part = 0 && h.active
     (s.oldestReady 0 0).map (fun g => g.id) = some 20 ∧ 8 ≤ act.length ∧ nget 0 s.selFree 0 ≤ s.clock ∧
     (s.oldestReady 0 0).all (fun g => g.readySince + 64 ≤ s.clock) = true ∧
     (leastKey (act.map fun h => ([if s.clock < h.pausedUntil then 0 else 1, h.enteredAt, h.slot], h))).isSome = true) ∧
    (let s := crowded 8 63 false; (s.oldestReady 0 0).all (fun g => s.clock < g.readySince + 64) = true) ∧
    (∀ s ∈ [crowded 7 10 true, crowded 7 16 false],
      let act := s.groups.filter fun h => h.live && !h.saved && h.core = 0 && h.part = 0 && h.active
      (s.oldestReady 0 0).map (fun g => g.id) = some 20 ∧ act.length < 8 ∧ nget 0 s.selFree 0 ≤ s.clock) ∧
    ((crowded 7 10 true).candidate 0 0 none).isNone = true ∧
    ((crowded 7 16 false).oldestReady 0 0).all (fun g => max g.readySince 0 + 16 ≤ 16) = true ∧
    (∀ atomic ∈ [false, true],
      let ps : List LaneLoad := [⟨1, 0, .phys 0x1000000000000⟩, ⟨2, 4, .phys 0x1000000000004⟩]
      let g := (mach fun g => { g with wait := some (.remote atomic 4 ps 0) }).grp
      g.wait = some (.remote atomic 4 ps 0) ∧ g.remote = none ∧ g.saved = false ∧ (6 : Mask) &&& 4 ≠ 0 ∧ (6 : Mask) &&& 1 = 0 ∧
      (∀ i < 32, hasLane 6 i = ps.any fun p => p.lane = i) ∧ g.gentag.toNat = 0 ∧ g.gentag.toNat ≠ 1) ∧
    (let e : StoreEntry := { seq := 0, parts := [⟨1, 0x40000, .phys 0x1000000000000, [1]⟩], since := 3, vd := 0 }
     let s := mach fun g => { g with storeQ := [e] }
     s.grp.wait = none ∧ s.grp.pend = [] ∧ s.grp.storeQ = e :: [] ∧ s.isRemote 0x1000000000000 = true ∧ hasLane 2 1 = true) := by
  decide +kernel

/-- A launch of one team with one group of 32 registers, entered at 0x30004, its descriptor at 0x50000; a work queue of device 0
whose entry at 0x60000 names it. -/
def launching (k : Launch → Launch) (f : Group → Group) : State :=
  let s := copying
  let d := 0x30004 + 2 ^ 128 + 2 ^ 200 + (1 + 2 * 2 ^ 8) * 2 ^ 288
  { s with
    grp := f s.grp, mem := putBytes (putBytes s.mem 0x50000 (toBytes 256 d)) 0x60000 (toBytes 64 0x50000)
    quads := [(0, .whole 0)], launches := [k { id := 1, seqno := 1, vd := 0, desc := d }]
    queues := [(0, { base := 0x60000, log2n := 4, tail := 1, enable := true })]
    vds := nset {} s.vds 0 { s.vd 0 with created := true } }

theorem wit_LaunchesArePlacedAndEnd :
    (let s := { launching id id with launches := [] }
     s.queueReady 0 = true ∧ s.complStalls 0 (some (0, 0, false, 0)) = false ∧ s.launchStalls 0 0x50000 = false ∧
     s.physOk 0x60000 = true ∧ BitVec.ofNat 64 (s.num 0x60000 64) = (0x50000 : DWord) ∧ s.launchStatus 0 0x50000 = 0) ∧
    (launching id id).queueReady 1 = false ∧
    (let g := (launching id fun g => { g with queues := [(6, [⟨3, .launch 0x50000 .none 2⟩])] }).grp
     g.queue 6 = ⟨3, .launch 0x50000 .none 2⟩ :: [] ∧ g.saved = false) ∧
    (let spot : TeamSpot := { team := 0, core := 0, places := [(7, 15)] }
     (∀ d ∈ [0, 2 ^ 195],
       let s : State := { launching (fun x => { x with desc := x.desc + d }) id with teams := [], grp := {} }
       (s.launch 1).all (fun x => x.cut = none ∧ x.diverged = none ∧ (s.vd x.vd).save = .running ∧ (s.vd x.vd).pstate = .awake ∧
         x.nextTeam = 0 ∧ x.ahead = [] ∧ s.fitsReservoir x = true ∧ s.outranked x = false ∧ [0] = List.range (dTeams x.desc) ∧
         s.lcoreOk x 0 0 = true ∧ (dCores x.desc ↔ d ≠ 0)) = true ∧
       (placeSpots 1 [spot] s).isSome = true ∧ (s.placeSpot 1 spot).isSome = true ∧
       (placeSpots 1 [{ spot with places := [(7, 16)] }] s).isNone = true ∧
       (∀ g ∈ s.groups, g.id < s.nextGid ∧ g.team < s.nextTeam) ∧ (∀ t ∈ s.teams, t.id < s.nextTeam) ∧
       ∀ p ∈ [spot], ∀ u ∈ s.teams, u.launch = some 1 → u.teamid = p.team → u.saved = false)) ∧
    (let s : State := { launching (fun x => { x with desc := x.desc + 2 ^ 195 }) id with teams := [], grp := {} }
     (s.launch 1).all (fun x => dCores x.desc ∧ [1] ≠ List.range (dTeams x.desc)) = true ∧ s.teams = []) ∧
    (let s := launching id id
     (s.team 1).isSome = true ∧ ∃ g ∈ s.groups.filter (fun g => g.team = 1 && g.id ≠ 0), g.over = false) ∧
    (let s := launching id fun g => { g with live := false }
     ∀ g ∈ s.groups.filter (fun g => g.team = 1 && g.id ≠ 0), g.over = true) ∧
    ((launching id id).launch 1).all (fun x => x.cut = none ∧ x.ended ≠ dTeams x.desc ∧ x.headerDue = none ∧
      (launching id id).complStalls x.vd x.entry = false) = true ∧
    (((launching (fun x => { x with headerDue := some (1, 0) }) id).launch 1).all fun x => x.headerDue ≠ none) = true ∧
    ((launching (fun x => { x with ended := 1, diverged := some 4 }) id).launch 1).all (fun x => x.waitCut = none ∧ x.cut = none ∧
      x.headerDue = none ∧ x.ended = dTeams x.desc ∧ x.diverged ≠ none) = true ∧
    ((launching (fun x => { x with ended := 1 }) id).launch 1).all (fun x => x.waitCut = none ∧ x.headerDue = none ∧
      x.ended = dTeams x.desc ∧ x.diverged = none) = true := by
  decide +kernel

/-- A machine whose device 3 has this state, with the host's link up. -/
def device (d : VDev) : State := { vds := [(3, d)] }

theorem wit_PowerSteps :
    (device {}).fwfail = false ∧
    (let s := device { created := true, idleSince := some 0 }
     let d := s.vd 3
     d.idleSince = some 0 ∧ d.created = true ∧ d.pstate = .awake ∧ s.deviceIdle 3 = true ∧ (s.vds.map (fun p => p.1)).Nodup) ∧
    (device {}).vd 3 = {} ∧ ((device {}).vd 3).idleSince = none ∧
    (let d := (device { pstate := .collapsing }).vd 3; d.pstate = .collapsing ∧ d.wclass = 0) ∧
    (let d := (device { pstate := .collapsing, wclass := 2 }).vd 3; d.pstate = .collapsing ∧ d.wclass ≠ 0) ∧
    ((device { pstate := .waking }).vd 3).pstate = .waking ∧ ((device { created := true }).vd 3).created = true ∧
    (1 : Word).getLsbD 0 = true ∧
    (let s := mapping true true false id
     let s := { s with mem := putBytes s.mem 0x90020 (toBytes 8 (0x4003D + 0x80)) }
     s.physOk (s.vd 0).ptroot = true ∧
     leafFrom (fun a => s.num (s.alias a) 8) s.physOk 0x40000 walkLevels (s.vd 0).ptroot = some (0x90020, 0x400BD, 16) ∧
     field 0x400BD 7 1 = 1 ∧ leafAligned 0x400BD 16 = true ∧ s.alias (entryFrame 0x400BD) = entryFrame 0x400BD) := by decide +kernel

/-- The team's machine whose device 0 is in this state of its save. -/
def saving (v : SaveState) (saved : Bool) : State :=
  let s := copying
  { s with
    vds := nset {} s.vds 0 { s.vd 0 with save := v }
    grp := { s.grp with saved := saved }, teams := s.teams.map fun t => { t with saved := saved }, quads := [(0, .whole 0)] }

theorem wit_DevicesAreSavedAndRestored :
    (let s := saving .halting false
     (s.vd 0).save = .halting ∧ (∀ g ∈ s.groups, (g.id ≠ 0 && g.vd = 0 && g.kind = .launch && !g.saved) = true → g.begun = false) ∧
     (s.groups.any fun g => g.id ≠ 0 && g.vd = 0 && g.kind = .launch && !g.saved) = true ∧ (∀ g ∈ s.groups, g.storeQ = [])) ∧
    (saving .saving false).vd 0 ≠ {} ∧ ((saving .saving false).vd 0).save = .saving ∧ ((saving .running false).vd 0).save ≠ .halting ∧
    (let s := saving .saving false; (s.teams.map fun u => u.id).Nodup ∧ ∃ u ∈ s.teams, u.vd = 0 ∧ u.saved = false) ∧
    (let s := saving .restoring false; (s.vd 0).save = .restoring ∧ ∀ t ∈ s.teams, t.vd = 0 → t.saved = false) ∧
    (let s := saving .restoring true
     (s.vd 0).save = .restoring ∧ (s.team 1).all (fun t => s.team t.id = some t ∧ t.vd = 0) = true ∧
     (s.seatTeam 1 0 [(3, 5)]).all (fun u => u.teams.all fun w => !w.saved) = true ∧ (s.seatTeam 1 0 [(3, 5)]).isSome = true ∧
     (s.seatTeam 1 0 [(3, 16)]).isNone = true) ∧
    (let s := saving .restoring true
     let g := { s.grp with wait := some (.layer 0x50000 0 5 false) }
     (({ s with grp := g } : State).seatTeam 1 0 [(3, 5)]).isSome = true ∧ g.wait = some (.layer 0x50000 0 5 false) ∧ g.team = 1) ∧
    (∃ g ∈ copying.groups, g.id ≠ 0 ∧ g.team = 1) ∧
    (∀ atomic ∈ [false, true],
      let ps : List LaneLoad := [⟨1, 0x40000, .phys 0x1000000000000⟩]
      let g := (mach fun g => { g with wait := some (.remote atomic 4 ps 0), pend := [pending] }).grp
      g.wait = some (.remote atomic 4 ps 0) ∧ g.remote = none ∧ g.pend ≠ []) ∧
    (let s := { saving .running false with launches := [{ id := 1, seqno := 1, vd := 0, desc := 2 ^ 194 + 2 * 2 ^ 240 }] }
     let of := fun k => s.teams.filter fun t => t.launch = some 1 && t.teamid % 2 = k
     (s.launch 1).all (fun x => s.sliced x.vd x.desc ∧ x.cut = none ∧ max 1 (dLcores x.desc) = 2 ∧ (s.vd x.vd).save = .running) = true ∧
     (of 0).all (fun t => s.clock < t.placedAt + 1500000 ∧ t.placedAt + 1500000 ≤ { s with clock := 1500000 }.clock) = true ∧
     ((of 0).filter fun t => !t.saved).map (fun t => t.id) = [1] ∧ (of 1).all (fun t => !t.saved) = true ∧
     (∀ g ∈ s.groups, g.id ≠ 0 → g.team ∈ [1] → g.begun = false)) := by decide +kernel

theorem wit_DevicesAreSavedAndRestored_reset :
    (0 < 3 ∧ 3 < 256 ∧ ((device {}).vd 3).save = .running ∧ (device {}).launches = []) ∧
    (∀ v ∈ [SaveState.halting, .saving, .restoring, .saved],
      let d : VDev := { save := v, savebase := 0x4000000000, savesize := 16 }
      ((device d).vd 3).save = v ∧ (device d).launches = [] ∧
      ({ device d with launches := [{ id := 1, seqno := 1, vd := 3, desc := 0 }] } : State).launches =
        [{ id := 1, seqno := 1, vd := 3, desc := 0 }]) ∧
    (let s := { device {} with launches := [{ id := 1, seqno := 1, vd := 3, desc := 0 }] }
     s.launches = [{ id := 1, seqno := 1, vd := 3, desc := 0 }] ∧ (s.vd 3).save = .running) ∧
    (let d : VDev := { cmd := 3 * 2 ^ 32 + 2 ^ 15 + 9, busy := 1 }
     d.busy ≠ 0 ∧ d.cmd.toNat % 256 ≠ 7 ∧ d.cmd.toNat % 256 ≠ 8 ∧ ({ d with cmd := 2 ^ 15 + 7 } : VDev).cmd.toNat % 256 = 7 ∧ ({} : VDev).busy = 0) ∧
    (let s : State := { failing := [255] }
     255 ∉ s.retiredCores ∧ 255 ∈ s.failing ∧ (∀ t ∈ s.teams, t.core = 255 → t.saved = true) ∧ 254 ∉ s.failing) := by decide +kernel

/-- Device 3, its quadrants, its groups and vaults, beside device 4. -/
def granted (q : QuadOwner) (d : VDev) : State :=
  { vds := [(3, d), (4, { created := true, groups := [5], vaultsHeld := [6] })], quads := [(4 * 2 + 1, q)] }

theorem wit_CommandsAnswerWithAStatus :
    (State.reset.fwfail = false ∧ 255 < 256) ∧ ¬(256 < 256) ∧ (2 : Word).toNat < 3 ∧ ¬(3 : Word).toNat < 3 ∧
    (let n := (0x0102 : Word).toNat; n < 4096 ∧ n / 1024 % 4 ≠ 1 ∧ n % 256 ∉ (granted .free {}).retiredCores) ∧
    ¬((0x0502 : Word).toNat / 1024 % 4 ≠ 1) ∧ (23 : Word).toNat < 24 ∧ 23 ∉ (granted .free {}).withdrawn ∧ (255 : Word).toNat < 256 ∧
    ((granted .free {}).vd 3).created = false ∧ ((granted .free {}).vd 3).busy = 0 ∧ ((granted .free { created := true }).vd 3).created = true ∧
    (granted .free { created := true }).deviceBusy 3 = false ∧
    ({ granted .free { created := true } with launches := [{ id := 1, seqno := 1, vd := 3, desc := 0 }] } : State).deviceBusy 3 = true ∧
    (granted (.whole 4) {}).ownsPart 4 2 8 = true ∧ (granted (.halves (some 3) (some 4)) {}).ownsPart 3 2 8 = true ∧
    (granted (.halves (some 3) (some 4)) {}).ownsPart 4 2 12 = true ∧ (granted .free {}).ownsPart 4 2 8 = false ∧
    (granted (.whole 3) {}).holdsRecords 3 (fun c => decide (c = 2)) = false ∧
    (let s := { granted (.whole 3) {} with grp := { grp0 with core := 2, part := 15 } }
     s.grp.core = 2 ∧ s.grp.part / 8 = 0x0102 / 256 % 4 ∧ s.grp.part % 8 / 4 = 3 - 2 ∧ s.grp.live = true ∧ s.grp.saved = false) ∧
    (let s := granted .free { created := true, groups := [7], vaultsHeld := [8], pstate := .collapsed }
     7 ∈ (s.vd 3).groups ∧ 8 ∈ (s.vd 3).vaultsHeld ∧ 5 ∉ (s.vd 3).groups ∧ (∃ v ∈ s.vdList, 5 ∈ (s.vd v).groups) ∧
     (∃ v ∈ s.vdList, 6 ∈ (s.vd v).vaultsHeld) ∧ (∀ v ∈ s.vdList, 9 ∉ (s.vd v).groups ∧ 9 ∉ (s.vd v).vaultsHeld) ∧
     (s.vd 3).pstate = .collapsed) ∧
    (let d := (granted .free { created := true }).vd 3; d.pstate ≠ .collapsed ∧ d.save ≠ .saved) ∧
    ((granted .free { save := .saved }).vd 3).save = .saved ∧ ((granted .free { save := .halting }).vd 3).save = .halting ∧
    ((granted .free { save := .restoring }).vd 3).save = .restoring ∧
    (∃ x ∈ ({ launches := [{ id := 1, seqno := 1, vd := 3, desc := 0 }] } : State).launches, x.vd = 3) ∧
    (∀ x ∈ (granted .free {}).launches, x.vd ≠ 3) := by decide +kernel

theorem wit_CommandsAnswerWithAStatus_confirm :
    (let ps : List LaneLoad := [⟨1, 0x40010, .phys 0x1000000000000⟩]
     let w : Group := { grp0 with vd := 3, wait := some (.remote true 4 ps 0), drained := true }
     let s := { granted .free { created := true, hostDrains := [⟨0x40000, 1⟩] } with grp := w }
     w ∈ s.groups ∧ w.id ≠ 0 ∧ w.vd = 3 ∧ w.saved = false ∧ w.drained = true ∧ w.wait = some (.remote true 4 ps 0) ∧
     (s.vd 3).hostDrains ≠ [] ∧ s.confirmWaits 3 (s.vd 3).hostDrains = true ∧ ∀ h ∈ (granted .free {}).groups, h.wait = none) := by decide +kernel

theorem wit_HostWritesRegisters :
    (device {}).fwfail = false ∧ ({ device {} with fwfail := true } : State).fwfail = true ∧ ((device {}).vd 3).heldRecords = [] ∧
    ((device {}).vd 3).heldLog = [] ∧
    (let r : Ring := { prod := 3, cons := 1, log2n := 2 }
     let r' := (device { frames := r }).vd 3
     (r'.ring 2) = r ∧ (r.prod - r.cons).toNat ≤ ((5 : Word) - r.cons).toNat ∧ ((5 : Word) - r.cons).toNat ≤ 2 ^ r.log2n ∧
     ((2 : Word) - r.cons).toNat < (r.prod - r.cons).toNat ∧ 2 ^ r.log2n < ((6 : Word) - r.cons).toNat ∧
     (r.prod - 3).toNat ≤ (r.prod - r.cons).toNat ∧ (r.prod - r.cons).toNat < (r.prod - 4).toNat ∧
     20 < (21 : Word).toNat % 32 ∧ ¬ 20 < (20 : Word).toNat % 32 ∧ 2 ^ ((1 : Word).toNat % 32) ≤ (r.prod - r.cons).toNat) ∧
    (let c : QueueCfg := { enable := true, owner := 3, log2n := 2, head := 1 }
     c.owner = 3 ∧ c.enable = true ∧ ((5 : Word) - c.head).toNat ≤ 2 ^ c.log2n ∧ ¬ ((6 : Word) - c.head).toNat ≤ 2 ^ c.log2n) ∧
    ({} : VDev).busy = 0 ∧ ({ busy := 1 } : VDev).busy ≠ 0 ∧
    (let s : State := { agenda := [], vds := [(3, { busy := 1, cmd := 2 ^ 15 + 9 })] }
     s.agenda = [] ∧ s.vdList.find? s.commandDue = some 3 ∧ (s.vd 3).cmd.toNat % 256 = 9) ∧
    (let s := device { tags := [7] }
     s.fwfail = false ∧ 7 ∈ (s.vd 3).tags ∧ (0x200000007 : DWord).toNat % 2 ^ 32 = 7 ∧ (0x200000007 : DWord).toNat / 2 ^ 32 = 2 ∧
     (0x400000007 : DWord).toNat / 2 ^ 32 ≠ 1 ∧ (0x400000007 : DWord).toNat / 2 ^ 32 ≠ 2 ∧ (∀ g ∈ s.groups, g.wait = none)) ∧
    (0x0A8 = 0x0A0 + 4 * 2 ∧ 0x184 = 0x180 + 4 * 1 ∧ 0x17C = 0x0C0 + 4 * 47 ∧ 0x044 = 0x040 + 4 * 1) ∧
    (let s := State.reset
     s.pwrlim < 2 ^ 32 ∧ s.domid < 2 ^ 32 ∧ s.fwfail = false ∧ (∀ die < 4, s.inforce die < 2 ^ 16 ∧ nget 700 s.heatlim die < 2 ^ 16)) ∧
    (16383 < 16384 ∧ 0xFFC < 4096 ∧ 0xFFC % 4 = 0 ∧ 1 ≤ 0x04000AF0 % 2 ^ 16 ∧ 0x04000AF0 % 2 ^ 16 ≤ 2800 ∧ 0x04000AF0 / 2 ^ 16 ≤ 2800) := by
  decide +kernel

theorem wit_MemoryWindowIsTranslated :
    let s := copying
    let va := (s.vd 0).mwbase + BitVec.ofNat 64 0x40000
    s.fwfail = false ∧ s.windowReqs = [] ∧ (s.vd 0).pstate = .awake ∧ va.toNat % 16 + 16 ≤ 16 ∧
    0x3FFFFF0 + 16 ≤ 2 ^ (s.vd 0).mwlog2 ∧ 2 ^ (s.vd 0).mwlog2 < 0x3FFFFFC + 8 ∧ 2 ^ (s.vd 0).mwlog2 = 0x4000000 ∧
    s.translate deviceAgent 0 .load va = .ok 0x40000 ∧ s.translate deviceAgent 0 .store va = .ok 0x40000 ∧
    s.badRange 0x40000 16 = false ∧ va.toNat % 8 = 0 ∧ (va + 4).toNat % 8 ≠ 0 ∧
    s.translate deviceAgent 0 .load 0x80000000000 = .fault 1 ∧ s.translate deviceAgent 0 .store 0x80000000000 = .fault 1 ∧
    (let u := { s.modVd 0 (fun d => { d with mwbase := 0x80000000000 }) with badMem := [0x40000], tlb := remoteTlb }
     u.translate deviceAgent 0 .load (0x80000000000 + 0) = .fault 1 ∧ u.badRange 0x40000 16 = true ∧
     u.translate deviceAgent 0 .load 0x40000 = .ok 0x40000 ∧ u.translate deviceAgent 0 .load 0x80000000 = .stall) ∧
    ({ s with agenda := [.windowSize 255 26, .windowSize 0 39] } : State).agenda = .windowSize 255 26 :: [.windowSize 0 39] ∧
    (let s : State := { device { pstate := .collapsed } with windowReqs := [.write 3 0x40000 [1] 0] }
     s.windowReqs[0]? = some (.write 3 0x40000 [1] 0) ∧ (s.vd (WindowReq.write 3 0x40000 [1] 0).head.1).pstate ≠ .awake) ∧
    (let s : State := { device { pstate := .collapsed } with windowReqs := [.read 3 0x40000 4 0] }
     s.windowReqs[0]? = some (.read 3 0x40000 4 0) ∧ (s.vd (WindowReq.read 3 0x40000 4 0).head.1).pstate ≠ .awake) := by
  decide +kernel

theorem wit_ServiceEvents :
    (List.replicate 32 (7 : Byte)).length = 32 ∧ 24 ≤ 24 ∧ 1023 < 1024 ∧ 1024 ≤ 1024 ∧
    (let s : State := { vds := [(3, { created := true, peergrp := 9, groups := [1] })] }
     localOk 0x4800000000 = true ∧ s.frameOwner 0x4800000000 = some 3 ∧ (s.vd 3).peergrp = 9 ∧ (s.vd 3).pstate = .awake ∧
     (s.vd 3).peergrp ≠ 8 ∧ localOk 0x8000000000000 = false ∧ (s.vd 3).unrestored = [] ∧ s.badRange 0x4800000000 4 = false ∧ s.peerReqs = [] ∧ s.frameOwner 0x4000000000 = none) ∧
    (let s : State := { clock := 9, coreErrors := [(3, List.replicate 64 8)] }
     ((s.clock :: nget [] s.coreErrors 3).take 65)[64]? = some 8 ∧ s.clock < 8 + 1500000000) ∧
    copying.groups.filter (fun g => g.id ≠ 0 && g.team = 1 && g.live && g.wait ≠ some .halted) = [copying.grp] ∧
    (let s : State := { vds := [(3, { created := true, groups := [1, 4] })], mem := [(0x4800000000, 5)] }
     Memory.wf s.mem = true ∧ s.vdList.find? (fun v => (s.vd v).groups.contains 1) = some 3 ∧ (0x4800000000, 5) ∈ s.mem ∧
     0x4000000000 + 1 * 0x800000000 ≤ 0x4800000000 ∧ 0x4800000000 < 0x4000000000 + (1 + 1) * 0x800000000 ∧
     ∀ x ∈ s.launches, 1 ∉ (s.vd x.vd).groups) ∧
    (23 ∉ State.reset.withdrawn ∧ ∀ x ∈ copying.launches, 23 ∉ (copying.vd x.vd).groups) ∧
    (State.reset.nirports < 256 ∧ State.reset.withdrawn.length ≤ 24 ∧ State.reset.retiredCores.length ≤ 256) := by decide +kernel

theorem wit_DebuggerStopsAndSteps :
    (mach id).debugger = false ∧ ({ mach id with debugger := true } : State).debugger = true ∧ (mach id).grp.id ≠ 0 ∧
    (mach id).grp.stopped = false ∧
    (let g := (mach fun g => { g with stopped := true, stack := [⟨true, 0x30008, 1⟩, ⟨false, 0x30010, 3⟩] }).grp
     g.stopped = true ∧ g.hidden = 0 ∧ g.stack[0]? = some ⟨true, 0x30008, 1⟩ ∧ 2 = g.stack.length - 0) := by decide +kernel

theorem wit_SingleRules :
    (let g := (mach fun g => { g with utv := 1 }).grp
     g.level = .program ∧ g.utv ≠ 0 ∧ g.retry = none ∧ g.drains = [] ∧ g.long = false ∧ g.exec &&& ~~~g.retired ≠ 0) ∧
    (let g := (mach id).grp
     (g.pc + 4 * (7 : BitVec 23).signExtend 64).toNat % 32 = 0 ∧ (g.pc + 4 * (6 : BitVec 23).signExtend 64).toNat % 32 ≠ 0 ∧
     g.stack.length < 24) ∧
    (mach fun g => { g with stack := List.replicate 24 ⟨true, 0x30008, 1⟩ }).grp.stack.length = 24 ∧
    (mach fun g => { g with exec := 0 }).grp.act 0 = 0 ∧
    (let g := (mach fun g => { g with exec := 0x80000000 }).grp
     hasLane (g.act 0) 31 = true ∧ (∀ j < 31, hasLane (g.act 0) j = false) ∧ goodDest 31 ∧ g.allocated [31, 127]) := by
  simp only [goodDest, Group.allocated]
  decide +kernel

end Sys2Proof.Tests
end

/-! PROOFS. The host's writes and reads of the control window (27 R338-R343): one rule per operation, then the statement
`Obligations.HostWritesRegisters`. -/

namespace Sys2Proof.Machine

/-! Bit fields of numbers and words. -/

/-- A field by division, the form in which the statements speak of it. -/
theorem field_eq (w lo len : Nat) : field w lo len = w / 2 ^ lo % 2 ^ len := by
  rw [field, Nat.shiftRight_eq_div_pow]

theorem field_low (w len : Nat) : field w 0 len = w % 2 ^ len := by
  rw [field_eq, Nat.pow_zero, Nat.div_one]

/-- A field that reaches the top bit of a word of `lo + len` bits needs no mask. -/
theorem field_top {w lo len : Nat} (h : w < 2 ^ (lo + len)) : field w lo len = w / 2 ^ lo := by
  rw [field_eq, Nat.mod_eq_of_lt]
  exact Nat.div_lt_of_lt_mul (by rwa [← Nat.pow_add])

/-- A word whose field is replaced: what is below, the field's new value, what is above. -/
theorem setField_eq (x lo len v : Nat) :
    setField x lo len v = x % 2 ^ lo + v % 2 ^ len * 2 ^ lo + x / 2 ^ (lo + len) * 2 ^ (lo + len) := by
  have low : 2 ^ lo * (x / 2 ^ lo) + x % 2 ^ lo = x := Nat.div_add_mod _ _
  have high : 2 ^ len * (x / 2 ^ lo / 2 ^ len) + x / 2 ^ lo % 2 ^ len = x / 2 ^ lo := Nat.div_add_mod _ _
  have split : x = x % 2 ^ lo + x / 2 ^ lo % 2 ^ len * 2 ^ lo + x / 2 ^ (lo + len) * 2 ^ (lo + len) := by
    rw [Nat.pow_add, ← Nat.div_div_eq_div_mul]
    calc x = 2 ^ lo * (2 ^ len * (x / 2 ^ lo / 2 ^ len) + x / 2 ^ lo % 2 ^ len) + x % 2 ^ lo := by rw [high, low]
      _ = _ := by
        rw [Nat.mul_add, ← Nat.mul_assoc, Nat.mul_comm (2 ^ lo * 2 ^ len), Nat.mul_comm (2 ^ lo) (x / 2 ^ lo % 2 ^ len)]
        omega
  rw [setField, field_eq]
  omega

/-- A number with its `k`-th word of 32 bits replaced. -/
def replaceWord (x k : Nat) (value : Word) : Nat :=
  x % 2 ^ (32 * k) + value.toNat * 2 ^ (32 * k) + x / 2 ^ (32 * k + 32) * 2 ^ (32 * k + 32)

theorem setWord_eq (x k : Nat) (value : Word) : setWord x k value = replaceWord x k value := by
  rw [setWord, setField_eq, Nat.mod_eq_of_lt value.isLt, replaceWord]

/-- The high word of a 64-bit register replaced. -/
theorem setWord_one (x : DWord) (value : Word) : setWord x.toNat 1 value = value.toNat * 2 ^ 32 + x.toNat % 2 ^ 32 := by
  rw [setWord_eq, replaceWord, Nat.div_eq_of_lt x.isLt]
  omega

theorem lo32_toNat (x : DWord) : (lo32 x).toNat = x.toNat % 2 ^ 32 := by simp [lo32]

theorem hi32_toNat (x : DWord) : (hi32 x).toNat = x.toNat / 2 ^ 32 := by
  rw [hi32, BitVec.extractLsb'_toNat, Nat.shiftRight_eq_div_pow]
  omega

theorem hi32_eq (x : DWord) : hi32 x = BitVec.ofNat 32 (x.toNat / 2 ^ 32) := by
  rw [← hi32_toNat, BitVec.ofNat_toNat, BitVec.setWidth_eq]

/-- The two words of a 64-bit register are the register. -/
theorem lo32_add_hi32 (x : DWord) : (lo32 x).toNat + (hi32 x).toNat * 2 ^ 32 = x.toNat := by
  rw [lo32_toNat, hi32_toNat]
  omega

theorem wordOf_zero_add_one (x : DWord) : (wordOf x.toNat 0).toNat + (wordOf x.toNat 1).toNat * 2 ^ 32 = x.toNat := by
  have := x.isLt
  simp only [wordOf, field_eq, BitVec.toNat_ofNat]
  omega

theorem getElem_toBytes : ∀ (n w i : Nat) (h : i < (toBytes n w).length), (toBytes n w)[i] = BitVec.ofNat 8 (w / 256 ^ i)
  | n + 1, w, 0, _ => by rw [Nat.pow_zero, Nat.div_one]; rfl
  | n + 1, w, i + 1, h => by
    have step : (toBytes (n + 1) w)[i + 1] = BitVec.ofNat 8 (w / 256 / 256 ^ i) :=
      getElem_toBytes n (w / 256) i (Nat.lt_of_succ_lt_succ h)
    rw [step, Nat.div_div_eq_div_mul, Nat.pow_succ, Nat.mul_comm]

/-- A word stored little-endian: byte `i` is its bits [8i + 7 : 8i]. -/
theorem toBytes_word (value : Word) (i : Nat) (h : i < (toBytes 4 value.toNat).length) :
    (toBytes 4 value.toNat)[i] = value.extractLsb' (8 * i) 8 := by
  apply BitVec.eq_of_toNat_eq
  rw [getElem_toBytes, BitVec.toNat_ofNat, BitVec.extractLsb'_toNat, Nat.shiftRight_eq_div_pow, Nat.pow_mul]

/-! A device's block after a change of it. -/

theorem State.vd_modVd (s : State) (k n : Nat) (f : VDev → VDev) :
    (s.modVd k f).vd n = if n = k then f (s.vd k) else s.vd n := nget_nset ({} : VDev) (f (s.vd k)) k n s.vds

@[simp] theorem State.vd_modVd_same (s : State) (k : Nat) (f : VDev → VDev) : (s.modVd k f).vd k = f (s.vd k) := by
  rw [State.vd_modVd, if_pos rfl]

theorem State.vd_modVd_other (s : State) {k n : Nat} (f : VDev → VDev) (h : n ≠ k) : (s.modVd k f).vd n = s.vd n := by
  rw [State.vd_modVd, if_neg h]

/-- R338: who reaches a block: the physical function, and the device's own. -/
theorem State.seesBlock_iff (s : State) (func vd : Nat) :
    s.seesBlock func vd = true ↔ s.fwfail = false ∧ vd < 256 ∧ (func = 0 ∨ func = vd) := by
  simp [State.seesBlock, State.hostUp, and_assoc]

theorem State.seesBlock_false_iff (s : State) (func vd : Nat) :
    s.seesBlock func vd = false ↔ s.fwfail = true ∨ 256 ≤ vd ∨ (func ≠ 0 ∧ func ≠ vd) := by
  rw [← Bool.not_eq_true, State.seesBlock_iff, ← Bool.not_eq_false, ← Nat.not_lt]
  simp only [Classical.not_and_iff_not_or_not, not_or]

/-! Rings (R341). -/

theorem VDev.setRing_ring_same (d : VDev) (n : Nat) (r : Ring) : (d.setRing n r).ring n = r := by
  match n with
  | 0 | 1 | 2 | _ + 3 => rfl

theorem VDev.setRing_ring_other (d : VDev) {n k : Nat} (r : Ring) (hn : n < 4) (hk : k < 4) (h : k ≠ n) :
    (d.setRing n r).ring k = d.ring k := by
  obtain rfl | rfl | rfl | rfl : n = 0 ∨ n = 1 ∨ n = 2 ∨ n = 3 := by omega
  all_goals
    obtain rfl | rfl | rfl | rfl : k = 0 ∨ k = 1 ∨ k = 2 ∨ k = 3 := by omega
    all_goals simp only [VDev.ring, VDev.setRing, ne_eq, not_true_eq_false] at h ⊢

@[simp] theorem VDev.setRing_heldRecords (d : VDev) (n : Nat) (r : Ring) : (d.setRing n r).heldRecords = d.heldRecords := by
  match n with
  | 0 | 1 | 2 | _ + 3 => rfl

@[simp] theorem VDev.setRing_heldLog (d : VDev) (n : Nat) (r : Ring) : (d.setRing n r).heldLog = d.heldLog := by
  match n with
  | 0 | 1 | 2 | _ + 3 => rfl

theorem State.flushLog_of_none_held {s : State} {vd : Nat} (hl : (s.vd vd).heldLog = []) : ∀ n, s.flushLog vd n = s
  | 0 => rfl
  | n + 1 => by
    rw [State.flushLog, hl]
    exact ite_self s

/-- R334, R341: where nothing is held, a change of the rings sets nothing going. -/
theorem State.ringsChanged_of_none_held {s : State} {vd : Nat} (hr : (s.vd vd).heldRecords = []) (hl : (s.vd vd).heldLog = []) :
    s.ringsChanged vd = s.modVd vd fun d => { d with heldRecords := [] } := by
  rw [State.ringsChanged, hr]
  exact State.flushLog_of_none_held (by rw [flushFaults, State.vd_modVd_same]; exact hl) _

theorem ringWrite_zero (ring : Nat) (r : Ring) (value : Word) :
    ringWrite ring r 0 value =
      if 20 < value.toNat % 32 ∨ (value.toNat % 32 ≠ 0 ∧ 2 ^ (value.toNat % 32) < (r.prod - r.cons).toNat) then r
      else { r with log2n := value.toNat % 32, base := r.base / 2 ^ 32 * 2 ^ 32 + value.toNat / 2 ^ 12 * 2 ^ 12 } := by
  have hn : field value.toNat 0 5 = value.toNat % 32 := field_low _ 5
  have hb : field value.toNat 12 20 = value.toNat / 2 ^ 12 := field_top value.isLt
  simp [ringWrite, Ring.used, hn, hb]

theorem ringWrite_one (ring : Nat) (r : Ring) (value : Word) :
    ringWrite ring r 1 value = { r with base := r.base % 2 ^ 32 + value.toNat * 2 ^ 32 } := rfl

/-- The host fills rings 2 and 3: PROD goes forward, up to the ring's size. -/
theorem ringWrite_prod_taken {ring : Nat} {r : Ring} {value : Word} (host : 2 ≤ ring)
    (forward : (r.prod - r.cons).toNat ≤ (value - r.cons).toNat) (room : (value - r.cons).toNat ≤ 2 ^ r.log2n) :
    ringWrite ring r 2 value = { r with prod := value } := by
  have hf : ¬({ r with prod := value } : Ring).used < r.used := Nat.not_lt.mpr forward
  have hr : ({ r with prod := value } : Ring).used ≤ 2 ^ r.log2n := room
  simp [ringWrite, hf, hr, Nat.not_lt.mpr host]

theorem ringWrite_prod_ignored {ring : Nat} {r : Ring} {value : Word}
    (h : ring < 2 ∨ (value - r.cons).toNat < (r.prod - r.cons).toNat ∨ 2 ^ r.log2n < (value - r.cons).toNat) :
    ringWrite ring r 2 value = r := by
  rw [ringWrite]
  refine if_pos ?_
  change ring < 2 ∨ ({ r with prod := value } : Ring).used < r.used ∨ 2 ^ r.log2n < ({ r with prod := value } : Ring).used at h
  simp only [Bool.or_eq_true, Bool.not_eq_true', decide_eq_true_eq, decide_eq_false_iff_not, Nat.not_le]
  rcases h with h | h | h
  · exact .inl (.inl h)
  · exact .inr h
  · exact .inl (.inr h)

/-- The host empties rings 0 and 1: CONS goes forward, up to PROD. -/
theorem ringWrite_cons_taken {ring : Nat} {r : Ring} {value : Word} (host : ring < 2)
    (forward : (r.prod - value).toNat ≤ (r.prod - r.cons).toNat) : ringWrite ring r 3 value = { r with cons := value } := by
  have hf : ¬r.used < ({ r with cons := value } : Ring).used := Nat.not_lt.mpr forward
  simp [ringWrite, hf, Nat.not_le.mpr host]

theorem ringWrite_cons_ignored {ring : Nat} {r : Ring} {value : Word}
    (h : 2 ≤ ring ∨ (r.prod - r.cons).toNat < (r.prod - value).toNat) : ringWrite ring r 3 value = r := by
  rw [ringWrite]
  refine if_pos ?_
  simp only [Bool.or_eq_true, decide_eq_true_eq]
  exact h

theorem exec_ringIndexWrite_unseen {s : State} {func vd : Nat} (ring word : Nat) (value : Word)
    (h : s.seesBlock func vd = false) : exec (.ringIndexWrite func vd ring word value) s = .next s := by
  show execRingIndexWrite func vd ring word value s = _
  simp [execRingIndexWrite, h]

/-- R341: a write of a ring that its function sees replaces that ring and touches no other ring, device or byte of memory. -/
theorem exec_ringIndexWrite_seen {s : State} {func vd ring word : Nat} {value : Word} {new : Ring}
    (sees : s.seesBlock func vd = true) (hring : ring < 4) (hr : (s.vd vd).heldRecords = []) (hl : (s.vd vd).heldLog = [])
    (hnew : ringWrite ring ((s.vd vd).ring ring) word value = new) :
    ∃ t, exec (.ringIndexWrite func vd ring word value) s = .next t ∧ (t.vd vd).ring ring = new ∧
      (∀ k, k < 4 → k ≠ ring → (t.vd vd).ring k = (s.vd vd).ring k) ∧ (∀ v, v ≠ vd → t.vd v = s.vd v) ∧ t.mem = s.mem := by
  have run : exec (.ringIndexWrite func vd ring word value) s = execRingIndexWrite func vd ring word value s := rfl
  rw [execRingIndexWrite, if_neg (by simp [sees, hring])] at run
  refine ⟨_, run.trans (congrArg _ (State.ringsChanged_of_none_held ?_ ?_)), ?_, fun k hk hne => ?_, fun v hv => ?_, rfl⟩
  · simpa using hr
  · simpa using hl
  · simp only [State.vd_modVd_same]
    exact (VDev.setRing_ring_same _ ring _).trans hnew
  · simp only [State.vd_modVd_same]
    exact VDev.setRing_ring_other _ _ hring hk hne
  · simp only [State.vd_modVd_other _ _ hv]

/-! Queues and doorbells (R343). -/

theorem queueWrite_zero (c : QueueCfg) (physical : Bool) (value : Word) :
    queueWrite c physical 0 value =
      { c with owner := if physical then value.toNat % 256 else c.owner, enable := value.getLsbD 8 } := by
  simp [queueWrite, field_eq]

theorem queueWrite_one (c : QueueCfg) (physical : Bool) (value : Word) :
    queueWrite c physical 1 value = if c.enable = true ∨ value.toNat / 2 ^ 12 % 16 = 0 then c
      else { c with vec := value.toNat % 2 ^ 12, log2n := value.toNat / 2 ^ 12 % 16 } := by
  simp [queueWrite, field_eq]

theorem queueWrite_two (c : QueueCfg) (physical : Bool) (value : Word) :
    queueWrite c physical 2 value = if c.enable = true then c
      else { c with base := c.base / 2 ^ 32 * 2 ^ 32 + value.toNat / 2 ^ 12 * 2 ^ 12 } := by
  simp only [queueWrite, field_top (lo := 12) (len := 20) value.isLt]

theorem queueWrite_three (c : QueueCfg) (physical : Bool) (value : Word) :
    queueWrite c physical 3 value = if c.enable = true then c
      else { c with base := c.base % 2 ^ 32 + value.toNat * 2 ^ 32 } := rfl

theorem exec_queueConfigWrite_ignored {s : State} {func queue : Nat} (word : Nat) (value : Word)
    (h : s.fwfail = true ∨ 16384 ≤ queue ∨ (func ≠ 0 ∧ func ≠ (nget {} s.queues queue).owner)) :
    exec (.queueConfigWrite func queue word value) s = .next s := by
  show execQueueConfigWrite func queue word value s = _
  rw [execQueueConfigWrite, if_pos]
  simpa [State.hostUp, or_assoc] using h

theorem exec_queueConfigWrite_taken {s : State} {func queue word : Nat} {value : Word} {new : QueueCfg}
    (up : s.fwfail = false) (hq : queue < 16384) (hf : func = 0 ∨ func = (nget {} s.queues queue).owner)
    (hnew : queueWrite (nget {} s.queues queue) (func = 0) word value = new) :
    ∃ m, exec (.queueConfigWrite func queue word value) s = .next { s with queues := m } ∧
      ∀ k, nget {} m k = if k = queue then new else nget {} s.queues k := by
  refine ⟨nset {} s.queues queue new, ?_, fun k => nget_nset {} new queue k s.queues⟩
  show execQueueConfigWrite func queue word value s = _
  rw [execQueueConfigWrite, if_neg, hnew]
  simp only [State.hostUp, up, Bool.not_false, Bool.not_true, Bool.false_or, Bool.or_eq_true, Bool.and_eq_true, decide_eq_true_eq]
  omega

/-- R302: what wakes a device. -/
theorem State.vd_wakeDev_same (s : State) (vd : Nat) :
    (s.wakeDev vd).vd vd = { s.vd vd with
      idleSince := none
      pstate := if (s.vd vd).pstate = .collapsing ∨ (s.vd vd).pstate = .collapsed then .waking else (s.vd vd).pstate } := by
  rw [State.wakeDev, State.vd_modVd_same]
  cases (s.vd vd).pstate <;> rfl

/-- R343: the doorbells that count. -/
def State.doorbellTaken (s : State) (func queue offset size : Nat) (value : Word) : Prop :=
  let c := nget {} s.queues queue
  s.fwfail = false ∧ queue < 16384 ∧ offset = 0 ∧ size = 4 ∧ func = c.owner ∧ c.enable = true ∧
    (value - c.head).toNat ≤ 2 ^ c.log2n

theorem exec_doorbell_ignored {s : State} {func queue offset size : Nat} {value : Word}
    (h : ¬s.doorbellTaken func queue offset size value) : exec (.doorbell func queue offset size value) s = .next s := by
  show execDoorbell func queue offset size value s = _
  rw [execDoorbell, if_pos]
  refine Decidable.byContradiction fun hn => h ?_
  rw [State.doorbellTaken]
  generalize nget {} s.queues queue = c at hn
  simpa [-BitVec.toNat_sub, State.hostUp, and_assoc] using hn

theorem exec_doorbell_taken {s : State} {func queue offset size : Nat} {value : Word}
    (h : s.doorbellTaken func queue offset size value) :
    exec (.doorbell func queue offset size value) s = .next (({ s with
      queues := nset {} s.queues queue { nget {} s.queues queue with
        tail := value
        since := if (nget {} s.queues queue).head = (nget {} s.queues queue).tail then s.clock
          else (nget {} s.queues queue).since } } : State).wakeDev (nget {} s.queues queue).owner) := by
  show execDoorbell func queue offset size value s = _
  rw [execDoorbell, if_neg]
  rw [State.doorbellTaken] at h
  generalize nget {} s.queues queue = c at h
  simpa [-BitVec.toNat_sub, State.hostUp, and_assoc] using h

/-! The registers of a device's block (R298, R340). -/

theorem VDev.writeWord_faultvec (d : VDev) (phys : Bool) (value : Word) (n : Nat) :
    d.writeWord phys 0x094 value n = { d with faultvec := value &&& 0x1FFF } := rfl

theorem VDev.writeWord_drange (d : VDev) (phys : Bool) {k : Nat} (hk : k < 3) (value : Word) (n : Nat) :
    d.writeWord phys (0x0A0 + 4 * k) value n = { d with drange := replaceWord d.drange k value } := by
  rw [← setWord_eq]
  obtain rfl | rfl | rfl : k = 0 ∨ k = 1 ∨ k = 2 := by omega
  all_goals rfl

theorem VDev.writeWord_mwbase (d : VDev) (phys : Bool) {k : Nat} (hk : k < 2) (value : Word) (n : Nat) :
    d.writeWord phys (0x180 + 4 * k) value n =
      { d with mwbase := BitVec.ofNat 64 (replaceWord d.mwbase.toNat k value / 0x10000 * 0x10000) } := by
  rw [← setWord_eq]
  obtain rfl | rfl : k = 0 ∨ k = 1 := by omega
  all_goals rfl

/-- A virtual function writes FAULTVEC, DRANGE and MWBASE alone. -/
theorem VDev.writeWord_virtual (d : VDev) {off : Nat} (value : Word) (n : Nat)
    (h : off ≠ 0x094 ∧ (off < 0x0A0 ∨ 0x0AC ≤ off) ∧ off < 0x180) : d.writeWord false off value n = d := by
  obtain ⟨hf, hr, hm⟩ := h
  have hr' : ¬(0x0A0 ≤ off ∧ off < 0x0AC) := by omega
  have hm' : ¬(off = 0x180 ∨ off = 0x184) := by omega
  simp [VDev.writeWord, hf, hr', hm']

theorem VDev.writeWord_idlethr (d : VDev) (value : Word) (n : Nat) :
    d.writeWord true 0x00C value n = { d with idlethr := max 100 value.toNat } := rfl

theorem inRange_of_mem {lo hi v : Nat} (n : Nat) (h : lo ≤ v ∧ v ≤ hi) : inRange lo hi v n = v := by
  simp [inRange, h]

theorem VDev.writeWord_power (d : VDev) (value : Word) (n : Nat) (hl : 1 ≤ value.toNat % 2 ^ 16)
    (hc : value.toNat % 2 ^ 16 ≤ 2800) (hr : value.toNat / 2 ^ 16 ≤ 2800) :
    d.writeWord true 0x010 value n = { d with cap := value.toNat % 2 ^ 16, refill := value.toNat / 2 ^ 16 } := by
  have cap : field value.toNat 0 16 = value.toNat % 2 ^ 16 := field_low _ 16
  have refill : field value.toNat 16 16 = value.toNat / 2 ^ 16 := field_top value.isLt
  have run : d.writeWord true 0x010 value n = { d with
    cap := inRange 1 2800 (field value.toNat 0 16) n, refill := inRange 0 2800 (field value.toNat 16 16) (n + 1) } := rfl
  rw [run, cap, refill, inRange_of_mem n ⟨hl, hc⟩, inRange_of_mem (n + 1) ⟨Nat.zero_le _, hr⟩]

theorem VDev.writeWord_rescap (d : VDev) (value : Word) (n : Nat) (hl : 1 ≤ value.toNat) (hr : value.toNat ≤ 100000) :
    d.writeWord true 0x014 value n = { d with rescap := value.toNat } := by
  have run : d.writeWord true 0x014 value n = { d with rescap := inRange 1 100000 value.toNat n } := rfl
  rw [run, inRange_of_mem n ⟨hl, hr⟩]

theorem VDev.writeWord_tension (d : VDev) (value : Word) (n : Nat) :
    d.writeWord true 0x028 value n =
      if 1 ≤ value.toNat % 32 ∧ value.toNat % 32 ≤ 16 then { d with tension := value.toNat % 32 } else d := by
  have t : field value.toNat 0 5 = value.toNat % 32 := field_low _ 5
  simp [VDev.writeWord, t]

theorem VDev.writeWord_rtimeout (d : VDev) (value : Word) (n : Nat) :
    d.writeWord true 0x02C value n =
      if 1 ≤ value.toNat ∧ value.toNat ≤ 1000 then { d with rtimeout := value.toNat } else d := by
  simp [VDev.writeWord]

theorem VDev.writeWord_ptroot (d : VDev) {k : Nat} (hk : k < 2) (value : Word) (n : Nat) :
    d.writeWord true (0x030 + 4 * k) value n = { d with ptroot := replaceWord d.ptroot k value / 0x1000 * 0x1000 } := by
  rw [← setWord_eq]
  obtain rfl | rfl : k = 0 ∨ k = 1 := by omega
  all_goals rfl

theorem VDev.writeWord_savebase (d : VDev) {k : Nat} (hk : k < 2) (value : Word) (n : Nat) :
    d.writeWord true (0x038 + 4 * k) value n = { d with savebase := replaceWord d.savebase k value } := by
  rw [← setWord_eq]
  obtain rfl | rfl : k = 0 ∨ k = 1 := by omega
  all_goals rfl

theorem VDev.writeWord_savesize (d : VDev) {k : Nat} (hk : k < 2) (value : Word) (n : Nat) :
    d.writeWord true (0x040 + 4 * k) value n = { d with savesize := replaceWord d.savesize k value } := by
  rw [← setWord_eq]
  obtain rfl | rfl : k = 0 ∨ k = 1 := by omega
  all_goals rfl

theorem VDev.writeWord_signers (d : VDev) {k : Nat} (hk : k < 48) (value : Word) (n : Nat) :
    d.writeWord true (0x0C0 + 4 * k) value n = { d with signers := replaceWord d.signers k value } := by
  have place : (0x0C0 + 4 * k - 0x0C0) / 4 = k := by omega
  simp only [VDev.writeWord, Bool.and_eq_true, Bool.or_eq_true, decide_eq_true_eq, Bool.not_true, Bool.false_eq_true, if_false]
  repeat rw [if_neg (by omega)]
  rw [if_pos (by omega), place, setWord_eq]

theorem VDev.writeWord_peergrp (d : VDev) (value : Word) (n : Nat) :
    d.writeWord true 0x04C value n = { d with peergrp := value.toNat % 2 ^ 16 } := by
  rw [← field_low]
  rfl

theorem VDev.writeWord_vecrun (d : VDev) (value : Word) (n : Nat) :
    d.writeWord true 0x090 value n = { d with vecrun := value &&& 0x0FFF0FFF } := rfl

theorem VDev.writeWord_trustctl (d : VDev) (value : Word) (n : Nat) :
    d.writeWord true 0x098 value n = { d with trustctl := value &&& 1 } := rfl

theorem VDev.writeWord_stv (d : VDev) (value : Word) (n : Nat) : d.writeWord true 0x0B8 value n = { d with stv := value } := rfl

/-- MCDROP is read only. -/
theorem VDev.writeWord_mcdrop (d : VDev) (value : Word) (n : Nat) : d.writeWord true 0x048 value n = d := rfl

/-- R339: where a block's registers stand in the control window. -/
theorem exec_registerWrite_block {s : State} (func : Nat) {vd off : Nat} (value : Word) (up : s.fwfail = false) (hvd : vd < 256)
    (hoff : off < 4096) (h4 : off % 4 = 0) :
    exec (.registerWrite func (0x100000 + 4096 * vd + off) value) s = .next (s.writeBlock func vd off value) := by
  have word : ¬(0x100000 + 4096 * vd + off) % 4 ≠ 0 := by omega
  have noMailbox : ¬0x100000 + 4096 * vd + off < 0x1100 := by omega
  have noHvec : 0x100000 + 4096 * vd + off ≠ 0x30 := by omega
  have block : 0x100000 ≤ 0x100000 + 4096 * vd + off ∧ 0x100000 + 4096 * vd + off < 0x200000 := by omega
  have device : (0x100000 + 4096 * vd + off - 0x100000) / 4096 = vd := by omega
  have place : (0x100000 + 4096 * vd + off) % 4096 = off := by omega
  show execRegisterWrite func _ value s = _
  rw [execRegisterWrite, if_neg word, if_neg (by simp [noMailbox]), if_neg (by simp [State.hostUp, up]), if_neg noHvec,
    if_pos (by simpa using block), device, place]

theorem State.writeBlock_unseen {s : State} {func vd : Nat} (off : Nat) (value : Word) (h : s.seesBlock func vd = false) :
    s.writeBlock func vd off value = s := by
  simp [State.writeBlock, h]

/-- R342: a write of CMD while a command runs is ignored. -/
theorem State.writeBlock_cmd_running {s : State} (func : Nat) {vd off : Nat} (value : Word) (hcmd : off / 8 = 4)
    (busy : (s.vd vd).busy ≠ 0) : s.writeBlock func vd off value = s := by
  simp [State.writeBlock, hcmd, busy]

/-- R342: a write of CMD's low word starts the command with the ARG that stands in its high word. -/
theorem State.writeBlock_cmd_starts {s : State} {func vd : Nat} (value : Word) (sees : s.seesBlock func vd = true)
    (idle : (s.vd vd).busy = 0) :
    s.writeBlock func vd 0x020 value = s.modVd vd fun d => { d with
      busy := func + 1, cmd := BitVec.ofNat 64 (d.cmd.toNat / 2 ^ 32 * 2 ^ 32 + 2 ^ 15 + value.toNat % 256) } := by
  have op : field value.toNat 0 8 % 256 = value.toNat % 256 := by
    rw [field_low]
    exact Nat.mod_mod _ 256
  simp [State.writeBlock, State.writeCmd, busyWord, sees, idle, op, hi32_toNat]

theorem State.writeBlock_cmd_arg {s : State} {func vd : Nat} (value : Word) (sees : s.seesBlock func vd = true)
    (idle : (s.vd vd).busy = 0) :
    s.writeBlock func vd 0x024 value = s.modVd vd fun d => { d with
      cmd := BitVec.ofNat 64 (value.toNat * 2 ^ 32 + d.cmd.toNat % 2 ^ 32) } := by
  simp [State.writeBlock, sees, idle, setWord_one]

theorem State.writeBlock_register {s : State} {func vd off : Nat} (value : Word) (sees : s.seesBlock func vd = true)
    (noCmd : off / 8 ≠ 4) :
    s.writeBlock func vd off value = (s.modVd vd fun d => d.writeWord (func = 0) off value s.free).bumpFree 2 := by
  have low : off ≠ 0x020 := by omega
  have high : off ≠ 0x024 := by omega
  simp [State.writeBlock, sees, noCmd, low, high]

/-- What a write of a block may change: the block, and the number of the next free value. -/
def State.blockBecomes (s t : State) (vd : Nat) (new : VDev) : Prop :=
  t.vd vd = new ∧ (∀ v, v ≠ vd → t.vd v = s.vd v) ∧ t.mem = s.mem ∧ t.groups = s.groups

theorem State.blockBecomes_self (s : State) (vd : Nat) : s.blockBecomes s vd (s.vd vd) := ⟨rfl, fun _ _ => rfl, rfl, rfl⟩

theorem State.blockBecomes_modVd (s : State) (vd : Nat) (f : VDev → VDev) : s.blockBecomes (s.modVd vd f) vd (f (s.vd vd)) :=
  ⟨s.vd_modVd_same vd f, fun _ hv => s.vd_modVd_other f hv, rfl, rfl⟩

theorem State.blockBecomes_register {s : State} {func vd off : Nat} {value : Word} {new : VDev}
    (sees : s.seesBlock func vd = true) (noCmd : off / 8 ≠ 4)
    (hnew : (s.vd vd).writeWord (func = 0) off value s.free = new) :
    s.blockBecomes (s.writeBlock func vd off value) vd new := by
  rw [State.writeBlock_register value sees noCmd, ← hnew]
  exact s.blockBecomes_modVd vd fun d => d.writeWord (func = 0) off value s.free

/-! HVEC and the trust mailbox (R339, R347). -/

theorem exec_registerWrite_hvec {s : State} (value : Word) (up : s.fwfail = false) :
    exec (.registerWrite 0 0x30 value) s = .next { s with hvec := value &&& 0x1FFF } := by
  show execRegisterWrite 0 0x30 value s = _
  simp [execRegisterWrite, State.hostUp, up]

/-- Below the blocks a virtual function writes nothing. -/
theorem exec_registerWrite_virtual (s : State) {func off : Nat} (value : Word) (hf : func ≠ 0) (hoff : off < 0x100000) :
    exec (.registerWrite func off value) s = .next s := by
  have block : ¬0x100000 ≤ off := by omega
  show execRegisterWrite func off value s = _
  simp [execRegisterWrite, hf, block]

theorem exec_registerWrite_mailbox (s : State) {off : Nat} (value : Word) (hoff : off < 0x1000) (h4 : off % 4 = 0) :
    exec (.registerWrite 0 (0x100 + off) value) s =
      .next { s with mailbox := putBytes s.mailbox off (toBytes 4 value.toNat) } := by
  have word : ¬(0x100 + off) % 4 ≠ 0 := by omega
  have inBox : 0x100 + off < 0x1100 := by omega
  show execRegisterWrite 0 (0x100 + off) value s = _
  rw [execRegisterWrite, if_neg word, if_pos (by simp [inBox]), Nat.add_sub_cancel_left]

/-! Commands and map replies (R342). -/

/-- R179: when a CONFIRM of the host waits. -/
theorem State.confirmWaits_iff (s : State) (vd : Nat) (rs : List DrainRange) :
    s.confirmWaits vd rs = true ↔ rs ≠ [] ∧ ∃ h ∈ s.groups, h.id ≠ 0 ∧ h.vd = vd ∧ h.saved = false ∧ h.drained = true ∧
      ((∃ n ps c, h.wait = some (.remote true n ps c)) ∨ (h.wait = none ∧ h.remote ≠ none)) := by
  simp only [State.confirmWaits, Bool.and_eq_true, Bool.not_eq_true', List.isEmpty_eq_false_iff, List.any_eq_true,
    decide_eq_true_eq, and_assoc]
  refine and_congr_right fun _ => exists_congr fun h => ?_
  refine and_congr_right fun _ => and_congr_right fun _ => and_congr_right fun _ => and_congr_right fun _ => and_congr_right fun _ => ?_
  rcases h.wait with _ | w
  · simp [Option.isSome_iff_ne_none]
  · cases w with
    | remote atomic n ps c => cases atomic <;> simp
    | _ => simp

theorem State.commandDue_iff (s : State) (vd : Nat) :
    s.commandDue vd = true ↔ (s.vd vd).busy ≠ 0 ∧
      ((s.vd vd).cmd.toNat % 256 = 11 → ¬s.confirmWaits vd (s.vd vd).hostDrains = true) := by
  simp [State.commandDue, field_eq, Classical.or_iff_not_imp_left]

/-- With an empty agenda a command that is due is the turn. -/
theorem step_of_commandDue {s : State} {vd : Nat} (idle : s.agenda = []) (due : s.vdList.find? s.commandDue = some vd) :
    step s = State.finish s (s.endCommand vd) := by
  simp only [step, State.choose, idle, State.ownTurn, due]

/-- R342: the answers that a map reply may carry: 1 and 2, with no bit above them. -/
theorem mapAnswer_iff (value : DWord) :
    (field value.toNat 34 30 = 0 ∧ (field value.toNat 32 2 = 1 ∨ field value.toNat 32 2 = 2)) ↔
      (value.toNat / 2 ^ 32 = 1 ∨ value.toNat / 2 ^ 32 = 2) := by
  have := value.isLt
  rw [field_eq, field_eq]
  omega

/-- R342: the map replies that count: of a function that sees the block, with an answer, to an outstanding request. -/
def State.mapreplyTaken (s : State) (func vd : Nat) (value : DWord) : Prop :=
  s.seesBlock func vd = true ∧ (value.toNat / 2 ^ 32 = 1 ∨ value.toNat / 2 ^ 32 = 2) ∧ value.toNat % 2 ^ 32 ∈ (s.vd vd).tags

theorem mapTag_eq (value : DWord) : field value.toNat 0 32 = value.toNat % 2 ^ 32 := field_low _ 32

theorem exec_mapreply_ignored {s : State} {func vd : Nat} {value : DWord} (h : ¬s.mapreplyTaken func vd value) :
    exec (.mapreply func vd value) s = .next s := by
  rw [State.mapreplyTaken, ← mapAnswer_iff, ← mapTag_eq] at h
  show execMapreply func vd value s = _
  rw [execMapreply, if_pos]
  refine Decidable.byContradiction fun hn => h ?_
  simpa [and_assoc, Classical.or_iff_not_imp_left] using hn

/-- R342: an answer that no group of the device awaits is taken off the outstanding tags, and that is all. -/
theorem exec_mapreply_unawaited {s : State} {func vd : Nat} {value : DWord} (h : s.mapreplyTaken func vd value)
    (unawaited : ∀ g ∈ s.groups, g.id ≠ 0 → g.vd = vd → ∀ t p a r m, g.wait ≠ some (.map t p a r m)) :
    exec (.mapreply func vd value) s = .next (s.modVd vd fun d => { d with tags := d.tags.erase (value.toNat % 2 ^ 32) }) := by
  rw [State.mapreplyTaken, ← mapAnswer_iff, ← mapTag_eq] at h
  rw [← mapTag_eq]
  show execMapreply func vd value s = _
  rw [execMapreply, if_neg (by simpa [and_assoc, Classical.or_iff_not_imp_left] using h)]
  dsimp only
  split
  · rfl
  · rename_i g hg
    exfalso
    have asks := List.find?_some hg
    simp only [Bool.and_eq_true, decide_eq_true_eq, and_assoc] at asks
    obtain ⟨hid, hvd, hwait⟩ := asks
    have none := unawaited g (List.mem_of_find?_eq_some hg) hid hvd
    split at hwait
    · exact none _ _ _ _ _ ‹_›
    · exact Bool.false_ne_true hwait

/-! Reads of the control window (R338-R340, R343). -/

theorem State.controlWord_package (s : State) (func : Nat) {off : Nat} (h : off < 0x100000) :
    s.controlWord func off = s.packageWord off := if_pos h

theorem State.controlWord_block (s : State) (func : Nat) {vd off : Nat} (hvd : vd < 256) (hoff : off < 4096) :
    s.controlWord func (0x100000 + 4096 * vd + off) = if s.seesBlock func vd then (s.vd vd).blockWord off else 0 := by
  have block : ¬0x100000 + 4096 * vd + off < 0x100000 ∧ 0x100000 + 4096 * vd + off < 0x200000 := by omega
  have device : (0x100000 + 4096 * vd + off - 0x100000) / 4096 = vd := by omega
  have place : (0x100000 + 4096 * vd + off) % 4096 = off := by omega
  rw [State.controlWord, if_neg block.1, if_pos block.2, device, place]

theorem State.controlWord_queue (s : State) (func : Nat) {queue word : Nat} (hq : queue < 16384) (hw : word < 8) :
    s.controlWord func (0x200000 + 32 * queue + 4 * word) =
      if func = 0 ∨ func = (nget {} s.queues queue).owner then (nget {} s.queues queue).word word else 0 := by
  have far : ¬0x200000 + 32 * queue + 4 * word < 0x100000 ∧ ¬0x200000 + 32 * queue + 4 * word < 0x200000 := by omega
  have index : (0x200000 + 32 * queue + 4 * word - 0x200000) / 32 = queue := by omega
  have place : (0x200000 + 32 * queue + 4 * word) % 32 / 4 = word := by omega
  rw [State.controlWord, if_neg far.1, if_neg far.2, index, place]
  refine ite_congr (propext ?_) (fun _ => rfl) fun _ => rfl
  simp only [hq, decide_true, Bool.true_and, Bool.or_eq_true, decide_eq_true_eq, eq_comm (b := func)]

/-- Beyond the last register of a block all offsets are reserved. -/
theorem VDev.blockWord_reserved (d : VDev) {off : Nat} (h : 0x188 ≤ off) : d.blockWord off = 0 := by
  simp only [VDev.blockWord, Bool.and_eq_true, Bool.or_eq_true, decide_eq_true_eq]
  repeat rw [if_neg (by omega)]

theorem State.packageWord_heatlim (s : State) {die : Nat} (h : die < 4) :
    s.packageWord (0x40 + 4 * die) = s.heatlimWord die := by
  obtain rfl | rfl | rfl | rfl : die = 0 ∨ die = 1 ∨ die = 2 ∨ die = 3 := by omega
  all_goals rfl

theorem State.heatlimWord_toNat {s : State} {die : Nat} (hi : s.inforce die < 2 ^ 16) (hl : nget 700 s.heatlim die < 2 ^ 16) :
    (s.heatlimWord die).toNat = s.inforce die * 2 ^ 16 + nget 700 s.heatlim die := by
  rw [State.heatlimWord, BitVec.toNat_ofNat]
  omega

/-! The obligation. -/

/-- Settles O54: each write and read of the host by its rule above. -/
theorem hostWritesRegisters : Obligations.HostWritesRegisters := by
  unfold Obligations.HostWritesRegisters
  refine ⟨?ringIndex, ?queueConfig, ?doorbell, ?block, ?command, ?mapReply, ?package, ?reads⟩
  case ringIndex =>
    intro s func vd ring value r gives
    refine ⟨fun h word => exec_ringIndexWrite_unseen ring word value ((s.seesBlock_false_iff func vd).mpr h),
      fun up hvd hf hring hr hl => ?_⟩
    have give : ∀ word new, ringWrite ring r word value = new → gives word new := fun word new =>
      exec_ringIndexWrite_seen ((s.seesBlock_iff func vd).mpr ⟨up, hvd, hf⟩) hring hr hl
    exact ⟨give 0 _ (ringWrite_zero ring r value), give 1 _ (ringWrite_one ring r value),
      fun host forward room => give 2 _ (ringWrite_prod_taken host forward room),
      fun _ h => give 2 _ (ringWrite_prod_ignored (.inr h)),
      fun host forward => give 3 _ (ringWrite_cons_taken host forward),
      fun _ h => give 3 _ (ringWrite_cons_ignored (.inr h)),
      fun h => give 2 _ (ringWrite_prod_ignored (.inl h)), fun h => give 3 _ (ringWrite_cons_ignored (.inl h))⟩
  case queueConfig =>
    intro s func queue value c w gives
    refine ⟨fun h word => exec_queueConfigWrite_ignored word value h, fun up hq hf => ?_⟩
    have give : ∀ word new, queueWrite c (func = 0) word value = new → gives word new := fun word new =>
      exec_queueConfigWrite_taken up hq hf
    exact ⟨give 0 _ (by simpa using queueWrite_zero c (func = 0) value), give 1 _ (queueWrite_one c _ value),
      give 2 _ (queueWrite_two c _ value), give 3 _ (queueWrite_three c _ value)⟩
  case doorbell =>
    intro s func queue offset size value c good
    refine ⟨fun h => exec_doorbell_ignored h, fun h => ⟨_, exec_doorbell_taken h, fun k => ?_, fun v hv => ?_, ?_⟩⟩
    · exact nget_nset _ _ queue k s.queues
    · exact State.vd_modVd_other _ _ hv
    · exact State.vd_wakeDev_same _ _
  case block =>
    intro s func vd off value d w put gives up hvd hoff h4
    have run := exec_registerWrite_block func value up hvd hoff h4
    have give : ∀ new, s.blockBecomes (s.writeBlock func vd off value) vd new → gives new := fun _ h => ⟨_, run, h⟩
    refine ⟨fun h0 hne => ?_, fun hf => ?_, fun h0 hf hoffs => ?_, fun h0 => ?_⟩
    · rw [run, State.writeBlock_unseen off value ((s.seesBlock_false_iff func vd).mpr (.inr (.inr ⟨h0, hne⟩)))]
    · have sees := (s.seesBlock_iff func vd).mpr ⟨up, hvd, hf⟩
      have register (off' : Nat) (new : VDev) (noCmd : off' / 8 ≠ 4) (hnew : d.writeWord (func = 0) off' value s.free = new) :
          off = off' → gives new := by
        rintro rfl
        exact give _ (State.blockBecomes_register sees noCmd hnew)
      refine ⟨?_, ?_, ?_, register 0x094 _ (by omega) (d.writeWord_faultvec _ value _),
        fun k hk => register (0x0A0 + 4 * k) _ (by omega) (d.writeWord_drange _ hk value _),
        fun k hk => register (0x180 + 4 * k) _ (by omega) (d.writeWord_mwbase _ hk value _)⟩
      · rintro rfl idle
        apply give
        rw [State.writeBlock_cmd_starts value sees idle]
        exact s.blockBecomes_modVd vd _
      · rintro rfl idle
        apply give
        rw [State.writeBlock_cmd_arg value sees idle]
        exact s.blockBecomes_modVd vd _
      · intro hcmd busy
        apply give
        rw [State.writeBlock_cmd_running func value (by omega) busy]
        exact s.blockBecomes_self vd
    · have sees := (s.seesBlock_iff func vd).mpr ⟨up, hvd, .inr hf⟩
      refine give _ (State.blockBecomes_register sees (by omega) ?_)
      rw [decide_eq_false h0]
      exact d.writeWord_virtual value _ (by omega)
    · have sees := (s.seesBlock_iff func vd).mpr ⟨up, hvd, .inl h0⟩
      have register (off' : Nat) (new : VDev) (noCmd : off' / 8 ≠ 4) (hnew : d.writeWord true off' value s.free = new) :
          off = off' → gives new := by
        rintro rfl
        exact give _ (State.blockBecomes_register sees noCmd (by rw [decide_eq_true h0]; exact hnew))
      exact ⟨register 0x00C _ (by omega) (d.writeWord_idlethr value _),
        fun h hl hc hr => register 0x010 _ (by omega) (d.writeWord_power value _ hl hc hr) h,
        fun h hl hr => register 0x014 _ (by omega) (d.writeWord_rescap value _ hl hr) h,
        register 0x028 _ (by omega) (d.writeWord_tension value _),
        register 0x02C _ (by omega) (d.writeWord_rtimeout value _),
        fun k hk => ⟨register (0x030 + 4 * k) _ (by omega) (d.writeWord_ptroot hk value _),
          register (0x038 + 4 * k) _ (by omega) (d.writeWord_savebase hk value _),
          register (0x040 + 4 * k) _ (by omega) (d.writeWord_savesize hk value _)⟩,
        fun k hk => register (0x0C0 + 4 * k) _ (by omega) (d.writeWord_signers hk value _),
        register 0x04C _ (by omega) (d.writeWord_peergrp value _),
        register 0x090 _ (by omega) (d.writeWord_vecrun value _),
        register 0x098 _ (by omega) (d.writeWord_trustctl value _),
        register 0x0B8 _ (by omega) (d.writeWord_stv value _),
        register 0x048 _ (by omega) (d.writeWord_mcdrop value _)⟩
  case command =>
    intro s vd d q func arg op
    have hop : field d.cmd.toNat 0 8 = op := field_low _ 8
    refine ⟨?_, ?_, ?_, ?_, ?_, ?_, ?_, ?_, ?_, ?_, ?_, ?_, ?_,
      (s.commandDue_iff vd).trans (and_congr_right fun _ => imp_congr_right fun _ => not_congr (s.confirmWaits_iff vd _)),
      step_of_commandDue⟩
    all_goals
      intro h
      rw [State.endCommand, hop, h, hi32_eq]
      rfl
  case mapReply =>
    intro s func vd value tag answer taken
    have taken_iff : taken ↔ s.mapreplyTaken func vd value := by
      rw [State.mapreplyTaken, State.seesBlock_iff, and_assoc, and_assoc]
    exact ⟨fun h => exec_mapreply_ignored (mt taken_iff.mpr h), fun h => exec_mapreply_unawaited (taken_iff.mp h)⟩
  case package =>
    intro s value
    refine ⟨exec_registerWrite_hvec value, fun func hf => ⟨?_, fun off hoff => ?_⟩, fun off hoff h4 =>
      ⟨_, exec_registerWrite_mailbox s value hoff h4, fun i hi => ?_, fun k hk => ?_⟩⟩
    · exact exec_registerWrite_virtual s value hf (by omega)
    · exact exec_registerWrite_virtual s value hf (by omega)
    · exact (nget_putBytes_inside (toBytes 4 value.toNat) s.mailbox off i hi).trans (toBytes_word value i hi)
    · exact nget_putBytes_outside (toBytes 4 value.toNat) s.mailbox off k hk
  case reads =>
    intro s func vd word own hp hd hvd up
    have package (off : Nat) (h : off < 0x100000) : word off = (s.packageWord off).toNat :=
      congrArg BitVec.toNat (s.controlWord_package func h)
    refine ⟨?_, ?_, ?_, ?_, ?_, ?_, ?_, fun die hdie hi hl => ?_, fun h0 hne off hoff => ?_, fun hf => ?_,
      fun queue w hq hw => s.controlWord_queue func hq hw⟩
    · rw [package 0x10 (by omega), package 0x14 (by omega)]
      exact lo32_add_hi32 s.caps
    · exact (package 0x18 (by omega)).trans ((BitVec.toNat_ofNat s.pwrlim 32).trans (Nat.mod_eq_of_lt hp))
    · rw [package 0x20 (by omega), package 0x24 (by omega)]
      exact lo32_add_hi32 s.health
    · exact (package 0x28 (by omega)).trans ((BitVec.toNat_ofNat s.domid 32).trans (Nat.mod_eq_of_lt hd))
    · exact package 0x30 (by omega)
    · exact package 0 (by omega)
    · exact package 0x1C (by omega)
    · rw [package _ (by omega), s.packageWord_heatlim hdie, State.heatlimWord_toNat hi hl]
    · have unseen := (s.seesBlock_false_iff func vd).mpr (.inr (.inr ⟨h0, hne⟩))
      show (s.controlWord func _).toNat = 0
      rw [s.controlWord_block func hvd hoff, unseen]
      rfl
    · intro d
      have sees := (s.seesBlock_iff func vd).mpr ⟨up, hvd, hf⟩
      have block (off : Nat) (h : off < 4096) : own off = (d.blockWord off).toNat :=
        congrArg BitVec.toNat ((s.controlWord_block func hvd h).trans (if_pos sees))
      refine ⟨block 0 (by omega), block 0x04 (by omega), ?_, block 0x48 (by omega), block 0x94 (by omega), block 0xB0 (by omega),
        block 0xB4 (by omega), block 0xB8 (by omega), ?_, fun off low hoff => ?_⟩
      · rw [block 0x20 (by omega), block 0x24 (by omega)]
        exact wordOf_zero_add_one d.cmd
      · rw [block 0x180 (by omega), block 0x184 (by omega)]
        exact wordOf_zero_add_one d.mwbase
      · rw [block off hoff, d.blockWord_reserved low]
        rfl

end Sys2Proof.Machine

/-! PROOFS. Package reset, power and heat (01 R19-R23, 23 R298-R302, 25 R328): the sparse maps, bytes and records that the events
below write, one rule per event, then the statements `Obligations.ResetRegisters` and `Obligations.PowerSteps`. -/

namespace Sys2Proof.Machine

/-- Settles O10: reset leaves every sparse map empty, so that each register reads its default. -/
theorem resetRegisters : Obligations.ResetRegisters :=
  ⟨rfl, rfl, fun _ _ => rfl, rfl, rfl, fun _ => rfl, fun _ => ⟨rfl, rfl, rfl, rfl, rfl, rfl, rfl, rfl, rfl, rfl, rfl⟩,
    fun _ => rfl, by decide, rfl, rfl⟩

/-! Sparse maps and bytes. -/

theorem nget_of_mem {α : Type} (d : α) {k : Nat} {x : α} : ∀ {m : NMap α}, (m.map fun p => p.1).Nodup → (k, x) ∈ m →
    nget d m k = x
  | (j, y) :: m, nodup, h => by
    obtain ⟨fresh, nodup⟩ := List.nodup_cons.mp nodup
    rw [nget]
    rcases List.mem_cons.mp h with h | h
    · obtain ⟨rfl, rfl⟩ := Prod.mk.inj h
      exact if_pos rfl
    · have hne : k ≠ j := fun e => fresh (List.mem_map.mpr ⟨(k, x), h, e⟩)
      rw [if_neg hne]
      exact nget_of_mem d nodup h

/-- A map after every key of a list has been set: those keys hold their new value. -/
theorem nget_foldl_nset {α : Type} [DecidableEq α] (d : α) (f : Nat → α) (j : Nat) : ∀ (ks : List Nat) (m : NMap α),
    nget d (ks.foldl (fun m k => nset d m k (f k)) m) j = if j ∈ ks then f j else nget d m j
  | [], _ => by simp
  | k :: ks, m => by
    rw [List.foldl_cons, nget_foldl_nset d f j ks, nget_nset]
    by_cases hk : j = k <;> by_cases hks : j ∈ ks <;> simp [hk, hks]

theorem nget_filter_key {α : Type} (d : α) (keep : Nat → Bool) (k : Nat) : ∀ m : NMap α,
    nget d (m.filter fun c => keep c.1) k = if keep k = true then nget d m k else d
  | [] => by simp [nget]
  | (j, x) :: m => by
    have ih := nget_filter_key d keep k m
    rw [List.filter_cons]
    by_cases hj : k = j
    · subst hj
      by_cases hk : keep k = true <;> simp [hk, nget, ih]
    · by_cases hkj : keep j = true <;> simp [hkj, hj, nget, ih]

theorem length_toBytes : ∀ n w : Nat, (toBytes n w).length = n
  | 0, _ => rfl
  | n + 1, w => by rw [toBytes, List.length_cons, length_toBytes n]

/-! Fault records (R320). -/

/-- R320: the record of a failure that no group is behind: its address, cause, kind and device. -/
theorem faultRecord_of_no_group (addr kind vd : Nat) (cause : Word) :
    faultRecord addr 0 cause.toNat 0 kind vd 0 0 0 0 0 =
      addr % 2 ^ 64 * 2 ^ 192 + cause.toNat * 2 ^ 96 + kind % 256 * 2 ^ 56 + vd % 256 * 2 ^ 48 := by
  have hcause := cause.isLt
  rw [faultRecord]
  omega

/-! Written limits (R21, R22). -/

theorem limitOf_eq (lo hi : Nat) (w : Word) : limitOf lo hi w = min hi (max lo (w.toNat % 4096)) / 25 * 25 := by
  have low : field w.toNat 0 12 = w.toNat % 4096 := field_low w.toNat 12
  rw [limitOf, low]

theorem exec_pwrlimWrite_physical {s : State} (w : Word) (up : s.fwfail = false) :
    exec (.pwrlimWrite 0 w) s = .next { s with pwrlim := min 2800 (max 1500 (w.toNat % 4096)) / 25 * 25 } := by
  show execPwrlimWrite 0 w s = _
  rw [execPwrlimWrite, if_neg (by simp [State.hostUp, up]), limitOf_eq]

theorem exec_heatlimWrite_physical {s : State} {die : Nat} (w : Word) (up : s.fwfail = false) (hdie : die < 4) :
    exec (.heatlimWrite 0 die w) s = .next { s with
      heatlim := nset 700 s.heatlim die (min 800 (max 350 (w.toNat % 4096)) / 25 * 25) } := by
  show execHeatlimWrite 0 die w s = _
  rw [execHeatlimWrite, if_neg (by simp [State.hostUp, up, hdie]), limitOf_eq]

theorem exec_limitWrite_virtual (s : State) {func : Nat} (die : Nat) (w : Word) (h : func ≠ 0) :
    exec (.pwrlimWrite func w) s = .next s ∧ exec (.heatlimWrite func die w) s = .next s := by
  constructor
  · show execPwrlimWrite func w s = _
    rw [execPwrlimWrite, if_pos (by simp [h])]
  · show execHeatlimWrite func die w s = _
    rw [execHeatlimWrite, if_pos (by simp [h])]

/-! The thermal step (R22). -/

/-- R22: a die's thermal limit after a step at `now`: `since` is one more than the clk of the first of the steps that read below the
trip point without a break, 0 where there is none. -/
def thermalAfter (r : SensorReading) (old since now : Nat) : Nat :=
  match r with
  | .aboveTrip => max 350 (old - 25)
  | .belowTrip => if since ≠ 0 && since + 1500000000 ≤ now + 1 then min 800 (old + 25) else old
  | .other => old

theorem thermalAfter_belowTrip (old : Nat) {since : Nat} (now : Nat) (h : since ≠ 0) :
    thermalAfter .belowTrip old since now = if since + 1500000000 ≤ now + 1 then min 800 (old + 25) else old := by
  simp [thermalAfter, h]

/-- R22: where those steps begin, after one more. -/
def coolAfter (r : SensorReading) (since now : Nat) : Nat :=
  match r with
  | .belowTrip => if since = 0 then now + 1 else since
  | _ => 0

theorem exec_thermalLimitStep (s : State) {die : Nat} (r : SensorReading) (h : die < 4) :
    let now := max s.clock (nget 0 s.lastThermal die + 15000000)
    let since := nget 0 s.coolSince die
    exec (.thermalLimitStep die r) s = .next { s with
      clock := now, lastThermal := nset 0 s.lastThermal die now
      thermal := nset 800 s.thermal die (thermalAfter r (nget 800 s.thermal die) since now)
      coolSince := nset 0 s.coolSince die (coolAfter r since now) } := by
  intro now since
  show execThermalLimitStep die r s = _
  rw [execThermalLimitStep, if_neg (Nat.not_le.mpr h)]
  cases r <;> rfl

/-! The refill step (R299). -/

/-- R299: a device after the refill step. -/
def State.afterRefill (s : State) (v : Nat) : VDev :=
  let d := { s.vd v with draw := [], prevDraw := (s.vd v).draw }
  if d.created then { d with level := s.refilled v } else d

theorem State.refilled_le (s : State) (v : Nat) : s.refilled v ≤ 1000000 * ((s.vd v).rescap : Int) := Int.min_le_left _ _

theorem exec_reservoirRefill (s : State) :
    exec .reservoirRefill s = .next { s with
      clock := max s.clock (s.lastRefill + 1500000), lastRefill := s.lastRefill + 1500000, free := s.free + 256
      vds := s.vdList.foldl (fun m v => nset {} m v (s.afterRefill v)) s.vds } := rfl

/-! Idle collapse and wake (R301, R302). -/

theorem exec_idleThresholdExpiry_idle {s : State} {v c : Nat} (since : (s.vd v).idleSince = some c)
    (created : (s.vd v).created = true) (awake : (s.vd v).pstate = .awake) (idle : s.deviceIdle v = true) :
    exec (.idleThresholdExpiry v) s = .next (State.modVd { s with clock := max s.clock (c + (s.vd v).idlethr * 1500) } v
      fun d => { d with pstate := .collapsing, idleSince := none }) := by
  show execIdleThresholdExpiry v s = _
  rw [execIdleThresholdExpiry, since]
  exact if_neg (by simp [created, awake, idle])

theorem exec_idleThresholdExpiry_busy {s : State} {v : Nat} (h : (s.vd v).idleSince = none) :
    exec (.idleThresholdExpiry v) s = .next s := by
  show execIdleThresholdExpiry v s = _
  rw [execIdleThresholdExpiry, h]

/-- A write of the device itself to memory changes no device's block. -/
theorem State.putAt_vds (s : State) (vd pa n w : Nat) : (s.putAt vd pa n w).vds = s.vds := by
  rw [State.putAt, State.putNum_vds, State.sendPeer_only]

theorem State.putEntry_vds (s : State) (vd c L off n w : Nat) : (s.putEntry vd c L off n w).vds = s.vds := by
  rw [State.putEntry]
  split
  · exact s.putAt_vds _ _ _ _
  · rfl

theorem mapPages_vds (vd : Nat) : ∀ (fs : List (Option Nat)) (va : Nat) (s : State), (mapPages vd va fs s).vds = s.vds
  | [], _, _ => rfl
  | f :: fs, va, s => by
    show (mapPages vd (va + 0x10000) fs _).vds = s.vds
    rw [mapPages_vds vd fs]
    split
    · exact s.putAt_vds _ _ _ _
    · rfl

theorem State.unmapWindow_vds (s : State) (vd e : Nat) (frames : List Nat) : (s.unmapWindow vd e frames).vds = s.vds := by
  rw [State.unmapWindow]
  split
  · rfl
  · exact mapPages_vds vd _ _ s

/-- Two states agree on the power state of every device. -/
def State.samePower (s t : State) : Prop := ∀ v, (t.vd v).pstate = (s.vd v).pstate

theorem State.samePower.trans {s t u : State} (h : s.samePower t) (k : t.samePower u) : s.samePower u :=
  fun v => (k v).trans (h v)

theorem State.samePower_of_vds {s t : State} (h : t.vds = s.vds) : s.samePower t := fun v => by rw [State.vd, State.vd, h]

theorem State.samePower_modVd (s : State) (vd : Nat) {f : VDev → VDev} (h : (f (s.vd vd)).pstate = (s.vd vd).pstate) :
    s.samePower (s.modVd vd f) := fun v => by
  rw [State.vd_modVd]
  split
  · next hv => rw [h, hv]
  · rfl

theorem samePower_foldl {α : Type} {f : State → α → State} (h : ∀ (s : State) (a : α), s.samePower (f s a)) :
    ∀ (as : List α) (s : State), s.samePower (as.foldl f s)
  | [], _ => fun _ => rfl
  | a :: as, s => (h s a).trans (samePower_foldl h as (f s a))

/-- R287: a window that is dropped gives its frames back to the device's pool, and the device stays as it is otherwise. -/
theorem State.samePower_dropWindow (s : State) (n L : Nat) (low : Nat → Nat) : s.samePower (s.dropWindow n L low) := by
  rw [State.dropWindow]
  split
  · exact fun _ => rfl
  · next c _ =>
    refine State.samePower.trans (t := s.modVd c.vd fun v => { v with vaultFree := v.vaultFree ++ c.window L })
      (s.samePower_modVd c.vd rfl) (State.samePower_of_vds ?_)
    rw [State.putEntry_vds, State.putEntry_vds]
    split <;> rfl

theorem State.samePower_dropLayers (s : State) (n : Nat) : s.samePower (s.dropLayers n) := by
  rw [State.dropLayers]
  split
  · exact fun _ => rfl
  · refine State.samePower.trans (samePower_foldl (fun u L => ?_) _ s) (State.samePower_of_vds rfl)
    exact (State.samePower_of_vds (u.unmapWindow_vds _ _ _)).trans (State.samePower_dropWindow _ n L _)

theorem exec_collapseComplete_classA {s : State} {v : Nat} (h : (s.vd v).pstate = .collapsing) (hc : (s.vd v).wclass = 0) :
    exec (.collapseComplete v) s = .next (s.modVd v fun d => { d with pstate := .collapsed }) := by
  show execCollapseComplete v s = _
  rw [execCollapseComplete, if_neg (by simp [h]), if_pos hc]

/-- R301: what a collapse of class B or C saves and drops leaves the device collapsed. -/
theorem exec_collapseComplete_saves {s : State} {v : Nat} (h : (s.vd v).pstate = .collapsing) (hc : (s.vd v).wclass ≠ 0) :
    ∃ t, exec (.collapseComplete v) s = .next t ∧ (t.vd v).pstate = .collapsed := by
  have run : exec (.collapseComplete v) s = execCollapseComplete v s := rfl
  rw [execCollapseComplete, if_neg (by simp [h]), if_neg hc] at run
  refine ⟨_, run, ?_⟩
  rw [State.vd_modVd_same]
  refine (samePower_foldl State.samePower_dropLayers _ _ v).trans ?_
  rw [State.vd_modVd_same]

theorem exec_collapseComplete_other {s : State} {v : Nat} (h : (s.vd v).pstate ≠ .collapsing) :
    exec (.collapseComplete v) s = .next s := by
  show execCollapseComplete v s = _
  rw [execCollapseComplete, if_pos (by simpa using h)]

theorem exec_wakeComplete_waking {s : State} {v : Nat} (h : (s.vd v).pstate = .waking) :
    exec (.wakeComplete v) s = .next (s.modVd v fun d => { d with pstate := .awake, wakes := d.wakes + 1 }) := by
  show execWakeComplete v s = _
  rw [execWakeComplete, if_neg (by simp [h])]

theorem exec_vaultPageRestore {s : State} {v : Nat} (page : Nat) (h : (s.vd v).pstate = .waking ∨ (s.vd v).pstate = .awake) :
    exec (.vaultPageRestore v page) s =
      .next (s.modVd v fun d => { d with unrestored := d.unrestored.filter (· ≠ page) }) := by
  show execVaultPageRestore v page s = _
  rcases h with h | h <;> rw [execVaultPageRestore, h]

theorem exec_wake_taken {s : State} {func v : Nat} {value : Word} (up : s.fwfail = false) (hf : func = 0 ∨ func = v)
    (hv : value.getLsbD 0 = true) (created : (s.vd v).created = true) :
    exec (.wake func v value) s = .next (s.wakeDev v) := by
  show execWake func v value s = _
  rw [execWake, if_neg]
  rcases hf with rfl | rfl <;> simp [State.hostUp, up, hv, created]

theorem exec_wake_ignored (s : State) {func v : Nat} (value : Word) (h0 : func ≠ 0) (hv : func ≠ v) :
    exec (.wake func v value) s = .next s := by
  show execWake func v value s = _
  rw [execWake, if_pos (by simp [h0, hv])]

/-! Scrubbing (R328). -/

theorem State.zeroMem_byte (s : State) (a n b : Nat) :
    (s.zeroMem a n).byte b = if a ≤ b ∧ b < a + n then 0 else s.byte b := by
  rw [State.byte, State.zeroMem, nget_filter_key unlistedByte (fun k => !(decide (a ≤ k) && decide (k < a + n))) b s.mem]
  by_cases h : a ≤ b ∧ b < a + n
  · simp [h]
  · rw [if_neg h, if_pos (by rw [← Bool.decide_and, decide_eq_false h]; rfl), State.byte]

/-- The device's own store after zeroing: what is asked of a peer is what the state before would ask. -/
theorem State.putAt_zeroMem (s : State) (a n vd pa k w : Nat) :
    (s.zeroMem a n).putAt vd pa k w = { s.sendPeer vd pa (.store (toBytes k w)) with
      mem := ((s.zeroMem a n).putNum pa k w).mem } := by
  rw [State.putAt, State.sendPeer, State.sendPeer]
  split <;> rfl

/-- R328: a byte after a scrub, where the entry's own bytes do not stand. -/
theorem State.scrubbed_byte (s : State) {f n a w b : Nat} (h : b < a ∨ a + 8 ≤ b) :
    nget unlistedByte ((s.zeroMem f n).putNum a 8 w).mem b = if f ≤ b ∧ b < f + n then 0 else s.byte b := by
  rw [← State.zeroMem_byte]
  exact (s.zeroMem f n).putMem_byte_outside a _ b (by rwa [length_toBytes])

/-! The obligation. -/

/-- Settles O51: each limit, step and change of a device's power state by its rule above. -/
theorem powerSteps : Obligations.PowerSteps := by
  unfold Obligations.PowerSteps
  refine ⟨?limits, ?thermal, ?refill, ?power, ?scrub⟩
  case limits =>
    intro s func die w up
    refine ⟨exec_pwrlimWrite_physical w up, fun hdie => ⟨_, exec_heatlimWrite_physical w up hdie, fun k => ?_⟩,
      exec_limitWrite_virtual s die w⟩
    exact nget_nset 700 _ die k s.heatlim
  case thermal =>
    intro s die r hdie due old now since
    refine ⟨_, _, _, exec_thermalLimitStep s r hdie, nget_nset_same .., fun k hk => nget_nset_other _ _ hk _, ?_⟩
    rw [nget_nset_same, nget_nset_same]
    refine ⟨?_, ?_, ?_, ?_, ?_⟩
    · rintro rfl; rfl
    · rintro rfl; rfl
    · intro hr
      cases r with
      | belowTrip => exact absurd rfl hr
      | aboveTrip | other => rfl
    · rintro rfl hs
      exact ⟨if_pos hs, if_neg (by simp [since, hs])⟩
    · rintro rfl hs
      exact ⟨if_neg hs, thermalAfter_belowTrip old now hs⟩
  case refill =>
    intro s
    refine ⟨_, exec_reservoirRefill s, fun v d hd nodup created => ?_⟩
    have block : s.vd v = d := nget_of_mem ({} : VDev) nodup hd
    have listed : v ∈ s.vdList := List.mem_map.mpr ⟨(v, d), hd, rfl⟩
    refine ⟨?_, block ▸ s.refilled_le v⟩
    rw [nget_foldl_nset, if_pos listed, State.afterRefill, block]
    exact if_pos created
  case power =>
    intro s v d
    refine ⟨fun c => exec_idleThresholdExpiry_idle, exec_idleThresholdExpiry_busy, exec_collapseComplete_classA,
      exec_collapseComplete_saves, exec_collapseComplete_other, exec_wakeComplete_waking,
      fun h page => exec_vaultPageRestore page h, fun func value up hf hv created => ?_, fun func value => exec_wake_ignored s value⟩
    exact ⟨_, exec_wake_taken up hf hv created, s.vd_wakeDev_same v, fun k hk => s.vd_modVd_other _ hk⟩
  case scrub =>
    intro s v va a e sh root leaf scrub aligned
    have run : exec (.scrubComplete v va) s = execScrubComplete v va s := rfl
    rw [execScrubComplete, if_neg (by simp [root]), leaf] at run
    have taken : ¬(decide (field e 7 1 = 0) || !leafAligned e sh) = true := by simp [scrub, aligned]
    refine ⟨_, (run.trans (if_neg taken)).trans (congrArg _ (s.putAt_zeroMem _ _ v _ _ _)),
      fun b low high home apart => ?_, fun b outside apart => ?_⟩
    · rw [State.scrubbed_byte s (by omega), home, if_pos ⟨low, high⟩]
    · rw [State.scrubbed_byte s apart, if_neg (by omega)]

end Sys2Proof.Machine

/-! PROOFS. The memory window (27 R345, R346, 25 R320): what a request's parts come to, how one request is served, one rule
per kind of request, then the statement `Obligations.MemoryWindowIsTranslated`. -/

namespace Sys2Proof.Machine

/-! Reads of memory. -/

theorem State.bytes_of_mem {s t : State} (h : t.mem = s.mem) : ∀ n a : Nat, t.bytes a n = s.bytes a n
  | 0, _ => rfl
  | n + 1, a => by rw [State.bytes, State.bytes, State.byte_of_mem h, State.bytes_of_mem h n]

theorem State.locBytes_phys (s : State) : ∀ n a : Nat, s.locBytes (.phys a) n = s.bytes a n
  | 0, _ => rfl
  | n + 1, a => by
    have rest : (fun i => s.locByte (.phys a) (i + 1)) = s.locByte (.phys (a + 1)) := by
      funext i
      exact congrArg s.byte (by omega)
    rw [State.bytes, ← State.locBytes_phys s n (a + 1), State.locBytes, List.range_succ_eq_map, List.map_cons, List.map_map,
      State.locBytes, ← rest]
    rfl

/-! Records (R320). -/

/-- R320: the KIND 5 record of a failed access, field by field. -/
def State.windowFails (s : State) (func : Nat) (va : DWord) (cause : Nat) : State :=
  s.postRecord func (va.toNat * 2 ^ 192 + cause * 2 ^ 96 + 5 * 2 ^ 56 + func * 2 ^ 48)

theorem State.windowRecord_eq (s : State) {func : Nat} (va : DWord) (cause : Word) (hf : func < 256) :
    s.windowRecord func va cause = s.windowFails func va cause.toNat := by
  rw [State.windowRecord, State.windowFails, faultRecord_of_no_group, Nat.mod_eq_of_lt va.isLt, Nat.mod_eq_of_lt hf]

theorem causeWord_page (d : Nat) : (causeWord causePage d).toNat = 2 ^ 31 + d % 2 ^ 26 := by
  rw [causeWord, BitVec.toNat_ofNat, causePage]
  omega

/-! A request of one part. -/

theorem windowParts_one {va n : Nat} (hn : 0 < n) (h : va % 16 + n ≤ 16) : windowParts va n = [(va, n)] := by
  have one : (va + n - 1) / 16 - va / 16 + 1 = 1 := by omega
  have low : max va (va / 16 * 16) = va := by omega
  have high : min (va + n) ((va / 16 + 1) * 16) = va + n := by omega
  simp only [windowParts, one, List.range_one, List.filterMap_cons, List.filterMap_nil, Nat.add_zero, low, high]
  rw [if_pos (Nat.lt_add_of_pos_right hn), Nat.add_sub_cancel_left]

theorem State.windowPlaces_fault {s : State} {vd : Nat} {acc : Access} {va : DWord} {d : Nat} (n : Nat)
    (h : s.translate deviceAgent vd acc va = .fault d) : s.windowPlaces vd acc [(va.toNat, n)] = .failed d := by
  rw [State.windowPlaces, BitVec.ofNat_toNat, BitVec.setWidth_eq, h]

theorem State.windowPlaces_stall {s : State} {vd : Nat} {acc : Access} {va : DWord} (n : Nat)
    (h : s.translate deviceAgent vd acc va = .stall) : s.windowPlaces vd acc [(va.toNat, n)] = .wait := by
  rw [State.windowPlaces, BitVec.ofNat_toNat, BitVec.setWidth_eq, h]
  rfl

theorem State.windowPlaces_ok {s : State} {vd : Nat} {acc : Access} {va : DWord} {pa n : Nat}
    (h : s.translate deviceAgent vd acc va = .ok pa) (good : acc = .load → s.badRange pa n = false) :
    s.windowPlaces vd acc [(va.toNat, n)] = .ok [(pa, n)] := by
  rw [State.windowPlaces, BitVec.ofNat_toNat, BitVec.setWidth_eq, h]
  exact if_neg (by simpa using good)

/-- R349, log 28: an uncorrectable error fails a read like a bad frame. -/
theorem State.windowPlaces_bad {s : State} {vd : Nat} {va : DWord} {pa n : Nat}
    (h : s.translate deviceAgent vd .load va = .ok pa) (bad : s.badRange pa n = true) :
    s.windowPlaces vd .load [(va.toNat, n)] = .failed 4 := by
  rw [State.windowPlaces, BitVec.ofNat_toNat, BitVec.setWidth_eq, h]
  exact if_pos (by simpa using bad)

/-! Serving one request. -/

/-- R345: a request that arrives alone at an awake device is served, or waits alone. -/
theorem State.windowArrive_alone {s : State} {r : WindowReq} (alone : s.windowReqs = []) (awake : (s.vd r.head.1).pstate = .awake) :
    s.windowArrive r = (s.windowServe r).getD { s with windowReqs := [r] } := by
  have same : ({ s with windowReqs := [] } : State) = s := by rw [← alone]
  have arrives : s.windowArrive r = serveWindowFrom [r] [] { s with windowReqs := [] } := by
    rw [State.windowArrive, if_neg (by simp [awake]), State.serveWindows, alone]
    rfl
  rw [arrives, same, serveWindowFrom]
  cases s.windowServe r with
  | some t => rfl
  | none => simp [serveWindowFrom, alone]

theorem State.windowArrive_served {s t : State} {r : WindowReq} (h : s.windowServe r = some t) (alone : s.windowReqs = [])
    (awake : (s.vd r.head.1).pstate = .awake) : s.windowArrive r = t := by
  rw [State.windowArrive_alone alone awake, h]
  rfl

theorem State.windowArrive_waits {s : State} {r : WindowReq} (h : s.windowServe r = none) (alone : s.windowReqs = [])
    (awake : (s.vd r.head.1).pstate = .awake) : s.windowArrive r = { s with windowReqs := [r] } := by
  rw [State.windowArrive_alone alone awake, h]
  rfl

section
variable {s : State} {func n : Nat} {va : DWord} {places : List (Nat × Nat)} {d : Nat}

theorem State.windowServe_read_ok (t : Nat) (awake : (s.vd func).pstate = .awake)
    (h : s.windowPlaces func .load (windowParts va.toNat n) = .ok places) :
    s.windowServe (.read func va n t) =
      some ((askParts func places s).tellHost (.readData (places.flatMap fun p => s.bytes p.1 p.2))) := by
  simp [State.windowServe, WindowReq.head, awake, h]

theorem State.windowServe_read_failed (t : Nat) (awake : (s.vd func).pstate = .awake)
    (h : s.windowPlaces func .load (windowParts va.toNat n) = .failed d) :
    s.windowServe (.read func va n t) = some ((s.windowRecord func va (causeWord causePage d)).tellHost .completerAbort) := by
  simp [State.windowServe, WindowReq.head, awake, h]

theorem State.windowServe_read_wait (t : Nat) (awake : (s.vd func).pstate = .awake)
    (h : s.windowPlaces func .load (windowParts va.toNat n) = .wait) : s.windowServe (.read func va n t) = none := by
  simp [State.windowServe, WindowReq.head, awake, h]

theorem State.windowServe_write_ok (bs : List Byte) (t : Nat) (awake : (s.vd func).pstate = .awake)
    (h : s.windowPlaces func .store (windowParts va.toNat bs.length) = .ok places) :
    s.windowServe (.write func va bs t) = some (putParts func places bs s) := by
  simp [State.windowServe, WindowReq.head, awake, h]

theorem State.windowServe_write_failed (bs : List Byte) (t : Nat) (awake : (s.vd func).pstate = .awake)
    (h : s.windowPlaces func .store (windowParts va.toNat bs.length) = .failed d) :
    s.windowServe (.write func va bs t) = some (s.windowRecord func va (causeWord causePage (0x10 + d))) := by
  simp [State.windowServe, WindowReq.head, awake, h]

theorem State.windowServe_atomic_failed (op : WindowAtomic) (operand swap : DWord) (t : Nat) (awake : (s.vd func).pstate = .awake)
    (h : s.windowPlaces func .store (windowParts va.toNat n) = .failed d) :
    s.windowServe (.atomic func va n op operand swap t) =
      some ((s.windowRecord func va (causeWord causePage (0x10 + d))).tellHost .completerAbort) := by
  simp [State.windowServe, WindowReq.head, awake, h]

/-- R345: an AtomicOp gives the host the old value and leaves the new one; at a peer, it asks for that (R346). -/
theorem State.windowServe_atomic_ok {pa : Nat} (op : WindowAtomic) (operand swap : DWord) (t : Nat)
    (awake : (s.vd func).pstate = .awake) (h : s.windowPlaces func .store (windowParts va.toNat n) = .ok [(pa, n)]) :
    s.windowServe (.atomic func va n op operand swap t) =
      some (((s.sendPeer func pa (.atomic n (windowOp op) operand swap)).tellHost (.readData (toBytes n (s.num pa n)))).putNum pa n
        (atomicValue (8 * n) (windowOp op) (s.num pa n) (operand.toNat % 2 ^ (8 * n)) (swap.toNat % 2 ^ (8 * n)))) := by
  have old : ofBytes ((s.sendPeer func pa (.atomic n (windowOp op) operand swap)).locBytes (.phys pa) n) = s.num pa n := by
    rw [State.locBytes_phys, State.bytes_of_mem (State.sendPeer_mem _ _ _ _), State.num]
  simp only [State.windowServe, WindowReq.head, awake, h, State.atomicStep, old, ne_eq, not_true_eq_false, if_false]
  rfl

end

/-! The requests (R345). -/

theorem State.inWindow_iff (s : State) (func offset n : Nat) :
    s.inWindow func offset n = true ↔ s.fwfail = false ∧ func < 256 ∧ offset + n ≤ 2 ^ (s.vd func).mwlog2 := by
  simp [State.inWindow, State.hostUp, and_assoc]

theorem State.inWindow_beyond {s : State} {func offset n : Nat} (h : 2 ^ (s.vd func).mwlog2 < offset + n) :
    s.inWindow func offset n = false := by
  rw [← Bool.not_eq_true, State.inWindow_iff]
  omega

section
variable {s : State} {func offset n : Nat}

theorem exec_memoryWindowRead_beyond (h : s.inWindow func offset n = false) :
    exec (.memoryWindowRead func offset n) s = .next s := by
  show execMemoryWindowRead func offset n s = _
  rw [execMemoryWindowRead, h]
  rfl

theorem exec_memoryWindowWrite_beyond {bs : List Byte} (h : s.inWindow func offset bs.length = false) :
    exec (.memoryWindowWrite func offset bs) s = .next s := by
  show execMemoryWindowWrite func offset bs s = _
  rw [execMemoryWindowWrite, h]
  rfl

theorem exec_memoryWindowAtomic_beyond (op : WindowAtomic) (operand swap : DWord) (h : s.inWindow func offset n = false) :
    exec (.memoryWindowAtomic func offset n op operand swap) s = .next s := by
  show execMemoryWindowAtomic func offset n op operand swap s = _
  rw [execMemoryWindowAtomic, h]
  rfl

theorem exec_memoryWindowRead_served {t : State} (inside : s.inWindow func offset n = true) (alone : s.windowReqs = [])
    (awake : (s.vd func).pstate = .awake) (h : s.windowServe (.read func (s.windowVa func offset) n s.clock) = some t) :
    exec (.memoryWindowRead func offset n) s = .next t := by
  show execMemoryWindowRead func offset n s = _
  rw [execMemoryWindowRead, if_neg (by simp [inside]), State.windowArrive_served h alone awake]

theorem exec_memoryWindowRead_waits (inside : s.inWindow func offset n = true) (alone : s.windowReqs = [])
    (awake : (s.vd func).pstate = .awake) (h : s.windowServe (.read func (s.windowVa func offset) n s.clock) = none) :
    exec (.memoryWindowRead func offset n) s = .next { s with windowReqs := [.read func (s.windowVa func offset) n s.clock] } := by
  show execMemoryWindowRead func offset n s = _
  rw [execMemoryWindowRead, if_neg (by simp [inside]), State.windowArrive_waits h alone awake]

theorem exec_memoryWindowWrite_served {t : State} {bs : List Byte} (inside : s.inWindow func offset bs.length = true)
    (alone : s.windowReqs = []) (awake : (s.vd func).pstate = .awake)
    (h : s.windowServe (.write func (s.windowVa func offset) bs s.clock) = some t) :
    exec (.memoryWindowWrite func offset bs) s = .next t := by
  show execMemoryWindowWrite func offset bs s = _
  rw [execMemoryWindowWrite, if_neg (by simp [inside]), State.windowArrive_served h alone awake]

theorem exec_memoryWindowAtomic_unsupported (op : WindowAtomic) (operand swap : DWord) (inside : s.inWindow func offset 16 = true) :
    exec (.memoryWindowAtomic func offset 16 op operand swap) s = .next (s.tellHost .unsupportedRequest) := by
  show execMemoryWindowAtomic func offset 16 op operand swap s = _
  rw [execMemoryWindowAtomic, inside]
  rfl

theorem exec_memoryWindowAtomic_malformed (op : WindowAtomic) (operand swap : DWord) (inside : s.inWindow func offset n = true)
    (h16 : n ≠ 16) (h : (n ≠ 4 ∧ n ≠ 8) ∨ (s.windowVa func offset).toNat % n ≠ 0) :
    exec (.memoryWindowAtomic func offset n op operand swap) s = .next (s.tellHost .malformed) := by
  show execMemoryWindowAtomic func offset n op operand swap s = _
  rw [execMemoryWindowAtomic, if_neg (by simp [inside])]
  show (if _ then _ else if _ then _ else _) = _
  rw [if_neg h16, if_pos (by simpa using h)]

theorem exec_memoryWindowAtomic_served {t : State} {op : WindowAtomic} {operand swap : DWord}
    (inside : s.inWindow func offset n = true) (size : n = 4 ∨ n = 8) (aligned : (s.windowVa func offset).toNat % n = 0)
    (alone : s.windowReqs = []) (awake : (s.vd func).pstate = .awake)
    (h : s.windowServe (.atomic func (s.windowVa func offset) n op operand swap s.clock) = some t) :
    exec (.memoryWindowAtomic func offset n op operand swap) s = .next t := by
  show execMemoryWindowAtomic func offset n op operand swap s = _
  rw [execMemoryWindowAtomic, if_neg (by simp [inside])]
  show (if _ then _ else if _ then _ else _) = _
  have natural : (!(decide (n = 4) || decide (n = 8)) || decide ((s.windowVa func offset).toNat % n ≠ 0)) = false := by
    rw [aligned]
    rcases size with rfl | rfl <;> rfl
  rw [if_neg (by omega), if_neg (by rw [natural]; exact Bool.false_ne_true), State.windowArrive_served h alone awake]

end

/-! Requests given up, and the window's size (R345). -/

theorem promiseUs_eq (cls : Nat) : promiseUs cls = match cls with | 0 => 20 | 1 => 1500 | _ => 40000 := by
  match cls with
  | 0 | 1 | _ + 2 => rfl

/-- R345: a request of this function, address and time is given up: it waits no longer, and a KIND 5 record stands for it. -/
def State.windowGivenUp (s : State) (index func : Nat) (va : DWord) (since : Nat) : State :=
  ({ s with
    windowReqs := s.windowReqs.eraseIdx index
    clock := max s.clock (since + (promiseUs (s.vd func).wclass + (s.vd func).rtimeout) * 1500) }.windowRecord func va
      (Config.timeoutCause s.free)).bumpFree 1

theorem State.windowGivenUp_eq (s : State) (index : Nat) {func : Nat} (va : DWord) (since : Nat) (hf : func < 256) :
    s.windowGivenUp index func va since =
      ({ s with
        windowReqs := s.windowReqs.eraseIdx index
        clock := max s.clock (since +
          ((match (s.vd func).wclass with | 0 => 20 | 1 => 1500 | _ => 40000) + (s.vd func).rtimeout) * 1500) }.windowFails func va
            (Config.timeoutCause s.free).toNat).bumpFree 1 := by
  rw [State.windowGivenUp, State.windowRecord_eq _ _ _ hf, promiseUs_eq]

/-- R345: what the host is told of a request that is given up: a read or AtomicOp is aborted, a write dropped. -/
def WindowReq.giveUp (r : WindowReq) (s : State) : State :=
  match r with | .write _ _ _ _ => s | _ => s.tellHost .completerAbort

theorem exec_memoryWindowServiceTimeout {s : State} {index : Nat} {r : WindowReq} (h : s.windowReqs[index]? = some r)
    (asleep : (s.vd r.head.1).pstate ≠ .awake) :
    exec (.memoryWindowServiceTimeout index) s =
      .next (r.giveUp (s.windowGivenUp index r.head.1 r.head.2.1 r.head.2.2)) := by
  show execMemoryWindowServiceTimeout index s = _
  have collapsed : s.windowCollapsed r = true := by simp [State.windowCollapsed, asleep]
  rw [execMemoryWindowServiceTimeout, h]
  show (if _ then _ else _) = _
  rw [if_neg (by simp [collapsed])]
  rfl

theorem step_windowSize {s : State} {rest : List Turn} {func k : Nat} (h : s.agenda = .windowSize func k :: rest) :
    step s = State.finish s (({ s with agenda := rest } : State).setWindow func k) := by
  rw [step, State.choose, h]
  rfl

/-! The obligation. -/

/-- Settles O55: each request by the rule of its kind, from what the translation of its one part comes to. -/
theorem memoryWindowIsTranslated : Obligations.MemoryWindowIsTranslated := by
  unfold Obligations.MemoryWindowIsTranslated
  refine ⟨?readsWrites, ?atomics, ?givenUp, ?size⟩
  case readsWrites =>
    intro s func offset n pa va up hf alone awake hn one
    have part : windowParts va.toNat n = [(va.toNat, n)] := windowParts_one hn one
    refine ⟨fun beyond => ⟨exec_memoryWindowRead_beyond (State.inWindow_beyond beyond), ?_⟩, fun within => ?_⟩
    · rintro bs rfl
      exact exec_memoryWindowWrite_beyond (State.inWindow_beyond beyond)
    have inside : s.inWindow func offset n = true := (s.inWindow_iff func offset n).mpr ⟨up, hf, within⟩
    have readFails {d c : Nat} (h : s.windowPlaces func .load [(va.toNat, n)] = .failed d) (hc : 2 ^ 31 + d % 2 ^ 26 = c) :
        exec (.memoryWindowRead func offset n) s = .next ((s.windowFails func va c).tellHost .completerAbort) := by
      refine exec_memoryWindowRead_served inside alone awake ((State.windowServe_read_failed s.clock awake (part ▸ h)).trans ?_)
      rw [State.windowRecord_eq s _ _ hf, causeWord_page, hc]
      rfl
    refine ⟨fun h good => ?_, fun h bad => readFails (State.windowPlaces_bad h bad) rfl,
      fun d h => readFails (State.windowPlaces_fault n h) rfl, ?_, fun h => ?_, ?_⟩
    · refine exec_memoryWindowRead_served inside alone awake
        ((State.windowServe_read_ok s.clock awake (part ▸ State.windowPlaces_ok h fun _ => good)).trans ?_)
      simp [askParts, State.tellHost]
    · rintro d h bs rfl
      refine exec_memoryWindowWrite_served inside alone awake
        ((State.windowServe_write_failed bs s.clock awake (part ▸ State.windowPlaces_fault _ h)).trans ?_)
      rw [State.windowRecord_eq s _ _ hf, causeWord_page]
      rfl
    · exact exec_memoryWindowRead_waits inside alone awake
        (State.windowServe_read_wait s.clock awake (part ▸ State.windowPlaces_stall n h))
    · rintro bs rfl h
      refine exec_memoryWindowWrite_served inside alone awake
        ((State.windowServe_write_ok bs s.clock awake (part ▸ State.windowPlaces_ok h nofun)).trans ?_)
      rw [putParts, List.take_length]
      rfl
  case atomics =>
    intro s func offset n pa operand swap va old a gives up hf
    refine ⟨fun beyond op => exec_memoryWindowAtomic_beyond op operand swap (State.inWindow_beyond beyond), fun within => ?_⟩
    have inside : s.inWindow func offset n = true := (s.inWindow_iff func offset n).mpr ⟨up, hf, within⟩
    have part (size : n = 4 ∨ n = 8) (aligned : va.toNat % n = 0) : windowParts va.toNat n = [(va.toNat, n)] :=
      windowParts_one (by omega) (by rcases size with rfl | rfl <;> omega)
    refine ⟨?_, fun h16 h op => exec_memoryWindowAtomic_malformed op operand swap inside h16 h, ?_, ?_⟩
    · rintro rfl op
      exact exec_memoryWindowAtomic_unsupported op operand swap inside
    · intro d size aligned alone awake h op
      refine exec_memoryWindowAtomic_served inside size aligned alone awake
        ((State.windowServe_atomic_failed op operand swap s.clock awake (part size aligned ▸ State.windowPlaces_fault n h)).trans ?_)
      rw [State.windowRecord_eq s _ _ hf, causeWord_page]
      rfl
    · intro size aligned alone awake h
      have served (op : WindowAtomic) :
          gives op (windowOp op) (atomicValue (8 * n) (windowOp op) old a (swap.toNat % 2 ^ (8 * n))) :=
        exec_memoryWindowAtomic_served inside size aligned alone awake
          (State.windowServe_atomic_ok op operand swap s.clock awake (part size aligned ▸ State.windowPlaces_ok h nofun))
      exact ⟨served .fetchAdd, served .swap, served .cas⟩
  case givenUp =>
    intro s index r h asleep
    cases r with
    | write func va bs since =>
      refine ⟨(Config.timeoutCause s.free).toNat, fun hf => ⟨fun _ => ?_, fun other => absurd rfl (other bs)⟩⟩
      rw [exec_memoryWindowServiceTimeout h asleep, WindowReq.head, s.windowGivenUp_eq index va since hf]
      rfl
    | read func va n since =>
      refine ⟨(Config.timeoutCause s.free).toNat, fun hf => ⟨nofun, fun _ => ?_⟩⟩
      rw [exec_memoryWindowServiceTimeout h asleep, WindowReq.head, s.windowGivenUp_eq index va since hf]
      rfl
    | atomic func va n op operand swap since =>
      refine ⟨(Config.timeoutCause s.free).toNat, fun hf => ⟨nofun, fun _ => ?_⟩⟩
      rw [exec_memoryWindowServiceTimeout h asleep, WindowReq.head, s.windowGivenUp_eq index va since hf]
      rfl
  case size =>
    intro s rest func k h
    rw [step_windowSize h, State.setWindow]
    simp only [Bool.and_eq_true, decide_eq_true_eq, and_assoc]

end Sys2Proof.Machine

/-! PROOFS. Health, trust, bring-up, peers, soft errors and withdrawal (27 R346-R351, 01 R23): one rule per event, then the
statement `Obligations.ServiceEvents`. -/

namespace Sys2Proof.Machine

/-! CAPS and HEALTH (R23, R349). -/

theorem State.caps_toNat {s : State} (ports : s.nirports < 256) (lost : s.withdrawn.length ≤ 24)
    (retired : s.retiredCores.length ≤ 256) :
    s.caps.toNat = s.nirports * 2 ^ 32 + (24 - s.withdrawn.length) * 2 ^ 24 + 0xFF * 2 ^ 16 + (256 - s.retiredCores.length) := by
  rw [State.caps, BitVec.toNat_ofNat]
  omega

theorem exec_healthWrite_virtual (s : State) {func : Nat} (value : DWord) (h : func ≠ 0) :
    exec (.healthWrite func value) s = .next s := by
  show execHealthWrite func value s = _
  rw [execHealthWrite, if_pos h]

theorem exec_healthWrite_physical (s : State) (value : DWord) :
    exec (.healthWrite 0 value) s = .next { s with uncorr := if value.getLsbD 1 then false else s.uncorr } := by
  show Host.Outcome.next { s with uncorr := s.uncorr && !value.getLsbD 1 } = _
  cases value.getLsbD 1 <;> simp

/-! Trust and bring-up (R347, R351). -/

theorem exec_attestation {s : State} {nonce : List Byte} (h : nonce.length = 32) :
    let report := s.attestationReport nonce
    exec (.attestation 0 nonce) s = .next { s with
      mailbox := putBytes s.mailbox 0 nonce
      hostOut := s.hostOut ++ [.attestation report (Config.attestationSignature report)] } := by
  show execAttestation 0 nonce s = _
  rw [execAttestation, if_neg (by simp [h])]
  rfl

/-- R347: the places of a report's parts. -/
theorem report_parts {nonce digest caps health : List Byte} (rest : List Byte) (ln : nonce.length = 32) (ld : digest.length = 48)
    (lc : caps.length = 8) (lh : health.length = 8) :
    let report := nonce ++ digest ++ caps ++ health ++ rest
    report.take 32 = nonce ∧ (report.drop 80).take 8 = caps ∧ (report.drop 88).take 8 = health := by
  have dn : nonce.drop 88 = [] := List.drop_eq_nil_of_le (by omega)
  have dd : digest.drop 56 = [] := List.drop_eq_nil_of_le (by omega)
  simp [List.take_append, List.drop_append, ln, ld, lc, lh, dn, dd]

/-- R347: the nonce, and CAPS and HEALTH after the firmware's digest (log 10). -/
theorem State.attestationReport_parts (s : State) {nonce : List Byte} (h : nonce.length = 32) :
    (s.attestationReport nonce).take 32 = nonce ∧
    ((s.attestationReport nonce).drop 80).take 8 = toBytes 8 s.caps.toNat ∧
    ((s.attestationReport nonce).drop 88).take 8 = toBytes 8 s.health.toNat :=
  report_parts _ h (length_toBytes _ _) (length_toBytes _ _) (length_toBytes _ _)

theorem exec_firmwareUpdate_physical (s : State) (image : Nat) (sigs : FirmwareSigs) :
    exec (.firmwareUpdate 0 image sigs) s = .next (if (Firmware.mk image sigs).verifies = true then
      { s with nextFirmware := { image := image, sigs := sigs } } else s) := by
  show execFirmwareUpdate 0 image sigs s = _
  rw [execFirmwareUpdate]
  cases (Firmware.mk image sigs).verifies <;> rfl

theorem exec_firmwareUpdate_virtual (s : State) {func : Nat} (image : Nat) (sigs : FirmwareSigs) (h : func ≠ 0) :
    exec (.firmwareUpdate func image sigs) s = .next s := by
  show execFirmwareUpdate func image sigs s = _
  rw [execFirmwareUpdate, if_pos (by simp [h])]

/-- R351: the state after a package reset in which every core passes its self-test. -/
def State.afterReset (s : State) (kept : Bool) : State :=
  { State.reset with
    mem := if kept = true then s.mem else s.mem.filter fun c => !inBulk c.1
    hostOut := s.hostOut, agenda := s.agenda, free := s.free, nextGid := s.nextGid, nextTeam := s.nextTeam
    nextLaunch := s.nextLaunch, nextOp := s.nextOp, busError := s.busError
    firmware := s.nextFirmware, nextFirmware := s.nextFirmware, fwfail := !s.nextFirmware.verifies }

theorem exec_packageReset (s : State) (kept : Bool) : exec (.packageReset [] kept) s = .next (s.afterReset kept) := by
  show execPackageReset [] kept s = _
  have none : ((List.range 256).filter fun c => ([] : List Nat).contains c) = [] := by simp
  rw [execPackageReset, none]
  rfl

theorem State.afterReset_caps (s : State) (kept : Bool) : (s.afterReset kept).caps = 0x18FF0100 := by
  show State.reset.caps = 0x18FF0100
  rfl

theorem State.afterReset_health (s : State) (kept : Bool) :
    (s.afterReset kept).health = if (s.afterReset kept).fwfail = true then 4 else 0 := by
  show State.health { State.reset with fwfail := !s.nextFirmware.verifies } = if (!s.nextFirmware.verifies) = true then 4 else 0
  cases s.nextFirmware.verifies <;> decide

theorem exec_linkTraining (s : State) {ports domid devices : Nat} (hp : ports ≤ 24) (hd : domid < 1024) (hn : devices ≤ 1024) :
    exec (.linkTraining ports domid devices) s = .next { s with nirports := ports, domid := domid, devices := devices } := by
  show execLinkTraining ports domid devices s = _
  rw [execLinkTraining, Nat.min_eq_left hp, Nat.mod_eq_of_lt hd, Nat.min_eq_left hn]

/-! Peers (R346). -/

theorem State.peerAllowed_iff (s : State) (r : PeerReq) : s.peerAllowed r = true ↔
    localOk r.addr = true ∧ ∃ v, s.frameOwner r.addr = some v ∧ (s.vd v).peergrp = r.peerGroup ∧ r.peerGroup ≠ 0 := by
  rw [State.peerAllowed]
  cases s.frameOwner r.addr <;> simp

theorem State.servePeers_alone {s : State} {r : PeerReq} (alone : s.peerReqs = []) :
    ({ s with peerReqs := s.peerReqs ++ [r] } : State).servePeers = servePeersFrom [r] s := by
  have same : ({ s with peerReqs := [] } : State) = s := by rw [← alone]
  show servePeersFrom (s.peerReqs ++ [r]) { s with peerReqs := [] } = _
  rw [same, alone, List.nil_append]

theorem exec_peerRequest_served {s : State} {r : PeerReq} {v : Nat} (alone : s.peerReqs = []) (allowed : s.peerAllowed r = true)
    (owner : s.frameOwner r.addr = some v) (awake : (s.vd v).pstate = .awake) (restored : (s.vd v).unrestored = []) :
    exec (.peerRequest r) s = .next (s.peerServed r) := by
  show execPeerRequest r s = _
  have now : s.peerWaits r = false := by simp [State.peerWaits, owner, awake, restored]
  simp only [execPeerRequest, allowed, owner, awake, State.servePeers_alone alone, servePeersFrom, now, if_true, reduceCtorEq,
    decide_false, Bool.or_self, Bool.not_true, Bool.false_eq_true, if_false]

theorem exec_peerRequest_refused {s : State} {r : PeerReq} (alone : s.peerReqs = []) (refused : s.peerAllowed r = false) :
    exec (.peerRequest r) s = .next (s.peerFault r) := by
  show execPeerRequest r s = _
  simp only [execPeerRequest, refused, State.servePeers_alone alone, servePeersFrom, Bool.false_eq_true, if_false,
    Bool.not_false, if_true]

/-- R346, R323: the KIND 3 record of a request that is refused, field by field, and the error. -/
theorem State.peerFault_eq (s : State) (r : PeerReq) :
    let vd := (s.frameOwner r.addr).getD 0
    let u := s.postRecord vd
      (r.addr % 2 ^ 64 * 2 ^ 192 + (Config.targetCause s.free).toNat * 2 ^ 96 + 3 * 2 ^ 56 + vd % 256 * 2 ^ 48)
    s.peerFault r = { u with free := u.free + 1, hostOut := u.hostOut ++ [.peerError none false] } := by
  intro vd u
  rw [State.peerFault, faultRecord_of_no_group]
  rfl

/-! Soft errors (R349, R350). -/

theorem tooMany_noteError_iff (clk : Nat) (times : List Nat) : tooMany (noteError clk times) = true ↔
    ∃ old, ((clk :: times).take 65)[64]? = some old ∧ clk < old + 1500000000 := by
  have latest : (noteError clk times)[0]? = some clk := rfl
  rw [tooMany, latest, noteError]
  cases ((clk :: times).take 65)[64]? with
  | none => simp
  | some old =>
    exact ⟨fun h => ⟨old, rfl, of_decide_eq_true h⟩, fun ⟨_, same, h⟩ => decide_eq_true (Option.some.inj same ▸ h)⟩

theorem mem_append_if_new (cs : List Nat) (c : Nat) (b : Bool) :
    (c ∈ if b && !cs.contains c then cs ++ [c] else cs) ↔ c ∈ cs ∨ b = true := by
  by_cases h : c ∈ cs <;> cases b <;> simp [h]

/-- R349: a corrected error of no core: CE and SPARES. -/
def State.errorCounted (s : State) (spared : Bool) : State :=
  { s with ce := min (s.ce + 1) (2 ^ 32 - 1), spares := if spared then min (s.spares + 1) 255 else s.spares }

theorem exec_correctedError_none (s : State) (spared : Bool) :
    exec (.correctedError ⟨none, spared⟩) s = .next (s.errorCounted spared) := rfl

theorem exec_correctedError_core (s : State) (c : Nat) (spared : Bool) :
    let times := noteError s.clock (nget [] s.coreErrors c)
    exec (.correctedError ⟨some c, spared⟩) s = .next { s.errorCounted spared with
      coreErrors := nset [] s.coreErrors c times
      failing := if tooMany times && !s.failing.contains c then s.failing ++ [c] else s.failing } := rfl

theorem exec_uncorrectableError_memory (s : State) (a : Nat) :
    exec (.uncorrectableError (.memory a)) s = .next { s with
      uncorr := true
      badMem := if s.badMem.contains (a / 16 * 16) then s.badMem else s.badMem ++ [a / 16 * 16] } := rfl

theorem exec_uncorrectableError_team (s : State) (team : Nat) :
    exec (.uncorrectableError (.team team)) s = .next
      (((s.groups.filter fun g => g.id ≠ 0 && g.team = team && g.live && g.wait ≠ some .halted).map fun g => g.id).foldl State.halt
        { s with uncorr := true }) := rfl

/-! Withdrawal (R350). -/

/-- R350, log 43: a byte after contents are lost: free where one has been written in the range. -/
theorem State.loseMem_byte (s : State) (a n b : Nat) :
    (s.loseMem a n).byte b = if (a ≤ b ∧ b < a + n) ∧ ∃ x, (b, x) ∈ s.mem then Config.lostByte s.free b else s.byte b := by
  have lost : (s.loseMem a n).mem = ((s.mem.filter fun c => decide (a ≤ c.1) && decide (c.1 < a + n)).map fun c => c.1).foldl
      (fun m k => nset unlistedByte m k (Config.lostByte s.free k)) s.mem := by rw [List.foldl_map]; rfl
  rw [State.byte, lost, nget_foldl_nset]
  refine ite_congr (propext ?_) (fun _ => rfl) fun _ => rfl
  simp only [List.mem_map, List.mem_filter, Bool.and_eq_true, decide_eq_true_eq]
  constructor
  · rintro ⟨c, ⟨hc, range⟩, rfl⟩
    exact ⟨range, c.2, hc⟩
  · rintro ⟨range, x, hx⟩
    exact ⟨(b, x), ⟨hx, range⟩, rfl⟩

/-- R350: a channel group is withdrawn, and its contents are lost. -/
def State.groupLost (s : State) (n : Nat) : State :=
  ({ s with withdrawn := s.withdrawn ++ [n] } : State).loseMem (groupBase n) 0x800000000

theorem State.groupLost_byte (s : State) (n b : Nat) :
    (s.groupLost n).byte b =
      if (0x4000000000 + n * 0x800000000 ≤ b ∧ b < 0x4000000000 + (n + 1) * 0x800000000) ∧ ∃ x, (b, x) ∈ s.mem then
        Config.lostByte s.free b else s.byte b := by
  have top : groupBase n + 0x800000000 = 0x4000000000 + (n + 1) * 0x800000000 := by
    rw [groupBase, bulkBase]
    omega
  rw [State.groupLost, State.loseMem_byte, top]
  rfl

/-- R350: the owner of a group holds it no longer. -/
def State.disown (s : State) (owner : Option Nat) (group : Nat) : State :=
  match owner with
  | none => s
  | some v => s.modVd v fun d => { d with groups := d.groups.filter (· ≠ group) }

theorem State.disown_only (s : State) (owner : Option Nat) (group : Nat) :
    s.disown owner group = { s with vds := (s.disown owner group).vds } := by
  cases owner <;> rfl

theorem State.disown_owner (s : State) (v group : Nat) :
    ((s.disown (some v) group).vd v).groups = (s.vd v).groups.filter (· ≠ group) := by
  rw [State.disown, State.vd_modVd_same]

theorem State.disown_other (s : State) {owner : Option Nat} {v : Nat} (group : Nat) (h : ∀ w, owner = some w → v ≠ w) :
    (s.disown owner group).vd v = s.vd v := by
  cases owner with
  | none => rfl
  | some w => exact s.vd_modVd_other _ (h w rfl)

/-- R350: asking for the part's replacement tells the host, and changes nothing else. -/
theorem State.requestReplacement_only (s : State) :
    s.requestReplacement = { s with replaceRequested := true, hostOut := s.requestReplacement.hostOut } := by
  rw [State.requestReplacement]
  split
  · next h => rw [← h]
  · rw [State.signalHealth]
    split <;> rfl

theorem State.disown_requestReplacement (s : State) (owner : Option Nat) (group : Nat) :
    (s.disown owner group).requestReplacement.withdrawn = s.withdrawn ∧
    (s.disown owner group).requestReplacement.replaceRequested = true ∧
    (s.disown owner group).requestReplacement.mem = s.mem ∧
    ∀ v, (s.disown owner group).requestReplacement.vd v = (s.disown owner group).vd v := by
  rw [State.requestReplacement_only, State.disown_only]
  exact ⟨rfl, rfl, rfl, fun _ => rfl⟩

/-- R350: the owner of a channel group. -/
def State.groupOwner (s : State) (group : Nat) : Option Nat := s.vdList.find? fun v => (s.vd v).groups.contains group

/-- R350: a withdrawal that no launch of the group's owner feels. -/
theorem exec_channelGroupWithdrawal {s : State} {n : Nat} (hn : n < 24) (fresh : n ∉ s.withdrawn)
    (quiet : ∀ x ∈ s.launches, n ∉ (s.vd x.vd).groups) :
    exec (.channelGroupWithdrawal n) s = .next ((s.groupLost n).disown (s.groupOwner n) n).requestReplacement := by
  show execChannelGroupWithdrawal n s = _
  rw [execChannelGroupWithdrawal, if_neg (by simp [hn, fresh]), ← State.groupOwner]
  cases owner : s.groupOwner n with
  | none => rfl
  | some v =>
    have holds : n ∈ (s.vd v).groups := by simpa using List.find?_some owner
    have none : s.launches.filter (fun x => x.vd = v) = [] :=
      List.filter_eq_nil_iff.mpr fun x hx hv => quiet x hx (by rwa [of_decide_eq_true hv])
    show Host.Outcome.next (State.requestReplacement (State.modVd
      (List.foldl _ _ (List.map _ (s.launches.filter fun x => x.vd = v))) v _)) = _
    rw [none]
    rfl

/-! The obligation. -/

/-- Settles O56: each event by its rule above. -/
theorem serviceEvents : Obligations.ServiceEvents := by
  unfold Obligations.ServiceEvents
  refine ⟨?health, ?attestation, ?firmware, ?training, ?peers, ?corrected, ?memory, ?team, ?withdrawal, ?caps⟩
  case health =>
    intro s func value
    refine ⟨exec_healthWrite_virtual s value, ?_⟩
    rintro rfl
    exact exec_healthWrite_physical s value
  case attestation =>
    intro s nonce h
    obtain ⟨hnonce, hcaps, hhealth⟩ := s.attestationReport_parts h
    refine ⟨_, _, _, exec_attestation h, hnonce, hcaps, hhealth, fun i hi => ?_⟩
    simpa using nget_putBytes_inside nonce s.mailbox 0 i hi
  case firmware =>
    intro s image sigs kept verifies
    exact ⟨exec_firmwareUpdate_physical s image sigs, fun func => exec_firmwareUpdate_virtual s image sigs,
      s.afterReset kept, exec_packageReset s kept, rfl, rfl, rfl, rfl, rfl, rfl, rfl, rfl, rfl, rfl, rfl,
      s.afterReset_caps kept, rfl, s.afterReset_health kept⟩
  case training =>
    intro s ports domid devices
    exact exec_linkTraining s
  case peers =>
    intro s r alone
    refine ⟨fun v isLocal owner same some awake restored => ?_, fun refused => ?_⟩
    · have served : exec (.peerRequest r) s = .next (s.peerServed r) := exec_peerRequest_served alone
        ((s.peerAllowed_iff r).mpr ⟨isLocal, v, owner, same, some⟩) owner awake restored
      refine ⟨fun n kind good => served.trans ?_, fun bs kind => served.trans ?_⟩
      · rw [State.peerServed, kind]
        show Host.Outcome.next (if _ then _ else _) = _
        rw [if_neg (by simp [good])]
        rfl
      · rw [State.peerServed, kind]
    · have denied : s.peerAllowed r = false := by
        rw [← Bool.not_eq_true, State.peerAllowed_iff]
        rintro ⟨isLocal, v, owner, same, some⟩
        rcases refused with h | h | h
        · exact some h
        · exact absurd isLocal (by simp [h])
        · exact h v owner same
      exact ⟨_, (exec_peerRequest_refused alone denied).trans (congrArg _ (s.peerFault_eq r))⟩
  case corrected =>
    intro s core spared
    cases core with
    | none => exact ⟨_, exec_correctedError_none s spared, rfl, rfl, rfl, rfl, fun _ => rfl, nofun⟩
    | some c =>
      refine ⟨_, exec_correctedError_core s c spared, rfl, rfl, rfl, rfl, nofun, fun c' hc => ?_⟩
      cases hc
      refine ⟨nget_nset_same [] (noteError s.clock (nget [] s.coreErrors c)) c s.coreErrors, ?_⟩
      exact (mem_append_if_new s.failing c _).trans (or_congr_right (tooMany_noteError_iff s.clock _))
  case memory =>
    intro s a
    refine ⟨_, exec_uncorrectableError_memory s a, rfl, ?_, rfl, rfl⟩
    by_cases h : a / 16 * 16 ∈ s.badMem <;> simp [h]
  case team =>
    intro s team g one
    rw [exec_uncorrectableError_team, one]
    rfl
  case withdrawal =>
    intro s n hn fresh quiet
    obtain ⟨hwithdrawn, hreplace, hmem, hvd⟩ := (s.groupLost n).disown_requestReplacement (s.groupOwner n) n
    have byte (a : Nat) := (State.byte_of_mem hmem a).trans (s.groupLost_byte n a)
    refine ⟨_, exec_channelGroupWithdrawal hn fresh quiet, hwithdrawn, hreplace, fun a outside => ?_, fun _ a low high => ?_,
      fun v owner => ?_, fun v other => ?_⟩
    · rw [byte, if_neg (by omega)]
    · rw [byte]
      exact ite_congr (propext (and_iff_right ⟨low, high⟩)) (fun _ => rfl) fun _ => rfl
    · have holder : s.groupOwner n = some v := owner
      rw [hvd, holder]
      exact (s.groupLost n).disown_owner v n
    · exact congrArg VDev.groups ((hvd v).trans ((s.groupLost n).disown_other (owner := s.groupOwner n) n other))
  case caps =>
    intro s
    exact State.caps_toNat

end Sys2Proof.Machine
